-- ==== Sys2Proof/Word.lean ====
section
/-! DEFINITION. The word types of the part and their plainest arithmetic (R17, R65). -/

namespace Sys2Proof

/-- A byte of storage. -/
abbrev Byte := BitVec 8

/-- A 32-bit register value (R17). -/
abbrev Word := BitVec 32

/-- A 64-bit value: an address or a register pair (R24, R65). -/
abbrev Dword := BitVec 64

/-- A set of lanes: lane `l` is bit `l` (R17). -/
abbrev Lanes := BitVec 64

/-- A sparse table: keys strictly rising, no entry equal to the table's default value. -/
abbrev Table (β : Type) := List (Nat × β)

/-- The pair of registers `hi : lo` read as one 64-bit value (R65). -/
def pair (lo hi : Word) : Dword := hi ++ lo

/-- Low half of a 64-bit value. -/
def loWord (d : Dword) : Word := d.extractLsb' 0 32

/-- High half of a 64-bit value. -/
def hiWord (d : Dword) : Word := d.extractLsb' 32 32

/-- The bit field of `w` bits that starts at bit `i`, as a number. -/
def field {n : Nat} (x : BitVec n) (i w : Nat) : Nat := (x.toNat >>> i) % 2 ^ w

end Sys2Proof
end

