-- ==== Sys2Proof/Config.lean ====
section
/-! DEFINITION. What an implementation fixes and the specification leaves open: free values, identity
constants and standard cryptography. Nothing here has a body, so no proof can see a value (log 1, 8, 9, 10). -/

namespace Sys2Proof.Config

/-- A free word: the value the specification leaves open at the place where the counter stood (log 1). -/
opaque freeWord : Nat → BitVec 32

/-- A free byte (log 1): bytes read under a key other than the one they were written under (R202). -/
opaque freeByte : Nat → BitVec 8

/-- A free choice between two allowed outcomes (log 1). -/
opaque freeBool : Nat → Bool

/-- A free number, used for replacement victims, which change timing only (R192, R199, log 13). -/
opaque freeNat : Nat → Nat

/-- Draws of the policy root's random source: handles (R411) and keys (R420) (log 10). -/
opaque randomHandle : Nat → BitVec 32

/-- PCI vendor identifier in the identity block (R409, log 8). -/
opaque vendorId : BitVec 16

/-- PCI device identifier in the identity block (R409, log 8). -/
opaque deviceId : BitVec 16

/-- Silicon and ROM stepping (R409, log 8). -/
opaque stepping : BitVec 8

/-- The fuse state that measurement 5 reports after the stepping (R419). -/
opaque fuses : BitVec 64

/-- SHA3-512 digest of the mask ROM image (R409, log 8). -/
opaque romHash : BitVec 512

/-- Module serial number (R409, log 8). -/
opaque serial : BitVec 64

/-- Fibre and wavelength table of the identity block: byte `i` of the 49 site records of 48 bytes (R409, R392). -/
opaque siteTable : Nat → BitVec 8

/-- SHA3-512 of a byte string (R416, R419, log 9). -/
opaque sha3 : List (BitVec 8) → BitVec 512

/-- Whether an ML-DSA-87 signature verifies: public key, digest, signature (R416, log 9). -/
opaque mlDsaVerify : List (BitVec 8) → BitVec 512 → List (BitVec 8) → Bool

/-- Opens an SPDM secured message (DSP0277): session number, associated data, ciphertext; `none` when the
tag does not verify (R410, log 9). -/
opaque spdmOpen : Nat → List (BitVec 8) → List (BitVec 8) → Option (List (BitVec 8))

/-- The answer of the SPDM responder to a request: session number, request code, payload (R419, log 9). -/
opaque spdmAnswer : Nat → Nat → List (BitVec 8) → List (BitVec 8)

/-- Whether an SPDM or TDISP request passes its standard's own checks (R419, log 9). -/
opaque spdmAccepts : Nat → Nat → List (BitVec 8) → Bool

/-- Whether a saved task's AES-256-GCM tag verifies at restore (R345, log 9). -/
opaque saveTagOk : Nat → Bool

/-- Frames that the root reserves on each reticle for a partition's save pool (R345, log 64). -/
opaque savePoolFrames : Nat

/-- AES-256-GCM ciphertext: key number, initialisation vector, additional authenticated data, plaintext (R395, log 9). -/
opaque gcmSeal : Nat → Nat → Nat → List (BitVec 8) → List (BitVec 8)

/-- The 64-bit tag of the same (R395, log 9). -/
opaque gcmTag : Nat → Nat → Nat → List (BitVec 8) → BitVec 64

/-- The plaintext of a ciphertext whose tag verifies: key number, initialisation vector, additional authenticated data, ciphertext, tag
(R383, R395, log 9). -/
opaque gcmOpen : Nat → Nat → Nat → List (BitVec 8) → BitVec 64 → Option (List (BitVec 8))

/-- Packets that sender-based congestion control lets a pair have unacknowledged in a traffic class, at a point of the free values (R360,
log 79). -/
opaque uetWindow : Nat → Nat

end Sys2Proof.Config
end

