-- ==== Sys2Proof/Syntax.lean ====
section
/-! DEFINITION. The steps of the part: one constructor of `Instr` for each row of the table of operations and
events. Coach instructions carry their decoded fields; events carry the names of what they act on and what an
outside agent supplies. Meaning is given in the machine alone. -/

namespace Sys2Proof

/-- Extension word of LD, ST, LDS and STS (R48, R51). -/
structure MemExt where
  order : BitVec 3
  scope : BitVec 3
  policy : BitVec 3
  ofs : BitVec 22
deriving DecidableEq, Repr

/-- Extension word of ATOM and ATOMS (R51, R216). -/
structure AtomExt where
  order : BitVec 3
  scope : BitVec 3
  policy : BitVec 3
  op : BitVec 4
  ofs : BitVec 18
deriving DecidableEq, Repr

/-- What a request between port engines asks for (R208, R356, R382). `pc` is a pitch code (R195), `pol` a cache policy
(R210); `colRead` and `colWrite` name bytes of one row by column (R252), `nibble` one half of a byte (R251), and `post`
carries the KIND of its flit: 4, 6 or 7. -/
inductive ReqKind where
  | read (bytes pol : Nat)
  | colRead (bytes pc : Nat)
  | axis (pc w : Nat)
  | pin (pc : Nat)
  | unpin (pc : Nat)
  | pf (pc : Nat)
  | write (pol : Nat) (data : List Byte)
  | colWrite (pc : Nat) (data : List Byte)
  | nibble (high : Bool) (b : Byte)
  | atomic (op : BitVec 4) (bytes pol : Nat) (x cmp : Dword)
  | post (kind : Nat) (data : List Byte)
  | signal (inc : Dword)
deriving DecidableEq, Repr

/-- A request between port engines (R356, R357, R382, R391). -/
structure RemoteReq where
  srcNode : Nat
  srcRet : Nat
  tid : Nat
  vf : Nat
  tc : Nat := 0
  dest : Dword
  kind : ReqKind
deriving DecidableEq, Repr

/-- The fields of a COLL descriptor that members must agree on, and a member's source bytes (R371, R374). -/
structure CollJoin where
  member : Nat
  op : Nat
  dtype : Nat
  rop : Nat
  count : Nat
  root : Nat
  data : List Byte
deriving DecidableEq, Repr

/-- The fields of a flit, CRC apart (R382). `via` and `ch` are no fields of the wire: the site at which the route selector has it
leave the wafer, the planned links of R353, and the mesh channel (R384). -/
structure Flit where
  age : Nat := 0
  ver : Nat := 0
  tc : Nat := 0
  kp : Bool := false
  kind : Nat
  lseq : Nat := 0
  lack : Nat := 0
  nak : Bool := false
  bytes : Nat := 0
  vf : Nat := 0
  dest : Dword := 0
  srcNode : Nat := 0
  srcRet : Nat := 0
  tid : Nat := 0
  payload : List Byte := []
  mac : Dword := 0
  via : Option Nat := none
  ch : Nat := 0
deriving DecidableEq, Repr

/-- Where an uncorrectable error of DRAM, LLC or L1 data lies (R203). -/
inductive EccSite where
  | dram (pa : Nat)
  | l1 (ret cu seg : Nat)
  | l1Column (ret cu base pc j : Nat)
  | llc (ret seg : Nat)
deriving DecidableEq, Repr

/-- A command as the root took it from a mailbox (R410): which function sent it (none is the physical function),
its journal sequence number, tag, handle and body. -/
structure Cmd where
  fn : Option Nat
  seq : Nat
  ctag : Dword
  handle : Word
  body : List Byte
  /-- Its completion entry has been written (R411). -/
  answered : Bool := false
deriving DecidableEq, Repr

/-- The steps of the part (the table of operations and events). In LOAD_COMPLETE, COPY_CHUNK_WRITE and COPY_NODE_PERFORMED `remote` says what
other wafers have answered, or nothing (log 69). -/
inductive Instr where
  -- issue and readiness
  | bundleFetch (t c : Nat)
  | yieldHintEnd (t c : Nat)
  | fragmentReady (t c age : Nat)
  | issueReservation (t c : Nat)
  | fragmentPriority (t c age : Nat)
  -- SYS (R127)
  | nop
  | yieldN (n : BitVec 8)
  | yieldExpiry (t c age : Nat)
  | srd (gdst : Bool) (d sel : BitVec 7)
  | swr (s sel : BitVec 7)
  | trap
  | brkpt
  | ctrrd (gdst : Bool) (d : BitVec 7) (m : BitVec 5)
  -- control transfers (R130 to R135)
  | bra (disp : BitVec 23)
  | bru (disp : BitVec 23)
  | brd (disp : BitVec 23)
  | call (disp : BitVec 23)
  | calli (k : BitVec 5)
  | ret
  | exit
  | brxu (k : BitVec 5)
  -- convergence, planes, resizing (R136 to R141)
  | rcvset (k : BitVec 2) (disp : BitVec 23)
  | rcvwait (k : BitVec 2)
  | plset (n : BitVec 3)
  | plsetr (s : BitVec 7)
  | csplit (wl : BitVec 2)
  | csplitComplete (t c : Nat)
  | cfuse
  -- barriers and waits (R142 to R146)
  | barSync (i : Bool) (id : BitVec 8) (k : BitVec 5)
  | barArr (i : Bool) (id : BitVec 8) (k : BitVec 5)
  | barWait (i : Bool) (id : BitVec 8)
  | barrierArrival (t c id : Nat)
  | wait (l s c t n : BitVec 5)
  | waitRelease (t c age : Nat)
  | counterHoldRelease (t c age : Nat)
  | storeQueueRoom (t c age : Nat)
  -- loops (R147, R148)
  | loop (b t : BitVec 6) (ns : BitVec 2)
  | step (file : Bool) (reg : BitVec 7) (inc : BitVec 17)
  -- task instructions (R153)
  | tend
  | tspawn (k : BitVec 5)
  | tsig (g : BitVec 6)
  -- integer (R161 to R169)
  | iadd (u : Bool) (d a b : BitVec 7)
  | isub (u : Bool) (d a b : BitVec 7)
  | imin (u : Bool) (d a b : BitVec 7)
  | imax (u : Bool) (d a b : BitVec 7)
  | iminn (u : Bool) (d a b : BitVec 7)
  | imaxn (u : Bool) (d a b : BitVec 7)
  | iadds (u : Bool) (d a b : BitVec 7)
  | isubs (u : Bool) (d a b : BitVec 7)
  | and (u : Bool) (d a b : BitVec 7)
  | or (u : Bool) (d a b : BitVec 7)
  | xor (u : Bool) (d a b : BitVec 7)
  | andn (u : Bool) (d a b : BitVec 7)
  | shl (u : Bool) (d a b : BitVec 7)
  | shr (u : Bool) (d a b : BitVec 7)
  | sar (u : Bool) (d a b : BitVec 7)
  | rotr (u : Bool) (d a b : BitVec 7)
  | imul (u : Bool) (d a b : BitVec 7)
  | imulh (u : Bool) (d a b : BitVec 7)
  | imulhn (u : Bool) (d a b : BitVec 7)
  | imad (u : Bool) (d a b : BitVec 7)
  | popc (u : Bool) (d a : BitVec 7)
  | clz (u : Bool) (d a : BitVec 7)
  | brev (u : Bool) (d a : BitVec 7)
  | bfe (u : Bool) (d a b : BitVec 7)
  | bfen (u : Bool) (d a b : BitVec 7)
  | bfi (u : Bool) (d a b : BitVec 7)
  | bshuf (u : Bool) (d a b : BitVec 7)
  | ffs (u : Bool) (d a : BitVec 7)
  | icmp (u : Bool) (cc pd : BitVec 3) (a b : BitVec 7)
  | sel (u : Bool) (ps : BitVec 3) (d a b : BitVec 7)
  | lea (u : Bool) (s : BitVec 3) (d a b : BitVec 7)
  | iaddi (u : Bool) (d a imm : BitVec 7)
  | andi (u : Bool) (d a imm : BitVec 7)
  | ori (u : Bool) (d a imm : BitVec 7)
  | xori (u : Bool) (d a imm : BitVec 7)
  | shli (u : Bool) (d a imm : BitVec 7)
  | shri (u : Bool) (d a imm : BitVec 7)
  | sari (u : Bool) (d a imm : BitVec 7)
  | icmpiEq (u : Bool) (pd : BitVec 3) (a imm : BitVec 7)
  | movi (u : Bool) (d : BitVec 7) (imm : BitVec 16)
  | moviH (u : Bool) (d : BitVec 7) (imm : BitVec 16)
  | iaddCo (u : Bool) (d a b : BitVec 7)
  | iaddCiCo (u : Bool) (d a b : BitVec 7)
  | isubBo (u : Bool) (d a b : BitVec 7)
  | isubBiBo (u : Bool) (d a b : BitVec 7)
  -- floating point (R170 to R175)
  | fadd (u : Bool) (rnd : BitVec 3) (d a b : BitVec 7)
  | fsub (u : Bool) (rnd : BitVec 3) (d a b : BitVec 7)
  | fmul (u : Bool) (rnd : BitVec 3) (d a b : BitVec 7)
  | ffma (u : Bool) (rnd : BitVec 3) (d a b : BitVec 7)
  | fmin (u : Bool) (d a b : BitVec 7)
  | fmax (u : Bool) (d a b : BitVec 7)
  | fminm (u : Bool) (d a b : BitVec 7)
  | fmaxm (u : Bool) (d a b : BitVec 7)
  | fabs (u : Bool) (d a : BitVec 7)
  | fneg (u : Bool) (d a : BitVec 7)
  | fcopysign (u : Bool) (d a b : BitVec 7)
  | fclass (u : Bool) (d a : BitVec 7)
  | fcmp (u : Bool) (cc pd : BitVec 3) (a b : BitVec 7)
  | rcp (u : Bool) (rnd : BitVec 3) (d a : BitVec 7)
  | rsq (u : Bool) (rnd : BitVec 3) (d a : BitVec 7)
  | sqrt (u : Bool) (rnd : BitVec 3) (d a : BitVec 7)
  | exp2 (u : Bool) (rnd : BitVec 3) (d a : BitVec 7)
  | log2 (u : Bool) (rnd : BitVec 3) (d a : BitVec 7)
  | sinpi (u : Bool) (rnd : BitVec 3) (d a : BitVec 7)
  | cospi (u : Bool) (rnd : BitVec 3) (d a : BitVec 7)
  | tanh (u : Bool) (rnd : BitVec 3) (d a : BitVec 7)
  | cvt (u : Bool) (rnd : BitVec 3) (d a : BitVec 7) (code : BitVec 4)
  | badd2 (rnd : BitVec 3) (d a b : BitVec 7)
  | bmul2 (rnd : BitVec 3) (d a b : BitVec 7)
  | bfma2 (rnd : BitVec 3) (d a b : BitVec 7)
  | rand (d : BitVec 7)
  | randf (d : BitVec 7)
  -- lane exchange (R177 to R182)
  | idxO (d a b : BitVec 7)
  | idxC (d a b : BitVec 7)
  | upC (d a b : BitVec 7)
  | downC (d a b : BitVec 7)
  | xorC (d a b : BitVec 7)
  | bcastC (d a : BitVec 7)
  | voteAny (qd pa : BitVec 3)
  | voteAll (qd pa : BitVec 3)
  | voteBallot (gd : BitVec 6) (pa : BitVec 3)
  | voteCount (gd : BitVec 6) (pa : BitVec 3)
  | voteFirst (gd : BitVec 6) (pa : BitVec 3)
  | rdc (op : BitVec 3) (gd : BitVec 6) (a : BitVec 7)
  | prfx (form : BitVec 2) (d a : BitVec 7)
  -- memory (R214 to R222)
  | ld (size : BitVec 3) (d o : BitVec 7) (k : BitVec 5) (scale : BitVec 2) (x : Option MemExt)
  | st (size : BitVec 3) (d o : BitVec 7) (k : BitVec 5) (scale : BitVec 2) (x : Option MemExt)
  | lds (size : BitVec 3) (d o : BitVec 7) (k : BitVec 5) (scale : BitVec 2) (x : Option MemExt)
  | sts (size : BitVec 3) (d o : BitVec 7) (k : BitVec 5) (scale : BitVec 2) (x : Option MemExt)
  | atom (size : BitVec 3) (d o : BitVec 7) (k : BitVec 5) (scale : BitVec 2) (x : AtomExt)
  | atoms (size : BitVec 3) (d o : BitVec 7) (k : BitVec 5) (scale : BitVec 2) (x : AtomExt)
  | loadComplete (t c seq : Nat) (lanes : Lanes) (remote : List Byte)
  | storePerformed (t c : Nat) (lanes : Lanes)
  | fence (scope : BitVec 3) (kind : BitVec 2)
  | fenceComplete (t c seq : Nat)
  | pin (d a : BitVec 7) (pitch : BitVec 4)
  | unpin (a : BitVec 7) (pitch : BitVec 4)
  | pf (a : BitVec 7) (pitch : BitVec 4) (level : BitVec 2)
  | ldaxis (d a : BitVec 7) (pitch : BitVec 4) (width : BitVec 2)
  | remoteRequestArrive (ret : Nat) (req : RemoteReq)
  | remoteRefusal (t c seq : Nat)
  | classTimeout (t c seq : Nat)
  -- copy engine (R253)
  | cpT (n : BitVec 4) (c s : BitVec 7)
  | cpLLd (a s : BitVec 7)
  | cpLSt (a s : BitVec 7)
  | cpSeal (g : BitVec 6)
  | cpQry (g : BitVec 6)
  | copyChunkWrite (t c seq idx : Nat) (remote : List Byte)
  | batchComplete (t c : Nat)
  -- matrix engine (R272)
  | mldb (gd gs : BitVec 6)
  | mldbComplete (t c seq : Nat)
  | mma (ac : BitVec 3) (a t : BitVec 7) (afmt : BitVec 2)
  | mmg (ac : BitVec 3) (a t : BitVec 7) (afmt : BitVec 2)
  | matrixPassStart (t group : Nat)
  | matrixPartComplete (t c seq octet : Nat)
  | mzero (ac : BitVec 3)
  | mrd (ac : BitVec 3) (col : BitVec 4) (d : BitVec 7)
  | mst (ac : BitVec 3) (a : BitVec 7) (gc : BitVec 6)
  | mstSc (ac : BitVec 3) (a : BitVec 7) (gc : BitVec 6)
  | mstPartComplete (t c seq octet : Nat)
  | mqry (gd gt : BitVec 6) (clr : Bool)
  -- port engine (R361)
  | postW (a s : BitVec 7) (scope : BitVec 3) (tc : BitVec 2)
  | postS (a i : BitVec 7) (scope : BitVec 3) (tc : BitVec 2)
  | postQ (a s : BitVec 7) (scope : BitVec 3) (tc : BitVec 2) (fmt : Bool)
  | postComplete (t c seq : Nat)
  | coll (s : BitVec 7) (g : BitVec 6) (scope : BitVec 3) (tc : BitVec 2)
  | collInstanceProceed (vf grp k : Nat) (remote : List CollJoin)
  | collComplete (t c seq : Nat)
  | collTimeout (vf grp k : Nat)
  | collWithdrawMsg (vf grp k : Nat)
  | nxqry (gd gg : BitVec 6) (sel : BitVec 2)
  -- dispatcher (R295 to R349)
  | taskStopTimeout (t : Nat)
  | taskComplete (t : Nat)
  | graphStart (g : Nat)
  | nodeComplete (g n : Nat)
  | tsigApply (t : Nat)
  | tspawnApply (t : Nat)
  | spawnEntryFree (ret : Nat)
  | copyNodePerformed (g n : Nat) (remote : List Byte)
  | chunkReport (l i : Nat)
  | taskTranslate (t : Nat)
  | atsTranslationCompletion (t : Nat) (va : Dword) (pa : Dword) (r w : Bool)
  | prgResponse (t : Nat) (va : Dword) (code : Nat)
  | taskPlace (ret : Nat)
  | coopLaunchPlace (l : Nat)
  | atsInvalidationRequest (vf : Nat) (va len : Nat)
  | invalidationComplete (i : Nat)
  | budgetPeriod (ret : Nat)
  | preemptSave (t : Nat)
  | preemptTimeout (t : Nat)
  | preemptForced (t : Nat)
  | taskRestore (t : Nat)
  | eccUncorrectable (site : EccSite)
  | scratchEccUncorrectable (t : Nat)
  | fillCountPeriod (ret : Nat)
  | frameMigrate (vf frame : Nat)
  | frameSettleEnd (vf frame : Nat)
  | temperatureTrip (ret : Nat)
  -- links (R382 to R401)
  | flitReceive (site port ch : Nat) (bits : BitVec 768)
  | drainRaise (site ch : Nat)
  | nakReceive (site port lack : Nat)
  | retrainComplete (site port : Nat)
  | retrainDecay (site port : Nat)
  | laserFailure (site fibre : Nat)
  | keyRotationRequest (site port : Nat)
  | keyInstall (site port : Nat) (incoming : Bool)
  | flitCountLimit (site port : Nat)
  | reflectometryProbe (site fibre : Nat) (dir : Bool) (event dist loss : Nat)
  | uetPacketReceive (ret peer psn : Nat) (f : Flit)
  | uetSackReceive (ret peer acked : Nat) (missing : List Nat)
  | uetRetransmitTimer (ret peer psn : Nat)
  | rootMessage (srcRet srcNode : Nat) (payload : List Byte)
  -- mailboxes and the root (R408 to R435)
  | submissionRead
  | createVf (cmd : Cmd)
  | assign (cmd : Cmd)
  | loadPolicy (cmd : Cmd)
  | pause (cmd : Cmd)
  | resume (cmd : Cmd)
  | evict (cmd : Cmd)
  | resetVf (cmd : Cmd)
  | destroy (cmd : Cmd)
  | readJournal (cmd : Cmd)
  | queryCounters (cmd : Cmd)
  | linkRestore (cmd : Cmd)
  | identify (cmd : Cmd)
  | podForm (cmd : Cmd)
  | nodeTable (cmd : Cmd)
  | submit (cmd : Cmd)
  | cancel (cmd : Cmd)
  | setS1root (cmd : Cmd)
  | s1Inval (cmd : Cmd)
  | ctrConfig (cmd : Cmd)
  | rekey (cmd : Cmd)
  | migrate (cmd : Cmd)
  | pausemaxExpiry (vf : Nat)
  | watchdogExpiry
  | journalRecopy (ret : Nat)
  | zeroiseConfirm (slot ret : Nat)
  -- events that follow from the part's own work (R159, R310, R420, R421)
  | interlockResultWritten (t c : Nat)
  | creditExhausted (ret part : Nat)
  | frameReencrypted (part frame : Nat)
  | evictImageWritten (vf : Nat)
  -- from outside: registers, power, errors (R407, R412, R427). The steps from here on come from outside only: the
  -- compiler cannot build a constructor with fields this far down an inductive.
  | mbctlWrite (fn : Option Nat) (val : Word)
  | sqtailDoorbell (fn : Option Nat) (val : Word)
  | cqheadDoorbell (fn : Option Nat) (val : Word)
  | registerWrite (fn : Option Nat) (off : Nat) (val : Word)
  | moduleReset
  | powerLoss
  | powerUp
  | uncorrectableStateError (ret : Nat)
  | keySlotEccError (slot : Nat)
  | rootEccError
  -- SPDM, TDISP and IDE_KM (R419)
  | getVersion (vf : Option Nat) (msg : List Byte)
  | getCapabilities (vf : Option Nat) (msg : List Byte)
  | negotiateAlgorithms (vf : Option Nat) (msg : List Byte)
  | getDigests (vf : Option Nat) (msg : List Byte)
  | getCertificate (vf : Option Nat) (msg : List Byte)
  | challenge (vf : Option Nat) (msg : List Byte)
  | getMeasurements (vf : Option Nat) (msg : List Byte)
  | keyExchange (vf : Option Nat) (msg : List Byte)
  | finish (vf : Option Nat) (msg : List Byte)
  | keyUpdate (vf : Option Nat) (msg : List Byte)
  | heartbeat (vf : Option Nat) (msg : List Byte)
  | endSession (vf : Option Nat) (msg : List Byte)
  | vendorDefinedRequest (vf : Option Nat) (msg : List Byte)
  | lockInterface (vf : Nat) (msg : List Byte)
  | getDeviceInterfaceReport (vf : Nat) (msg : List Byte)
  | startInterface (vf : Nat) (msg : List Byte)
  | stopInterface (vf : Nat) (msg : List Byte)
  | ideKmMessage (vf : Nat) (msg : List Byte)
deriving DecidableEq, Repr

end Sys2Proof
end

