-- ==== Sys2Proof/Machine/State.lean ====
section
/-! DEFINITION. The state of the part as plain data, the reasons a step can stop, and the state after reset.
Each field's docstring names the rule of the specification that gives it. -/

namespace Sys2Proof.Machine

/-- The asynchronous classes of R5. -/
inductive Cls where
  | l | s | c | t | n
deriving DecidableEq, Repr

/-- Plane-function context (R94): header address, image base, stride, log of the plane count, length in bundles. -/
structure FnCtx where
  hdr : Dword := 0
  base : Dword := 0
  stride : Nat := 0
  plog : Nat := 0
  len : Nat := 0
deriving DecidableEq, Repr

/-- A call-stack entry: the caller's context and its return offset (R124, R134). -/
structure CallEntry where
  ctx : FnCtx
  off : Word
deriving DecidableEq, Repr

/-- A STEP word as its LOOP recorded it (R148, R149). -/
structure StepWord where
  file : Bool
  reg : BitVec 7
  inc : BitVec 17
deriving DecidableEq, Repr

/-- A loop-stack entry (R149): body range, passes left, STEP words, call depth. -/
structure LoopEntry where
  start : Word
  stop : Word
  left : Word
  steps : List StepWord
  depth : Nat
deriving DecidableEq, Repr

/-- Why a fragment is held (R47, R99, R109, R119, R137, R141). -/
inductive Hold where
  /-- Not held. -/
  | none
  /-- At WAIT, with the five thresholds (R145). -/
  | wait (l s c t n : BitVec 5)
  /-- At a counted slot that would take its counter past 63 by counting `n` more (R6). -/
  | counter (cls : Cls) (n : Nat)
  /-- At a store that finds the store queue full (R212). -/
  | queue
  /-- At RCVWAIT rbk (R137). -/
  | rcv (k : BitVec 2)
  /-- At BAR.SYNC (`sync`) or BAR.ARR, before its coach has arrived (R108). -/
  | bar (sync : Bool) (id k : Nat)
  /-- After the arrival, or at BAR.WAIT: until the barrier's generation number is at least `gen` (R109). -/
  | gen (fuse : Bool) (id gen : Nat)
  /-- At CSPLIT, with the new width in octets, until the counters reach zero (R104). -/
  | csplit (w : Nat)
  /-- At CFUSE (R105). -/
  | cfuse
  /-- At a convergence point of a stopping task, its slot not executed (R119). -/
  | stopped
deriving DecidableEq, Repr

/-- What a bundle does when its last slot has issued (R47). -/
inductive Next where
  | seq
  | jump (off : Word)
  | call (ctx : FnCtx)
  | ret
  | exit
  | tend
  | split (lanes : Lanes) (off : Word)
  | skip (off : Word)
deriving DecidableEq, Repr

/-- One plane's pass over one slot of a bundle (R97): plane, lanes, words, predicate field, whether it opens a chained
group in its plane, and the lowest active lane of the plane (R118). -/
structure Pass where
  plane : Nat := 0
  lanes : Lanes := 0
  word : Word := 0
  ext : Word := 0
  pred : BitVec 4 := 7
  first : Bool := true
  low : Nat := 0
deriving DecidableEq, Repr

/-- What one slot of a bundle does at one time (R97, R98): issue order, slot, and as in `Pass` for its lowest plane, the
lanes being those of every plane that acts together. `passes` are the passes that it joins; none listed means the one
pass that the other fields give. -/
structure Item where
  ord : Nat := 0
  slot : Nat := 0
  plane : Nat := 0
  lanes : Lanes := 0
  word : Word := 0
  ext : Word := 0
  pred : BitVec 4 := 7
  first : Bool := true
  low : Nat := 0
  passes : List Pass := []
deriving DecidableEq, Repr

/-- A coach fault raised by an issued slot, waiting for the bundle's end (R118). -/
structure CoachFault where
  code : Nat
  plane : Nat
  slot : Nat
  addr : Dword
  lane : Nat := 0
  pi : Nat := 0
deriving DecidableEq, Repr

/-- Where control came from, for the record of a fault found when the target is fetched (R38). -/
structure Xfer where
  off : Word
  slot : Nat
  hdr : Dword
deriving DecidableEq, Repr

/-- A fragment's stay away from issue that ends with time (R126, R128). -/
structure Stall where
  till : Nat
  yielded : Bool
deriving DecidableEq, Repr

/-- The registers of a coach that slots read (R44): v, g, p, q, plane numbers, carries, GMODE, EXV, CPSTAT and the parked lanes. -/
structure Regs where
  v : Table Word := []
  g : Table Word := []
  p : Table Lanes := []
  q : BitVec 8 := 0
  pi : Table (BitVec 3) := []
  cy : Lanes := 0
  gcy : Bool := false
  gmode : Word := 1
  exv : Word := 0x80000000
  cpstat : Word := 0
  parked : Lanes := 0
deriving DecidableEq, Repr

/-- What a plane's chained group reads (R44): the coach's registers as they stood before the group, the flags that the group has
raised (R76), the code of the task's oldest record then (R52), and the group's first slot. -/
structure Snap where
  plane : Nat
  regs : Regs := {}
  flags : Word := 0
  oldest : Nat := 0
  slot : Nat := 0
deriving DecidableEq, Repr

/-- A split-table entry (R99, R124). `items` and `next` are the slots that issue when a hold ends (R97). -/
structure Frag where
  mask : Lanes := 0
  off : Word := 0
  age : Nat := 0
  hold : Hold := .none
  ctx : FnCtx := {}
  calls : List CallEntry := []
  loops : List LoopEntry := []
  items : List Item := []
  /-- What the chained groups read that its hold has cut in two (R6, R44). -/
  snaps : List Snap := []
  next : Next := .seq
  cfault : Option CoachFault := none
  /-- Set when the next fetch is the target of a transfer (R38). -/
  xfer : Option Xfer := none
  /-- A bundle is part issued: `items` are its slots still to issue (R47). -/
  mid : Bool := false
  /-- Slot and plane at which it is held, that plane's lowest active lane, cycle of the hold, and the bundle's LV and YH (R108, R342, R39). -/
  heldSlot : Nat := 0
  heldPlane : Nat := 0
  heldLow : Nat := 0
  heldAt : Nat := 0
  /-- Cycle from which it stands at CFUSE with nothing outstanding (R105, R106). -/
  fuseAt : Option Nat := none
  lv : Bool := false
  yh : Nat := 0
  yieldN : Option Nat := none
  stall : Option Stall := none
  readySince : Nat := 0
  /-- Issue cycles of its coach that went to other fragments while it was ready (R114). -/
  passed : Nat := 0
deriving DecidableEq, Repr

/-- A reconvergence register that is not empty (R136). -/
structure Rcv where
  off : Word
  hdr : Dword
  mask : Lanes
deriving DecidableEq, Repr

/-- What a fault record names of the slot that issued an operation (R120). -/
structure Site where
  plane : Nat := 0
  slot : Nat := 0
  age : Nat := 0
  off : Word := 0
  hdr : Dword := 0
deriving DecidableEq, Repr

/-- Where an access goes after translation (R206, R331): a global address with NODE resolved, or host memory, or
the task's scratchpad. `key` is the key slot of the frame (R202). -/
inductive Loc where
  | glob (node ret off : Nat) (key : Nat) (wid : Nat)
  | host (a : Nat) (wid : Nat)
  | scratch (a : Nat)
deriving DecidableEq, Repr

/-- One lane's part of an access: its virtual or scratchpad address, where it goes, the bytes it brings, and whether the port
engine has taken its request (R208). -/
structure LaneOp where
  lane : Nat
  va : Dword
  loc : Loc
  data : List Byte := []
  asked : Bool := false
deriving DecidableEq, Repr

/-- What a copy moves (R248, R255): a box of a layout record whose base is resolved, or bytes. -/
inductive CopyKind where
  | box (rec : BitVec 512) (c0 c1 c2 c3 : Int)
  | linear (store : Bool) (va : Dword) (len : Nat)
deriving DecidableEq, Repr

/-- One copy of a batch (R254): the lane that issued it, its scratchpad address, chunks written, flags. -/
structure Copy where
  lane : Nat
  site : Site
  kind : CopyKind
  s : Nat
  /-- Its place in the coach's issue order (R237). -/
  seq : Nat := 0
  /-- Chunks written so far, and in all (R263). -/
  next : Nat := 0
  chunks : Nat := 0
  satf : Bool := false
  nanf : Bool := false
  oobf : Bool := false
  /-- The next chunk's bytes for other wafers are with the port engine, its own are written (R263). -/
  wait : Bool := false
deriving DecidableEq, Repr

/-- An entry of the tag directory (R267). -/
structure TagEntry where
  tag : Nat
  group : Nat
  pos : Nat
  fmt : Nat
  ready : Bool
deriving DecidableEq, Repr

/-- A part of a matrix operation (R271): its octet, enabled lanes of the octet, the accumulator, operands. -/
structure Part where
  octet : Nat
  lanes : Lanes
  ac : Nat
  /-- Rows and where they lie: scratchpad addresses of A rows (R276, R277), or destinations (R280). -/
  rows : List (Nat × Dword × Loc) := []
  afmt : Nat := 0
  slot : Option TagEntry := none
  /-- Its pass has started, and its place in the pass (R284, R285). -/
  started : Bool := false
  turn : Nat := 0
  /-- Rows of a write-out that are performed, or with the port engine (R280, R282). -/
  gone : List Nat := []
  done : Bool := false
deriving DecidableEq, Repr

/-- One packet of a post: its destination and its bytes, and whether the port engine has taken it (R364). -/
structure Packet where
  va : Nat
  loc : Loc
  data : List Byte
  asked : Bool := false
deriving DecidableEq, Repr

/-- What a post sends (R365, R366, R368). -/
inductive PostKind where
  | words (src len : Nat)
  | signal (inc : Dword)
  | quant (xa n ra : Nat) (e5m2 : Bool)
deriving DecidableEq, Repr

/-- The post of one lane (R363): its destination, whether the port engine has accepted it (R369), and the packets that
its homes have yet to acknowledge. -/
structure Post where
  lane : Nat
  kind : PostKind
  dst : Dword
  accepted : Bool := false
  packets : List Packet := []
deriving DecidableEq, Repr

/-- One lane's participation in a collective (R371, R373, R374): group, instance, what it joins with, and the result for
its destination once the instance has proceeded. -/
structure Particip where
  lane : Nat
  vf : Nat
  grp : Nat
  inst : Nat
  join : CollJoin
  src : Dword
  dst : Dword
  srcLen : Nat
  dstLen : Nat
  result : Option (List Byte) := none
  /-- Its member's data have left for the members on other wafers; its result is with the port engine (R376). -/
  told : Bool := false
  wait : Bool := false
  /-- Cycle since which a member of its group cannot be reached, and the class timeout that held when it joined (R377, R416). -/
  lostAt : Option Nat := none
  timeout : Nat := 0
  done : Bool := false
deriving DecidableEq, Repr

/-- What an outstanding operation does (R5, R212, R219, R221, R256, R271, R361). -/
inductive Body where
  | load (size : BitVec 3) (d : BitVec 7) (x : MemExt)
  | store (size : BitVec 3) (x : MemExt)
  | atom (size : BitVec 3) (d : BitVec 7) (x : AtomExt)
  | ldaxis (d : BitVec 7) (pc : Nat) (w : Nat)
  | pin (d : BitVec 7) (pc : Nat)
  | unpin (pc : Nat)
  | pf (pc : Nat) (level : Nat)
  | fence (scope kind : Nat)
  | batch (num : Nat) (copies : List Copy) (err : Option (Nat × Nat × Nat))
  | mldb (e : TagEntry) (s : Nat)
  | mma (parts : List Part)
  | mzero (parts : List Part)
  | mrd (col : Nat) (d : BitVec 7) (parts : List Part)
  | mst (sc : Bool) (ctl seed : Word) (parts : List Part)
  | post (scope tc : Nat) (ps : List Post)
  | coll (scope tc : Nat) (ps : List Particip)
deriving DecidableEq, Repr

/-- An outstanding operation of a coach. `lanes` are the lane parts not yet performed, in ascending lane order. -/
structure Op where
  seq : Nat
  cls : Option Cls
  site : Site := {}
  body : Body
  lanes : List LaneOp := []
  /-- Cycle at which it issued, for class timeouts (R354). -/
  start : Nat := 0
  done : Bool := false
  /-- It waits for an acknowledgement that is lost, and never completes (R242). -/
  never : Bool := false
deriving DecidableEq, Repr

/-- A vector register of one lane that an operation has written, while no WAIT has observed that the operation is complete (R7,
R46): the operation's class, the register's key, its values before and after, the one that it shows, and how many operations of
the class the coach has issued since. -/
structure Fresh where
  cls : Option Cls
  key : Nat
  old : Word
  new : Word
  shown : Word
  later : Nat := 0
deriving DecidableEq, Repr

/-- A sibling set (R105): width, first octet and numbers of the coach before the split, and the live siblings. -/
structure SibSet where
  id : Nat
  width : Nat
  octet0 : Nat
  num : Nat
deriving DecidableEq, Repr

/-- A coach (R17, R90, R99): its registers, split table and outstanding operations. Lanes are numbered within the
CU (R17), so a coach of first octet `o` holds lanes `8 o` upward. -/
structure Coach where
  num : Nat := 0
  /-- Set for what is left of a coach whose number is free again: the number that its records name (R105, R106, R120). -/
  former : Option Nat := none
  octet0 : Nat := 0
  width : Nat := 1
  /-- v registers, keyed by register * 64 + lane (R17). -/
  v : Table Word := []
  /-- g0 to g63 (R17). -/
  g : Table Word := []
  /-- p0 to p6, one lane mask each (R17). -/
  p : Table Lanes := []
  /-- q0 to q6, bit i for qi (R17). -/
  q : BitVec 8 := 0
  /-- Plane number of each lane (R94, R95). -/
  pi : Table (BitVec 3) := []
  live : Lanes := 0
  parked : Lanes := 0
  /-- Carry bit of each lane (R168). -/
  cy : Lanes := 0
  gcy : Bool := false
  gmode : Word := 1
  exv : Word := 0x80000000
  /-- Stochastic-rounding state of each lane (R78). -/
  sr : Table Word := []
  cpstat : Word := 0
  /-- rb0 to rb3 that are not empty (R101). -/
  rb : List (BitVec 2 × Rcv) := []
  frags : List Frag := []
  nextAge : Nat := 1
  ops : List Op := []
  seq : Nat := 0
  openBatch : List Copy := []
  /-- The error that cut a copy of the open batch short (R262). -/
  openErr : Option (Nat × Nat × Nat) := none
  nextBatch : BitVec 16 := 0
  mxSat : Bool := false
  mxNan : Bool := false
  /-- Sibling sets, innermost first (R105). -/
  sibs : List SibSet := []
  /-- For each barrier, the generation number at which the generation of the latest BAR.ARR has completed (R109). -/
  arrived : List (Nat × Nat) := []
  /-- Registers of which a read may still give the old value (R46). -/
  fresh : List Fresh := []
  /-- Registers that slots wrote while an operation that writes them was outstanding: the operation, the register's key (R46). -/
  crossed : List (Nat × Nat) := []
  /-- Operations whose acknowledgement is lost: what covers one of them never completes, whenever it issues (R242). -/
  lost : List Op := []
  stopped : Bool := false
  tended : Bool := false
  /-- End of the yield hint (R39). -/
  yieldTill : Nat := 0
  readySince : Nat := 0
  /-- Whether the next issue cycle is reserved for it (R112). -/
  reserved : Bool := false
  /-- Results that a pipe has not yet written, for timing only (R45, R159). -/
  interlocks : Nat := 0
deriving DecidableEq, Repr

/-- A task's shape (R86). -/
structure Shape where
  coaches : Nat := 1
  width : Nat := 1
  regs : Nat := 8
  scratch : Nat := 0
  barriers : Nat := 0
deriving DecidableEq, Repr

/-- A window extent (R325). -/
structure Extent where
  va : Nat
  len : Nat
  pa : Dword
  perm : Nat
  host : Bool
  pin : Bool
  wid : Nat
  key : Nat
deriving DecidableEq, Repr

/-- A named barrier (R107). -/
structure Barrier where
  count : Nat
  k : Nat
  gen : Nat
deriving DecidableEq, Repr

/-- A fault record (R120). -/
structure FaultRec where
  code : Nat
  sev : Nat
  lost : Bool := false
  lane : Nat := 0
  plane : Nat := 0
  pi : Nat := 0
  coach : Nat := 0
  slot : Nat := 0
  fseq : Nat := 0
  off : Word := 0
  hdr : Dword := 0
  addr : Dword := 0
  /-- What the error-ring entry of the record holds in AUX and AUXK (R330, R338). -/
  aux : Nat := 0
  auxk : Bool := false
  /-- For the order of the queue (R121): cycle of the fault, full age of the fragment, first slot of the chained group. -/
  cyc : Nat := 0
  age : Nat := 0
  grp : Nat := 0
deriving DecidableEq, Repr

/-- TSPAWN or TSIG as handed to the dispatcher (R9, R155): the issuing coach, its issue place, and what it asks. -/
structure Signal where
  coach : Nat
  seq : Nat
  spawn : Bool
  val : Dword
deriving DecidableEq, Repr

/-- Where a task stands (R321, R335, R337). -/
inductive Phase where
  | queued | translating | translated | running | aborting | ended
deriving DecidableEq, Repr

/-- How a task ended (R15, R337). -/
inductive Ending where
  | completed
  | terminated (code : Nat)
  | cancelled (level : Nat)
deriving DecidableEq, Repr

/-- A task (R86 to R91, R321, R337). -/
structure Task where
  uid : Nat := 0
  launch : Nat := 0
  /-- The graph and node of a copy node that translates (R307); it has no coaches. -/
  copyOf : Option (Nat × Nat) := none
  index : Nat := 0
  phase : Phase := .queued
  vf : Nat := 0
  part : Nat := 0
  ret : Nat := 0
  cu : Nat := 0
  octet0 : Nat := 0
  span : Nat := 1
  barrier0 : Nat := 0
  shape : Shape := {}
  pinned : Bool := false
  /-- Task indices TIDX0 to TIDX2 (R296). -/
  tidx : Nat × Nat × Nat := (0, 0, 0)
  extents : List Extent := []
  /-- Layout records with window-relative bases resolved; WREL stays set where the window does not exist (R244). -/
  layouts : List (BitVec 512) := []
  coaches : List Coach := []
  barriers : List (Nat × Barrier) := []
  scratch : Table Byte := []
  faults : List FaultRec := []
  lost : Bool := false
  /-- Cycle of the first park or coach stop (R119). -/
  stopSince : Option Nat := none
  tend : Bool := false
  /-- A task fault that terminates it, or a cancel: it is aborted without saving (R12, R122). -/
  fate : Option Ending := none
  signals : List Signal := []
  tags : List TagEntry := []
  /-- Slot contents, keyed by (group * 4 + position) * 131072 + byte (R266). -/
  tiles : Table Byte := []
  retries : Nat := 0
  cause : Nat := 0
  ran : Bool := false
  /-- The present run has reached its first bundle (R315). -/
  began : Bool := false
  /-- Reticle of the last run (R337); `cu` is its CU. -/
  runRet : Nat := 0
  badCpstat : Word := 0
  /-- Invalidations whose step 4 waits for this task's abort (R335). -/
  hits : List Nat := []
  /-- Cycle of the pre-emption mark (R342) and of the start of a whole save (R346). -/
  mark : Option Nat := none
  saveStart : Option Nat := none
  /-- The stop of R119 has ended by its time limit. -/
  halted : Bool := false
  /-- It came back to the head of its queue (R335, R345). -/
  front : Bool := false
  /-- It holds the state of a pre-emption save, with its accumulators keyed from the span's first octet (R344). -/
  saved : Bool := false
  savedAccs : Table Word := []
  /-- A copy node's bytes are written here and with the port engine for other wafers (R307). -/
  wrote : Bool := false
  /-- Frames of the save pool that its save takes, and the fresh nonce of that save (R345). -/
  savedIn : List Nat := []
  saveNonce : Nat := 0
  /-- Host pages waiting for an ATS or PRI answer (R332), as extents still without their translated address. -/
  waits : List Extent := []
  /-- Translated pages so far (R321). -/
  done : List Extent := []
deriving DecidableEq, Repr

/-- A window entry of a launch descriptor (R300). -/
structure Window where
  base : Dword
  stride : Dword
  len : Nat
  perm : Nat
  pinned : Bool
  wid : Nat
deriving DecidableEq, Repr

/-- An index of a launch not yet made into a task: its distributor, and what runs lost with a fenced reticle left behind
(R296, R314, R315). -/
structure Pend where
  ret : Nat
  idx : Nat
  retries : Nat := 0
  cause : Nat := 0
  ran : Bool := false
  /-- Reticle and CU of the last run that was lost (R337). -/
  runRet : Nat := 0
  runCu : Nat := 0
deriving DecidableEq, Repr

/-- A chunk of a spanned launch (R314): its distributor, its indices, and its ended tasks' records. -/
structure Chunk where
  ret : Nat
  indices : List Nat
  records : List (Nat × BitVec 256) := []
  /-- Indices of those whose last run had reached its first bundle (R315). -/
  began : List Nat := []
  reported : Bool := false
deriving DecidableEq, Repr

/-- A launch (R295, R299, R314, R317). -/
structure Launch where
  id : Nat := 0
  desc : Dword := 0
  /-- The graph node it belongs to (R318). -/
  graph : Nat := 0
  node : Nat := 0
  depth : Nat := 0
  vf : Nat := 0
  part : Nat := 0
  entry : FnCtx := {}
  code : Nat := 0
  codeLen : Nat := 0
  dims : Nat × Nat × Nat := (1, 1, 1)
  shape : Shape := {}
  windows : List Window := []
  layouts : List (BitVec 512) := []
  gvals : List Word := []
  prio : Nat := 0
  coop : Bool := false
  queue : Nat := 0
  rets : List Nat := []
  recbase : Dword := 0
  /-- Tasks not yet ended, or of chunks not yet reported (R295, R314). -/
  counter : Nat := 0
  pend : List Pend := []
  chunks : List Chunk := []
  spanned : Bool := false
  /-- The distributor that keeps the chunk record (R314, R315). -/
  master : Nat := 0
  /-- The reticle whose spawn entry a spawned launch holds (R318). -/
  home : Nat := 0
  fail : Option Nat := none
  cancel : Option Nat := none
  done : Bool := false
deriving DecidableEq, Repr

/-- State of a graph node (R10, R11). -/
inductive NodeState where
  | waiting | running | completed | failed | cancelled
deriving DecidableEq, Repr

/-- A graph node (R304). -/
structure Node where
  desc : Dword
  count : Nat
  kind : Nat
  ns : Nat
  si : Nat
  state : NodeState := .waiting
  /-- Source, destination and length of a copy node that runs (R307). -/
  copy : Option (Nat × Nat × Nat) := none
  /-- A cancel that came before it launched, and takes effect when it would (R298). -/
  asked : Bool := false
deriving DecidableEq, Repr

/-- A running graph (R303). `state`: 0 running, 1 completed, 2 failed, 3 cancelled. -/
structure Graph where
  id : Nat := 0
  job : Nat := 0
  hdr : Dword := 0
  vf : Nat := 0
  part : Nat := 0
  nodes : List Node := []
  succs : List Nat := []
  state : Nat := 0
  code : Nat := 0
  first : Nat := 0
  tsigErr : Nat := 0
  cancelled : Bool := false
  started : Bool := false
deriving DecidableEq, Repr

/-- A job (R295, R297, R413). `cancels`: level, phase, graph, node (R298). -/
structure Job where
  handle : Nat := 0
  vf : Nat := 0
  part : Nat := 0
  seq : Nat := 0
  /-- Array address and graph count of each phase. -/
  phases : List (Nat × Nat) := []
  phase : Nat := 0
  graph : Nat := 0
  cancels : List (Nat × Nat × Nat × Nat) := []
  fail : Option Nat := none
  cancelled : Bool := false
  done : Bool := false
deriving DecidableEq, Repr

/-- A partition (R308, R309). -/
structure Partition where
  num : Nat := 0
  handle : Word := 0
  vf : Nat := 0
  parent : Option Nat := none
  /-- Reticles with the bay mask held on each (R308). -/
  rets : List (Nat × BitVec 8) := []
  budget : Nat := 1024
  bwshare : Nat := 1024
  queues : Nat := 1
  prioMax : Nat := 0
  pinQuota : Nat := 0
  sramSplit : Nat := 0
  /-- Key slot (R420); a child uses its parent's. -/
  key : Nat := 0
  /-- Tells it from earlier partitions of the same number (R268, R311). -/
  uid : Nat := 0
  /-- Frames of its save pool, by device address (R345). -/
  pool : List Nat := []
deriving DecidableEq, Repr

/-- A mailbox's registers (R412) and the root's private places in it. -/
structure Mailbox where
  mbctl : Word := 0
  sqbase : Dword := 0
  cqbase : Dword := 0
  sqtail : Nat := 0
  sqhead : Nat := 0
  cqhead : Nat := 0
  cqtail : Nat := 0
  ready : Bool := false
  cfgerr : Bool := false
  phase : Bool := false
deriving DecidableEq, Repr

/-- A collective group of a policy (R370). -/
structure Group where
  handle : Nat
  members : List (Nat × Nat)
  timeout : Nat
deriving DecidableEq, Repr

/-- An installed policy (R416). -/
structure Policy where
  version : Nat := 0
  retmask : BitVec 64 := 0
  maxPart : Nat := 0
  budgetMax : Nat := 0
  prioMax : Nat := 0
  queues : Nat := 0
  bwshare : Nat := 0
  polscope : BitVec 2 := 0
  memtc : Nat := 0
  rights : BitVec 3 := 0
  sramSplit : Nat := 0
  pauseMax : Nat := 0
  classTo : List Nat := [20, 20, 20, 20]
  pinQuota : Nat := 0
  errK : Nat := 8
  errBase : Nat := 0
  groups : List Group := []
  peers : List (BitVec 512) := []
  /-- SHA3-512 of the installed blob, which measurement 4 reports (R419). -/
  digest : BitVec 512 := 0
deriving DecidableEq, Repr

/-- States of a virtual function (R418). -/
inductive VfState where
  | free | created | ready | paused | evicted
deriving DecidableEq, Repr

/-- States of a TDI (R419). -/
inductive TdiState where
  | unlocked | locked | run | error
deriving DecidableEq, Repr

/-- A range of the stage-2 table (R329). -/
structure Range where
  w : Bool
  key : Nat
  ia : Nat
  nfr : Nat
  pa : Dword
deriving DecidableEq, Repr

/-- A frame override (R329): intermediate frame, global frame address, key slot. -/
structure Override where
  frame : Nat
  pa : Dword
  key : Nat
deriving DecidableEq, Repr

/-- Instances of a collective group seen on one reticle (R374, R377): joins so far, and what has failed. -/
structure CollInst where
  grp : Nat
  ret : Nat
  joined : Nat
  failed : List Nat
  /-- Cycle at which instance `fst` of each pair saw its first join (R377). -/
  started : List (Nat × Nat)
deriving DecidableEq, Repr

/-- A virtual function (R418) with what all its partitions share (R326, R329). -/
structure Vf where
  num : Nat := 0
  handle : Word := 0
  state : VfState := .created
  tkd : BitVec 512 := 0
  policy : Policy := {}
  hasPolicy : Bool := false
  highest : Nat := 0
  s1root : Nat := 0
  ranges : List Range := []
  overrides : List Override := []
  errSeq : Nat := 0
  colls : List CollInst := []
  tdi : TdiState := .unlocked
  spdm : Bool := false
  /-- A selective IDE stream of the function has its keys (R419). -/
  ide : Bool := false
  mailbox : Mailbox := {}
  /-- State-changing commands waiting for their turn (R414), the running one at the head. -/
  waiting : List Instr := []
  pausedAt : Nat := 0
deriving DecidableEq, Repr

/-- A journal entry (R423). -/
structure JEntry where
  seq : Nat
  handle : Word
  result : Word := 0
  kind : Nat
  code : Nat := 0
  state : Nat := 0
  step : Nat := 0
  origin : Nat
  vf : Nat := 0
  ctag : Dword := 0
  /-- The command has created the object that `handle` names, which a resent command's completion repeats (R411, R415). -/
  made : Bool := false
deriving DecidableEq, Repr

/-- States of a key slot (R420). -/
inductive KeyState where
  | free | active | retiring | zeroising
deriving DecidableEq, Repr

/-- A key slot that is not free (R420): its key, and the reticles whose mirror has yet to confirm a zeroisation. -/
structure KeySlot where
  slot : Nat
  state : KeyState
  key : Nat
  rets : List Nat
deriving DecidableEq, Repr

/-- A performance counter that is bound (R429, R430). `cu` is none for a reticle counter; `owner` is the bound function,
none for the physical one. -/
structure Counter where
  ret : Nat
  cu : Option Nat
  idx : Nat
  val : BitVec 48
  event : Nat
  en : Bool
  ovie : Bool
  ovf : Bool
  vec : Nat
  link : Nat
  owner : Option Nat
deriving DecidableEq, Repr

/-- An eviction image (R421): its handle, function, eviction count, and what it holds. -/
structure Image where
  handle : Word
  vf : Nat
  count : Nat
  addr : Nat
  parts : List Partition
  policy : Policy
  tasks : List Task
  launches : List Launch
  graphs : List Graph
  jobs : List Job
  ranges : List Range
  overrides : List Override
  /-- Bytes of the partitions' frames by device address, and their written segments with the key slot of each. -/
  frames : Table Byte
  segs : List (Nat × Nat)
  counters : List Counter
  /-- Pins, as reticle, sector base and pitch code, which a restore does not set again (R422), and collective memberships. -/
  pins : List (Nat × Nat × Nat)
  colls : List CollInst
  /-- Place of the free values that stand for the image's ciphertext (log 1). -/
  ix : Nat
deriving DecidableEq, Repr

/-- A re-encryption in progress (R420): partition, old and new slot, the journal entry, the next frame counted over the
partition's reticles in ascending order, and the frames deferred under pinned tasks (R334). -/
structure Rekeying where
  part : Nat
  rets : List Nat
  old : Nat
  new : Nat
  seq : Nat
  next : Nat
  deferred : List Nat
deriving DecidableEq, Repr

/-- An invalidation in progress (R333 to R335): its cause, its range `lo` to `hi - 1` (virtual addresses for causes 1 and 2,
device-physical ones for 3 and 4), the journal entry to move on when it completes, and the explicit move that it
serves: first frame, frames, target reticle (R341, R413). -/
structure Inval where
  id : Nat
  cause : Nat
  vf : Nat
  lo : Nat
  hi : Nat
  seq : Nat := 0
  move : Option (Nat × Nat × Nat) := none
  /-- The node whose frames it names; 0xFFFF is this wafer. -/
  node : Nat := 0xFFFF
  /-- Device frames that it names besides its range. -/
  frames : List Nat := []
  /-- It has met its tasks; false while it is deferred under a pinned task (R334). -/
  applied : Bool := false
deriving DecidableEq, Repr

/-- A frame in migration, or settled after two moves (R340, R341). -/
structure Moved where
  vf : Nat
  frame : Nat
  times : List Nat
  settleTill : Nat
deriving DecidableEq, Repr

/-- The policy root (R408 to R435). -/
structure Root where
  fenced : Bool := false
  journal : List JEntry := []
  nextSeq : Nat := 1
  slots : List KeySlot := []
  keyCount : Nat := 0
  mailbox : Mailbox := {}
  /-- The mailbox served last: 0 is the physical function, n + 1 function n (R414). -/
  turn : Nat := 0
  /-- Retired frames, as device-physical frame addresses (R28). -/
  retired : List Nat := []
  /-- Spare frames taken, for each reticle (R27). -/
  spares : Table Nat := []
  /-- The spare frame that stands in a retired frame's place, by device address (R28, R339). -/
  spareOf : List (Nat × Nat) := []
  /-- Reticles whose root region holds the journal, and the working data (R423, R425). -/
  journalAt : List Nat := [17, 31]
  workAt : List Nat := [23, 25]
  heartbeat : Nat := 0
  images : List Image := []
  handles : List Word := []
  draws : Nat := 0
  rekeys : List Rekeying := []
  invals : List Inval := []
  nextInval : Nat := 0
  moved : List Moved := []
  /-- Fill counts of R340: (frame, reticle) coded as frame * 64 + reticle. -/
  fills : Table Nat := []
  /-- Candidates for automatic migration: function, intermediate frame, target reticle (R340). -/
  cands : List (Nat × Nat × Nat) := []
  /-- Eviction counter of each function (R421, kept by R433). -/
  evictions : Table Nat := []
  spdm : Bool := false
  /-- The mask ROM's image still matches ROMHASH (R427). -/
  romOk : Bool := true
  /-- TKD bindings of pod peers: node, function, digest (R416). -/
  bindings : List (Nat × Nat × BitVec 512) := []
deriving DecidableEq, Repr

/-- A node-table entry (R351). -/
structure NodeEntry where
  node : Nat
  kind : Nat
  slot : Nat
deriving DecidableEq, Repr

/-- What waits for the answer of a request (R208, R364): a lane's part of an access, a packet of a post, a part of a write-out, a
chunk of a copy, a participation's source or result, a copy node's task, the completion record of an index of a launch (R337), or
nothing. -/
inductive Client where
  | lane (t c seq lane : Nat)
  | packet (t c seq lane va : Nat)
  | part (t c seq octet : Nat)
  | chunk (t c num idx : Nat)
  | source (t c seq lane : Nat)
  | result (t c seq lane : Nat)
  | node (t : Nat)
  | record (l idx : Nat)
  | none
deriving DecidableEq, Repr

/-- What came back for a request (R356, R364). -/
inductive Answer where
  | data (bs : List Byte)
  | refused
deriving DecidableEq, Repr

/-- A request in the port engine of the issuing reticle `req.srcRet` (R208, R354, R391): who waits, the address that a record names,
whether it has left under its TID, the cycle since which it stands here, and its answer. -/
structure PortReq where
  client : Client
  va : Dword := 0
  req : RemoteReq
  sent : Bool := false
  since : Nat := 0
  answer : Option Answer := none
  /-- The task that it is a request of, also when nothing waits for its answer any more (R335). -/
  owner : Option Nat := none
  /-- The class timeout that held when it was issued, in cycles (R354, R416). -/
  timeout : Nat := 0
deriving DecidableEq, Repr

/-- A request that has been applied, with what it was answered (R391): whether a link or a transport has acknowledged the answer that
left for the source, which is as much as the target sees of its arrival there. -/
structure Applied where
  req : RemoteReq
  data : List Byte := []
  acked : Bool := false
deriving DecidableEq, Repr

/-- The wafer's addressing and route state (R25, R351). -/
structure Port where
  node : Nat := 0xFFFF
  slot : Nat := 0
  version : BitVec 32 := 0
  nodes : List NodeEntry := []
  /-- Links out of service, as site * 32 + port (mesh 0 to 3, optical groups 4 to 19) (R351). -/
  out : List Nat := []
  /-- Comb lasers that have failed, as site * 8 + fibre (R394). -/
  lasers : List Nat := []
  /-- Latest reflectometry result of each fibre, as site * 16 + fibre * 2 + direction, and the fibres that a retrain has due (R398). -/
  probes : Table Dword := []
  probeDue : List Nat := []
  /-- Requests applied here whose acknowledgement has not reached the source (R391). -/
  applied : List Applied := []
  /-- Requests that port engines of this wafer hold or wait for (R354). -/
  reqs : List PortReq := []
  /-- Answers and root messages that wait for injection, with their site (R382, R384). -/
  outgoing : List (Nat × Flit) := []
deriving DecidableEq, Repr

/-- One direction of a link at one site (R386 to R399). -/
structure Link where
  site : Nat
  port : Nat
  /-- LSEQ of the next new flit, number expected from the other side, flits sent and not acknowledged (R386). -/
  lseq : Nat := 0
  expect : Nat := 0
  replay : List Flit := []
  /-- The flits of the replay buffer as they stood before encryption, which a retirement hands back (R390). -/
  clear : List Flit := []
  nakSent : Bool := false
  /-- Times the oldest unacknowledged flit has been resent (R389). -/
  resends : Nat := 0
  level : Nat := 0
  levelAt : Nat := 0
  retraining : Bool := false
  retired : Bool := false
  /-- Wavelengths lost in this direction, retired or not (R394). -/
  lost : Nat := 0
  /-- Key slots of phases 0 and 1: key number, direction identifier; phase in use; flits under it (R395, R396). -/
  key0 : Option (Nat × Nat) := none
  key1 : Option (Nat × Nat) := none
  phase : Bool := false
  count : Nat := 0
  /-- New flits accepted under the incoming key in use, for their initialisation vectors (R395); of a scale-out pair, the lowest packet
  number taken under it. -/
  rcount : Nat := 0
  rotating : Bool := false
  /-- Key slots of the incoming direction (R395, R396). -/
  rkey0 : Option (Nat × Nat) := none
  rkey1 : Option (Nat × Nat) := none
  /-- Key phase in use in the incoming direction; flits accepted under the phase before it, and whether its key is held still (R395, R396). -/
  rphase : Bool := false
  rlast : Nat := 0
  rerase : Bool := false
  /-- LACK of the latest NAK received, and resends of the expected flit that were discarded here (R389). -/
  nakAt : Option Nat := none
  discards : Nat := 0
  /-- Out of service in the state of its own ends only, while the root is fenced (R390). -/
  dead : Bool := false
  /-- Flits that wait for room to send (R352, R386); the cycle until which a replay takes the port (R388). -/
  queue : List Flit := []
  busyTill : Nat := 0
  /-- Flits were discarded for want of room, and a NAK is owed once there is room (R385). -/
  owed : Bool := false
  /-- Raw counters of R399 in the order of codes 0x300 upward. -/
  raw : Table Nat := []
deriving DecidableEq, Repr

/-- A mesh switch (R384, R385): the flits that have arrived and the reinjection buffer, with the cycle of each; the ports taken in cycle
`at'`, by channel, port 4 being an ejection slot; and drain signals raised here. -/
structure Switch where
  site : Nat
  arrived : List (Nat × Flit) := []
  at' : Nat := 0
  used : List (Nat × Nat) := []
  /-- Flits without a channel that wait for injection: those that came over optical links (R385, R393), and those that a link out of
  service handed back (R390). -/
  optical : List Flit := []
  /-- Channel on which the port engine injected last (R384). -/
  lastCh : Nat := 7
  reinject : List (Nat × Flit) := []
  /-- Flits whose target has no path, held by the port engine (R384). -/
  held : List Flit := []
  drains : List Nat := []
  deflect : Nat := 0
  reinjected : Nat := 0
deriving DecidableEq, Repr

/-- A packet that the transport keeps as formed until it is acknowledged: its number, flit, timer and the cycle the timer started
(R360). -/
structure UetPacket where
  psn : Nat
  flit : Flit
  timer : Nat
  since : Nat
  /-- Key phase under which it was sent, and whether it still waits for a key (R396). -/
  kp : Bool := false
  unsent : Bool := false
deriving DecidableEq, Repr

/-- A scale-out endpoint pair (R360): packets sent and not acknowledged, and the receiver's place. -/
structure Uet where
  ret : Nat
  peer : Nat
  next : Nat := 0
  /-- Sent packets that are not acknowledged. -/
  sent : List UetPacket := []
  got : List Nat := []
  /-- Smoothed round-trip time in cycles (R360). -/
  srtt : Nat := 0
  /-- Key pair of the pair of endpoints, held as the keys of a link direction are (R396). -/
  keys : Link := { site := 0, port := 19 }
deriving DecidableEq, Repr

/-- Per-reticle state (R34, R310, R311, R340). -/
structure RetState where
  ret : Nat
  fenced : Bool := false
  /-- Credit of each partition in octet-cycles (R310). -/
  credit : List (Nat × Int) := []
  /-- Partition last served at each priority level (R311). -/
  served : List (Nat × Nat) := []
  /-- Queue last served for each partition (R311). -/
  servedQ : List (Nat × Nat) := []
  periodAt : Nat := 0
  /-- End of the running period of fill counts (R340). -/
  fillAt : Nat := 0
deriving DecidableEq, Repr

/-- An LLC sector (R195, R196). `data` is keyed by row * 32 + column. -/
structure Sector where
  ret : Nat
  base : Nat
  pc : Nat
  valid : BitVec 32 := 0
  dirty : BitVec 32 := 0
  column : Bool := false
  /-- First to be replaced (R210). -/
  first : Bool := false
  sharers : BitVec 32 := 0
  pinned : Bool := false
  owner : Nat := 0
  data : Table Byte := []
deriving DecidableEq, Repr

/-- An L1 line (R193). Row lines: `base` is the segment's offset. Column lines: sector base, pitch code, column. -/
structure L1Line where
  ret : Nat
  cu : Nat
  column : Bool
  base : Nat
  pc : Nat := 0
  j : Nat := 0
  /-- The bytes written since the line was last clean; the line is dirty when there is one (R192, R223). -/
  dirty : BitVec 32 := 0
  /-- First to be replaced (R210). -/
  first : Bool := false
  key : Nat := 0
  data : List Byte
deriving DecidableEq, Repr

/-- What the part has sent to the outside. The model's own record. -/
inductive OutMsg where
  | interrupt (fn : Option Nat) (vec : Nat)
  | atsRequest (vf : Nat) (va : Nat) (w : Bool)
  | pageRequest (vf : Nat) (va : Nat) (w : Bool)
  | invalDone (vf : Nat)
  | flit (site port ch : Nat) (bits : BitVec 768)
  | uet (ret peer psn : Nat) (bits : BitVec 768)
  | eject (site : Nat) (f : Flit)
  | eventHandle (handle : Nat)
  | sack (ret peer psn : Nat) (missing : List Nat)
  | answer (fn : Option Nat) (payload : List Byte)
  | probe (site fibre : Nat) (result : Dword)
deriving DecidableEq, Repr

/-- The bundle being issued (R43 to R47): the task, the coach and the fragment checked out of the task list, the
coach as it stood when the chained group in issue began (R44), the slots still to issue, and what the bundle's end
will do. -/
structure Issue where
  task : Task := {}
  coach : Coach := {}
  snap : Coach := {}
  /-- The chained group in issue in each plane (R44, R97), and what `snap` holds besides the coach. -/
  snaps : List Snap := []
  oldest : Nat := 0
  grp : Nat := 0
  frag : Frag := {}
  cur : Item := {}
  items : List Item := []
  next : Next := .seq
  cfault : Option CoachFault := none
  hold : Hold := .none
  /-- Offset of the bundle in issue and its yield hint (R39). -/
  yh : Nat := 0
  lv : Bool := false
  /-- Flags raised by the chained group in issue, which follow its SWR of GMODE (R76). -/
  flags : Word := 0
  yieldN : Option Nat := none
deriving DecidableEq, Repr

/-- A coming event, the cycles that pass before it, what the host writes to its memory before it, in order (R187, R410), and whether
it comes inside the bundle in issue. -/
structure Input where
  dt : Nat
  ev : Instr
  host : List Host.Cell := []
  /-- It comes while a bundle is in issue, between two of its slots (R46). -/
  within : Bool := false
deriving DecidableEq, Repr

/-- Identity of the part (R1, R2, R409): whether it is an HWK-46A, and its absent sites. -/
structure Ident where
  code46 : Bool := false
  absent : List Nat := [24]
deriving DecidableEq, Repr

/-- The state of the part. -/
structure State where
  /-- Power is off (R424, R435). -/
  off : Bool := false
  ident : Ident := {}
  clock : Nat := 0
  inputs : List Input := []
  freeIx : Nat := 0
  issue : Option Issue := none
  tasks : List Task := []
  nextUid : Nat := 0
  launches : List Launch := []
  graphs : List Graph := []
  jobs : List Job := []
  dram : List Host.Cell := []
  segKey : Table Nat := []
  sectors : List Sector := []
  lines : List L1Line := []
  accs : Table Word := []
  accOwner : Table Nat := []
  host : List Host.Cell := []
  parts : List Partition := []
  vfs : List Vf := []
  root : Root := {}
  port : Port := {}
  links : List Link := []
  switches : List Switch := []
  uet : List Uet := []
  counters : List Counter := []
  /-- Counters of functions saved by world switches (R431). -/
  contexts : List Counter := []
  rets : List RetState := []
  /-- Page requests that are out, as task and virtual page, until each is answered (R331, R332). -/
  pages : List (Nat × Nat) := []
  outbox : List OutMsg := []
deriving DecidableEq, Repr

/-- Reasons for which a step stops. Every fault of the manual is a next state (R16, R116), so only what the
specification gives no behaviour at all is here. -/
inductive Fault where
  /-- Raised by `step` when a word left in the issue latch decodes to no instruction. BUNDLE_FETCH never leaves such
  a word there (R55); safe: the machine stops where no state of the part stands. -/
  | latchWord (w : Word)
deriving DecidableEq, Repr

/-- Reasons for which an instruction is given no meaning. -/
inductive Refusal where
  /-- Answered by `exec` for a row that has no meaning yet; safe: nothing is claimed of it. -/
  | notModelled (mnemonic : String)
deriving DecidableEq, Repr

/-- The part right after power-up (R25, R31, R52, R412, R435): no function, partition, task, key or journal entry;
CLOCK 0; no assigned node; memory with nothing listed. The identity and the values the specification leaves open are
design choices (log 5, 6, 8, 17). -/
def State.reset : State := {}

end Sys2Proof.Machine
end

