-- ==== Sys2Proof/Machine/Ops.lean ====
section
/-! DEFINITION. Named operations over tables, registers, the issue latch, operations in flight, and the one shared
way a fault is taken (R116 to R122). -/

namespace Sys2Proof.Machine

/-- The entry of a sparse table at key `k`; `d` where nothing is listed. -/
def tget {β : Type} (d : β) (t : Table β) (k : Nat) : β :=
  match t with
  | [] => d
  | (j, x) :: rest => if j = k then x else tget d rest k

/-- A table without its entry at key `k`. -/
def tdel {β : Type} (t : Table β) (k : Nat) : Table β := t.filter fun x => x.1 != k

/-- Put `x` at key `k`, keeping keys rising and dropping an entry that equals the default. -/
def tput {β : Type} [DecidableEq β] (d : β) (t : Table β) (k : Nat) (x : β) : Table β :=
  match t with
  | [] => if x = d then [] else [(k, x)]
  | (j, y) :: rest =>
    if j = k then tput d rest k x
    else if k < j then (if x = d then (j, y) :: tdel rest k else (k, x) :: (j, y) :: tdel rest k)
    else (j, y) :: tput d rest k x

/-- Every key of a table lies above `lo`, keys rise strictly and no entry equals the default. -/
def tabove {β : Type} [DecidableEq β] (d : β) (lo : Nat) (t : Table β) : Bool :=
  match t with
  | [] => true
  | (j, x) :: rest => decide (lo < j) && decide (x ≠ d) && tabove d j rest

/-- The canonical form of a sparse table. -/
def twf {β : Type} [DecidableEq β] (d : β) (t : Table β) : Bool :=
  match t with
  | [] => true
  | (j, x) :: rest => decide (x ≠ d) && tabove d j rest

/-- Memory: cells in canonical form; a byte that nothing has written reads as 0 (log 5). -/
abbrev Memory := List Host.Cell

def Memory.read (m : Memory) (a : Nat) : Byte := tget 0 m a

def Memory.write (m : Memory) (a : Nat) (b : Byte) : Memory := tput 0 m a b

/-- The canonical form of a memory. -/
def Memory.wf (m : Memory) : Bool := twf 0 m

/-- The bytes at `a` upward. -/
def Memory.readN (m : Memory) (a n : Nat) : List Byte := (List.range n).map fun i => m.read (a + i)

/-- Bytes written at `a` upward. -/
def Memory.writeN (m : Memory) (a : Nat) (bs : List Byte) : Memory :=
  match bs with
  | [] => m
  | b :: rest => Memory.writeN (m.write a b) (a + 1) rest

/-- Little-endian value of bytes (R17). -/
def leNat (bs : List Byte) : Nat :=
  match bs with
  | [] => 0
  | b :: rest => b.toNat + 256 * leNat rest

/-- The `n` little-endian bytes of a number (R17). -/
def leBytes (n x : Nat) : List Byte :=
  match n with
  | 0 => []
  | n + 1 => BitVec.ofNat 8 x :: leBytes n (x / 256)

/-- The lanes of a mask in ascending order. -/
def laneList (m : Lanes) : List Nat := (List.range 64).filter fun l => m.getLsbD l

/-- The mask of one lane. -/
def laneBit (l : Nat) : Lanes := BitVec.ofNat 64 (2 ^ l)

/-- A mask with the lanes for which `f` holds. -/
def laneMask (f : Nat → Bool) : Lanes :=
  (List.range 64).foldl (fun m l => if f l then m ||| laneBit l else m) 0

/-- The lanes of octets `o` to `o + w - 1` (R17). -/
def octetLanes (o w : Nat) : Lanes := BitVec.ofNat 64 ((2 ^ (8 * w) - 1) * 2 ^ (8 * o))

/-! ### Registers (R17, R49) -/

def vkey (r l : Nat) : Nat := r * 64 + l

def Coach.vget (c : Coach) (r l : Nat) : Word := tget 0 c.v (vkey r l)

def Coach.vput (c : Coach) (r l : Nat) (x : Word) : Coach := { c with v := tput 0 c.v (vkey r l) x }

/-- Write `f l` to vd in each listed lane. -/
def Coach.vputs (c : Coach) (d : Nat) (ls : List Nat) (f : Nat → Word) : Coach :=
  match ls with
  | [] => c
  | l :: rest => Coach.vputs (c.vput d l (f l)) d rest f

def Coach.gget (c : Coach) (r : Nat) : Word := tget 0 c.g r

def Coach.gput (c : Coach) (r : Nat) (x : Word) : Coach := { c with g := tput 0 c.g r x }

/-- The 64-bit value of the pair at g(r) (R50). -/
def Coach.gpair (c : Coach) (r : Nat) : Dword := pair (c.gget r) (c.gget (r + 1))

/-- The 64-bit value of the pair at v(r) in a lane (R217). -/
def Coach.vpair (c : Coach) (r l : Nat) : Dword := pair (c.vget r l) (c.vget (r + 1) l)

/-- Lane predicate pi; p7 is always true (R17). -/
def Coach.pget (c : Coach) (i : BitVec 3) : Lanes := if i = 7 then BitVec.allOnes 64 else tget 0 c.p i.toNat

/-- Write lane predicate pi in the lanes of `m`; a write to p7 is discarded (R160). -/
def Coach.pput (c : Coach) (i : BitVec 3) (m x : Lanes) : Coach :=
  if i = 7 then c
  else { c with p := tput 0 c.p i.toNat ((tget 0 c.p i.toNat &&& ~~~m) ||| (x &&& m)) }

/-- Group predicate qi; q7 is always true (R17). -/
def Coach.qget (c : Coach) (i : BitVec 3) : Bool := i == 7 || c.q.getLsbD i.toNat

/-- Write group predicate qi; a write to q7 is discarded (R160). -/
def Coach.qput (c : Coach) (i : BitVec 3) (x : Bool) : Coach :=
  if i = 7 then c
  else { c with q := (c.q &&& ~~~(1#8 <<< i.toNat)) ||| (if x then 1#8 <<< i.toNat else 0) }

def Coach.piget (c : Coach) (l : Nat) : BitVec 3 := tget 0 c.pi l

def Coach.srget (c : Coach) (l : Nat) : Word := tget 0 c.sr l

def Coach.srput (c : Coach) (l : Nat) (x : Word) : Coach := { c with sr := tput 0 c.sr l x }

/-- Lanes of the coach's octets. -/
def Coach.lanes (c : Coach) : Lanes := octetLanes c.octet0 c.width

/-- Lanes that are live and not parked (R94). -/
def Coach.running (c : Coach) : Lanes := c.live &&& ~~~c.parked

/-- The enable of a lane-predicated slot in every lane (R42). -/
def Coach.penable (c : Coach) (pred : BitVec 4) : Lanes :=
  let m := c.pget (pred.extractLsb' 0 3)
  if pred.getLsbD 3 then ~~~m else m

/-- The enable of a group-predicated slot (R42). -/
def Coach.qenable (c : Coach) (pred : BitVec 4) : Bool :=
  Bool.xor (c.qget (pred.extractLsb' 0 3)) (pred.getLsbD 3)

/-- The number that a coach's records name (R120). -/
def Coach.label (c : Coach) : Nat := c.former.getD c.num

/-- The registers that slots read (R44). -/
def Coach.regs (c : Coach) : Regs :=
  { v := c.v, g := c.g, p := c.p, q := c.q, pi := c.pi, cy := c.cy, gcy := c.gcy, gmode := c.gmode, exv := c.exv, cpstat := c.cpstat
    parked := c.parked }

/-- A coach with other registers. -/
def Coach.withRegs (c : Coach) (r : Regs) : Coach :=
  { c with v := r.v, g := r.g, p := r.p, q := r.q, pi := r.pi, cy := r.cy, gcy := r.gcy, gmode := r.gmode, exv := r.exv
           cpstat := r.cpstat, parked := r.parked }

/-! ### The issue latch (R42, R44, R98) -/

/-- The passes that an item joins. -/
def Item.parts (it : Item) : List Pass :=
  match it.passes with
  | [] => [{ plane := it.plane, lanes := it.lanes, word := it.word, ext := it.ext, pred := it.pred, first := it.first, low := it.low }]
  | ps => ps

/-- Active lanes of the issuing fragment (R94). -/
def Issue.active (is : Issue) : Lanes := is.coach.running &&& is.frag.mask

/-- Lanes of the pass in issue that are still active. -/
def Issue.pass (is : Issue) : Lanes := is.cur.lanes &&& is.active

/-- Lanes that a lane-predicated slot takes effect for (R42). -/
def Issue.enabled (is : Issue) : Lanes := is.pass &&& is.snap.penable is.cur.pred

/-- Whether a group-predicated slot takes effect (R42). -/
def Issue.qon (is : Issue) : Bool := is.snap.qenable is.cur.pred

/-- Apply a change to the bundle in issue; without one nothing changes. -/
def State.onIssue (s : State) (f : Issue → Issue) : State := { s with issue := s.issue.map f }

/-- Change the coach of the bundle in issue. -/
def Issue.onCoach (is : Issue) (f : Coach → Coach) : Issue := { is with coach := f is.coach }

/-- The number of low bits of the age that a record shows, and where the slot stands (R120). -/
def Issue.site (is : Issue) : Site :=
  { plane := is.cur.plane, slot := is.cur.slot, age := is.frag.age, off := is.frag.off, hdr := is.frag.ctx.hdr }

/-- Effective plane of a lane under a context (R94). -/
def FnCtx.plane (x : FnCtx) (p : BitVec 3) : Nat := p.toNat % 2 ^ x.plog

/-! ### Taking a fault (R116 to R122) -/

/-- What orders the records of one cycle (R121): coach, age of the fragment, lane records before the bundle's coach fault,
plane, chained group, lane. -/
def FaultRec.keys (r : FaultRec) : List Nat := [r.coach, r.age, r.sev, r.plane, r.grp, r.lane]

/-- Lexicographic order of two key lists of one length. -/
def keysBelow (xs ys : List Nat) : Bool :=
  match xs, ys with
  | x :: xs, y :: ys => x < y || (x == y && keysBelow xs ys)
  | _, _ => false

/-- Whether a record is queued before one that is there already: both of one cycle, neither of a task fault (R121). -/
def FaultRec.before (r q : FaultRec) : Bool := q.cyc == r.cyc && q.sev != 3 && r.sev != 3 && keysBelow r.keys q.keys

/-- Put a record into its place in the queue: last, but before records of its own cycle that follow it (R121). -/
def placeRec (r : FaultRec) (qs : List FaultRec) : List FaultRec :=
  match qs with
  | [] => [r]
  | q :: rest => if r.before q then r :: q :: rest else q :: placeRec r rest

/-- Queue a record; a full queue discards the last and sets LOST in the last that stays (R120, R121). -/
def Task.record (t : Task) (r : FaultRec) : Task :=
  let qs := placeRec r t.faults
  if qs.length ≤ 64 then { t with faults := qs }
  else
    let qs := qs.take 64
    { t with lost := true, faults := qs.dropLast ++ (qs.getLast?.map fun q => { q with lost := true }).toList }

/-- Begin the stop of R119 at cycle `now`, once. -/
def Task.beginStop (t : Task) (now : Nat) : Task :=
  match t.stopSince with
  | none => { t with stopSince := some now }
  | some _ => t

/-- The record of a lane fault of cycle `now` in a chained group that starts at slot `grp` (R120, R121). -/
def laneRec (now grp : Nat) (c : Coach) (x : Site) (lane code : Nat) (addr : Dword) : FaultRec :=
  { code, sev := 1, lane, plane := x.plane, pi := (c.piget lane).toNat, coach := c.label, slot := x.slot,
    fseq := x.age % 256, off := x.off, hdr := x.hdr, addr, cyc := now, age := x.age, grp }

/-- Park a lane of the issuing coach with a fault record (R117). -/
def Issue.park (now : Nat) (is : Issue) (lane code : Nat) (addr : Dword) : Issue :=
  { is with
    task := (is.task.record (laneRec now is.grp is.coach is.site lane code addr)).beginStop now
    coach := { is.coach with parked := is.coach.parked ||| laneBit lane } }

/-- Park every lane of a mask, in ascending lane order. -/
def Issue.parkAll (now : Nat) (is : Issue) (m : Lanes) (code : Nat) (addr : Nat → Dword) : Issue :=
  (laneList m).foldl (fun is l => is.park now l code (addr l)) is

/-- Raise a coach fault at the slot in issue; the bundle completes first, and the lowest raising plane is the one
recorded (R118). DEDUCED (log 89): so it is for a fault of an issued MX slot too, of whose bundle R290's table says that none takes
effect. -/
def Issue.raise (is : Issue) (code : Nat) (addr : Dword := 0) : Issue :=
  let f : CoachFault := { code, plane := is.cur.plane, slot := is.cur.slot, addr, lane := is.cur.low,
                          pi := (is.coach.piget is.cur.low).toNat }
  match is.cfault with
  | some g => if g.plane ≤ is.cur.plane then is else { is with cfault := some f }
  | none => { is with cfault := some f }

/-- The lowest lane of a mask, 0 when it is empty. -/
def lowLane (m : Lanes) : Nat := (laneList m).headD 0

/-- Stop the issuing coach with a coach-fault record, which follows every lane record of the bundle (R118, R121). -/
def Issue.stopCoach (now : Nat) (is : Issue) (r : FaultRec) : Issue :=
  { is with
    task := (is.task.record r).beginStop now
    coach := { is.coach with stopped := true } }

/-! ### Stopping tasks (R119) -/

/-- Active lanes of a fragment of a coach (R94). -/
def Coach.activeOf (c : Coach) (f : Frag) : Lanes := c.running &&& f.mask

/-- A fragment that runs no further in a stopping task: held at a convergence point, or without an active lane. -/
def Coach.fragStopped (c : Coach) (f : Frag) : Bool :=
  c.activeOf f == 0 || (match f.hold with
    | .stopped | .rcv .. | .bar .. | .gen .. | .csplit .. | .cfuse => true
    | _ => false)

/-- A coach that runs no further in a stopping task. -/
def Coach.atStop (c : Coach) : Bool := c.stopped || c.tended || c.frags.all c.fragStopped

/-- The stop of R119 is over. -/
def Task.stopDone (t : Task) : Bool := t.stopSince.isSome && (t.halted || t.coaches.all Coach.atStop)

/-- The record of a coach fault that an issued slot of a fragment's bundle raised (R118, R120). -/
def slotRec (c : Coach) (f : Frag) (x : CoachFault) (cyc : Nat) : FaultRec :=
  { code := x.code, sev := 2, lane := x.lane, plane := x.plane, pi := x.pi, coach := c.label, slot := x.slot,
    fseq := f.age % 256, off := f.off, hdr := f.ctx.hdr, addr := x.addr, age := f.age, cyc }

/-- The task's end finds held bundles that go no further: the coach faults that their issued slots raised are recorded (R118, R120). -/
def Task.flushFaults (t : Task) : Task :=
  let recs := t.coaches.flatMap fun c => c.frags.filterMap fun f => f.cfault.map fun x => slotRec c f x f.heldAt
  if recs.isEmpty then t
  else
    let t := recs.foldl Task.record t
    { t with coaches := t.coaches.map fun c => { c with frags := c.frags.map fun f => { f with cfault := none } } }

/-- A task fault that ends the task (R122): its record, of severity 3, is queued unless the task has stopped before, and its
fate is what the dispatcher carries out. A fault that comes after the task's fate is settled adds nothing. -/
def Task.endBy (t : Task) (r : FaultRec) : Task :=
  if t.fate.isSome || t.phase == .ended then t
  else { (if t.stopDone then t else t.flushFaults.record { r with sev := 3 }) with fate := some (.terminated r.code) }

/-- A task fault with a code and an address. -/
def Task.terminate (t : Task) (code : Nat) (addr : Dword) : Task := t.endBy { code, sev := 3, addr }

/-! ### Fault codes (R116) -/

def cILLEGAL_OPCODE : Nat := 0x01
def cILLEGAL_FIELD : Nat := 0x02
def cILLEGAL_BUNDLE : Nat := 0x03
def cMISALIGNED_TARGET : Nat := 0x04
def cPLANE_MISMATCH : Nat := 0x05
def cSPLIT_OVERFLOW : Nat := 0x06
def cFUSE_MISMATCH : Nat := 0x07
def cCONVERGENCE_REQUIRED : Nat := 0x08
def cTRAP : Nat := 0x09
def cBREAKPOINT : Nat := 0x0A
def cWINDOW_VIOLATION : Nat := 0x10
def cMISALIGNED_ACCESS : Nat := 0x11
def cSCRATCH_BOUNDS : Nat := 0x12
def cSCOPE_DENIED : Nat := 0x13
def cNONIDEMPOTENT_OP : Nat := 0x14
def cB_TAG_MISSING : Nat := 0x18
def cLAYOUT_INVALID : Nat := 0x19
def cWINDOW_INVALIDATED : Nat := 0x20
def cPAGE_RETIRED : Nat := 0x21
def cSTAGE2_FAULT : Nat := 0x22
def cWINDOW_FRAGMENTED : Nat := 0x23
def cTRANSLATION_FAULT : Nat := 0x24
def cUNREACHABLE : Nat := 0x28
def cCOLL_FAILED : Nat := 0x29
def cREMOTE_DENIED : Nat := 0x2A
def cLAUNCH_TOO_LARGE : Nat := 0x30
def cPREEMPT_FORCED : Nat := 0x38
def cHW_ERROR : Nat := 0x3F

/-! ### Operations in flight (R5, R6) -/

def Op.isFence (o : Op) : Bool :=
  match o.body with
  | .fence .. => true
  | _ => false

/-- Whether an operation is an acquire that later accesses wait for (R232). -/
def Op.acquires (o : Op) : Bool :=
  match o.body with
  | .load _ _ x => x.order == 1
  | .atom _ _ x => x.order == 1 || x.order == 3
  | _ => false

/-- Whether an operation is a release that waits for earlier accesses (R232). -/
def Op.releases (o : Op) : Bool :=
  match o.body with
  | .store _ x => x.order == 2
  | .atom _ _ x => x.order == 2 || x.order == 3
  | _ => false

def Op.isStore (o : Op) : Bool :=
  match o.body with
  | .store .. => true
  | _ => false

def Op.isLoad (o : Op) : Bool :=
  match o.body with
  | .load .. => true
  | _ => false

/-- An access of memory, fences apart. -/
def Op.isAccess (o : Op) : Bool :=
  match o.body with
  | .load .. => true
  | .store .. => true
  | .atom .. => true
  | .ldaxis .. => true
  | .pin .. => true
  | _ => false

/-- Whether an operation counts on L. -/
def Op.onL (o : Op) : Bool := o.cls == some .l

/-- Whether a fence still waits for an older operation (R219): a full or release fence for every access, an acquire
fence for what counts on L; each for earlier fences. -/
def fenceWaits (kind : Nat) (p : Op) : Bool := p.isFence || (if kind = 1 then p.onL else p.isAccess)

/-- POST.S releases that wait for earlier accesses and posts (R239). -/
def Op.isSignal (o : Op) : Bool :=
  match o.body with
  | .post _ _ ps => ps.any fun p => match p.kind with
    | .signal _ => true
    | _ => false
  | _ => false

/-- Whether an operation waits for the acknowledgement of an older one: a fence that covers it, a release, or a POST.S (R219, R239,
R242). -/
def Op.covers (q o : Op) : Bool :=
  match q.body with
  | .fence _ kind => fenceWaits kind o
  | _ => (q.releases && o.isAccess) || (q.isSignal && (o.isAccess || o.cls == some .n))

/-- The acknowledgement of an operation is lost: what waits for it, or will, never completes (R242). -/
def Coach.lose (c : Coach) (o : Op) : Coach :=
  { c with ops := c.ops.map fun q => if o.seq < q.seq && !q.done && q.covers o then { q with never := true } else q
           lost := if c.lost.any fun p => p.seq == o.seq then c.lost else c.lost ++ [o] }

/-- Drop operations that are done and that the counter of their class sees as done: no older one of the class is
outstanding (R6). -/
def pruneOps (ops : List Op) : List Op :=
  ops.foldl (fun acc o =>
    if o.done && (o.cls.isNone || acc.all fun p => p.cls != o.cls) then acc else acc ++ [o]) []

/-- A class counter (R6): operations of the class that are outstanding, or done behind an outstanding one. -/
def Coach.count (c : Coach) (k : Cls) : Nat := (c.ops.filter fun o => o.cls == some k).length

/-- Entries of the store queue (R212). -/
def Coach.queued (c : Coach) : List Op :=
  c.ops.filter fun o => !o.done && (match o.body with | .store .. => true | _ => false)

/-- Add an operation in issue order (R225); one that covers a lost acknowledgement never completes (R242). -/
def Coach.addOp (c : Coach) (o : Op) : Coach :=
  { c with ops := c.ops ++ [{ o with seq := c.seq, never := o.never || c.lost.any o.covers }], seq := c.seq + 1 }

/-- Change one operation and drop what the counters see as done. -/
def Coach.setOp (c : Coach) (n : Nat) (f : Op → Op) : Coach :=
  { c with ops := pruneOps (c.ops.map fun o => if o.seq = n then f o else o) }

def Coach.op? (c : Coach) (n : Nat) : Option Op := c.ops.find? fun o => o.seq = n

/-- Whether an event says truly what other wafers have brought back for its operation; one that says nothing does (log 69). -/
def agrees (remote : List Byte) (got : Option (List Byte)) : Bool := remote.isEmpty || got == some remote

/-! ### Registers that operations write (R46) -/

/-- Registers that a load or an atomic of a size writes (R214). -/
def wordsOf (size : BitVec 3) : Nat := if size = 5 then 2 else if size = 6 then 4 else 1

/-- Keys of the registers that an operation has still to write. -/
def Op.dests (o : Op) : List Nat :=
  let span (d n : Nat) (ls : List Nat) : List Nat := ls.flatMap fun l => (List.range n).map fun i => vkey (d + i) l
  let lanes := o.lanes.map (·.lane)
  match o.body with
  | .load size d _ => span d.toNat (wordsOf size) lanes
  | .atom size d _ => span d.toNat (wordsOf size) lanes
  | .ldaxis d _ w => span d.toNat w lanes
  | .pin d _ => span d.toNat 1 lanes
  | .mrd _ d ps => (ps.filter fun p => !p.done).flatMap fun p => span d.toNat 8 (laneList p.lanes)
  | _ => []

/-- One register takes the value of an operation: a read may give the old value until a WAIT has observed the completion; where a slot
wrote the register meanwhile, it holds either value, and which is free (R46, log 1). -/
def Coach.landWord (c : Coach) (ix : Nat) (o : Op) (key : Nat) (x : Word) : Coach :=
  let old := tget 0 c.v key
  let others := c.fresh.filter fun y => y.key != key
  if c.crossed.contains (o.seq, key) then
    { c with v := if Config.freeBool ix then tput 0 c.v key x else c.v, fresh := others }
  else
    let new : Fresh := { cls := o.cls, key, old, new := x, shown := x
                         later := (c.ops.filter fun p => o.seq < p.seq && p.cls == o.cls).length }
    { c with v := tput 0 c.v key x, fresh := others ++ [new] }

/-- Registers take the values of an operation, by key. -/
def Coach.landWords (c : Coach) (ix : Nat) (o : Op) (xs : List (Nat × Word)) : Coach :=
  match xs with
  | [] => c
  | x :: rest => Coach.landWords (c.landWord ix o x.1 x.2) (ix + 1) o rest

/-- Before a slot: each register that a slot has not written since shows the old value or the new one, and which is free (R46, log 1). -/
def Coach.mixFresh (c : Coach) (ix : Nat) : Coach :=
  let live := c.fresh.filter fun x => tget 0 c.v x.key == x.shown
  let mixed := live.zipIdx.map fun x => { x.1 with shown := if Config.freeBool (ix + x.2) then x.1.new else x.1.old }
  { c with v := mixed.foldl (fun v x => tput 0 v x.key x.shown) c.v, fresh := mixed }

/-- What a slot did to the registers of outstanding operations, and what it issued, `before` being the coach before it and `wrote` the
keys of the registers that its word names as destination (R46). -/
def Coach.noteSlot (before : Coach) (wrote : List Nat) (c : Coach) : Coach :=
  let open' := c.ops.filter fun o => !o.done
  let hit := open'.flatMap fun o =>
    (o.dests.filter fun k => (wrote.contains k || tget 0 before.v k != tget 0 c.v k) && !c.crossed.contains (o.seq, k)).map fun k => (o.seq, k)
  let issued (k : Option Cls) : Nat := (c.ops.filter fun o => before.seq ≤ o.seq && o.cls == k).length
  { c with crossed := (c.crossed.filter fun x => open'.any fun o => o.seq == x.1) ++ hit
           fresh := c.fresh.map fun x => { x with later := x.later + issued x.cls } }

/-- Whether a WAIT with these thresholds observes the completion behind a register: its operation is not among the youngest of its class
that the threshold lets be outstanding (R7, R46). -/
def Fresh.seen (x : Fresh) (m : Lanes) (l sc cc t n : BitVec 5) : Bool :=
  let past (th : BitVec 5) : Bool := th != 31 && decide (th.toNat ≤ x.later)
  m.getLsbD (x.key % 64) && (match x.cls with
    | some .l => past l
    | some .s => past sc
    | some .c => past cc
    | some .t => past t
    | some .n => past n
    | none => false)

/-- A WAIT of the lanes `m` is over: what it observes shows the new value from now on, unless a slot has written the register. -/
def Coach.observe (c : Coach) (m : Lanes) (l sc cc t n : BitVec 5) : Coach :=
  let seen := c.fresh.filter fun x => x.seen m l sc cc t n && tget 0 c.v x.key == x.shown
  { c with v := seen.foldl (fun v x => tput 0 v x.key x.new) c.v, fresh := c.fresh.filter fun x => !x.seen m l sc cc t n }

/-! ### Tasks and coaches by name -/

def State.task? (s : State) (t : Nat) : Option Task := s.tasks.find? fun x => x.uid = t

def State.modTask (s : State) (t : Nat) (f : Task → Task) : State :=
  { s with tasks := s.tasks.map fun x => if x.uid = t then f x else x }

def Task.coach? (t : Task) (c : Nat) : Option Coach := t.coaches.find? fun x => x.num = c

def Task.modCoach (t : Task) (c : Nat) (f : Coach → Coach) : Task :=
  { t with coaches := t.coaches.map fun x => if x.num = c then f x else x }

def Coach.frag? (c : Coach) (age : Nat) : Option Frag := c.frags.find? fun x => x.age = age

def Coach.modFrag (c : Coach) (age : Nat) (f : Frag → Frag) : Coach :=
  { c with frags := c.frags.map fun x => if x.age = age then f x else x }

/-- Change a coach of a task. -/
def State.modCoach (s : State) (t c : Nat) (f : Coach → Coach) : State := s.modTask t fun x => x.modCoach c f

/-- Park a lane by an event apart from issue (R117, R121): the operation's site names the slot. -/
def Task.parkLane (t : Task) (now c : Nat) (x : Site) (lane code : Nat) (addr : Dword) : Task :=
  match t.coach? c with
  | none => t
  | some co =>
    ((t.record (laneRec now x.slot co x lane code addr)).beginStop now).modCoach c
      fun co => { co with parked := co.parked ||| laneBit lane }

/-- A partition by number; a task's virtual function and its policy. -/
def State.part? (s : State) (p : Nat) : Option Partition := s.parts.find? fun x => x.num = p

def State.vf? (s : State) (v : Nat) : Option Vf := s.vfs.find? fun x => x.num = v

def State.modVf (s : State) (v : Nat) (f : Vf → Vf) : State :=
  { s with vfs := s.vfs.map fun x => if x.num = v then f x else x }

def State.launch? (s : State) (l : Nat) : Option Launch := s.launches.find? fun x => x.id = l

def State.modLaunch (s : State) (l : Nat) (f : Launch → Launch) : State :=
  { s with launches := s.launches.map fun x => if x.id = l then f x else x }

def State.graph? (s : State) (g : Nat) : Option Graph := s.graphs.find? fun x => x.id = g

def State.modGraph (s : State) (g : Nat) (f : Graph → Graph) : State :=
  { s with graphs := s.graphs.map fun x => if x.id = g then f x else x }

/-- The state of a reticle; a reticle with nothing listed is as after reset. -/
def State.ret (s : State) (r : Nat) : RetState := (s.rets.find? fun x => x.ret = r).getD { ret := r }

def State.modRet (s : State) (r : Nat) (f : RetState → RetState) : State :=
  if s.rets.any fun x => x.ret = r then { s with rets := s.rets.map fun x => if x.ret = r then f x else x }
  else { s with rets := s.rets ++ [f { ret := r }] }

/-- A compute reticle that exists and is not fenced (R2, R34). -/
def State.live (s : State) (r : Nat) : Bool := r < 49 && !s.ident.absent.contains r && !(s.ret r).fenced

/-- Whether a scope is permitted by the function's POLSCOPE (R226, R227). -/
def State.scopeOk (s : State) (vf : Nat) (scope : Nat) : Bool :=
  match s.vf? vf with
  | none => scope < 4
  | some v => if scope = 4 then v.policy.polscope.getLsbD 0
    else if scope = 5 then v.policy.polscope.getLsbD 1 else true

/-- Advance the counter of free values by `n` (log 1). -/
def State.bumpFree (s : State) (n : Nat) : State := { s with freeIx := s.freeIx + n }

/-- Record a message to the outside. -/
def State.send (s : State) (m : OutMsg) : State := { s with outbox := s.outbox ++ [m] }

/-- Put follow-on events before everything that is to come. -/
def State.pushFront (s : State) (evs : List Instr) : State :=
  { s with inputs := evs.map (fun e => { dt := 0, ev := e }) ++ s.inputs }

/-- An input is taken: the host has written its memory, and the rest of the inputs is still to come (log 2). -/
def State.takeInput (s : State) (x : Input) (rest : List Input) : State :=
  { s with inputs := rest, host := x.host.foldl (fun m c => Memory.write m c.1 c.2) s.host }

/-- The outcome that goes on. -/
abbrev Out := Host.Outcome State Fault Refusal

/-- Take an event's effect when it may occur; an event that may not occur now changes nothing (log 2). -/
def whenOk (s : State) (ok : Bool) (f : State → State) : Out := .next (if ok then f s else s)

/-- Continue an outcome that goes on. -/
def thenDo (o : Out) (f : State → State) : Out :=
  match o with
  | .next s => .next (f s)
  | .fault r => .fault r
  | .refused r => .refused r

end Sys2Proof.Machine
end

