-- ==== Sys2Proof/Machine/Flags.lean ====
section
/-! DEFINITION. GMODE: its fields, its sticky flags and how a group's flags join it (R70, R74 to R76). -/

namespace Sys2Proof.Machine

/-- Sticky flags of GMODE (R74). -/
def fNX : Word := 0x100#32
def fUF : Word := 0x200#32
def fOF : Word := 0x400#32
def fDZ : Word := 0x800#32
def fIV : Word := 0x1000#32

/-- The bits of GMODE that are not reserved: RM, FTZ, SAT and the five flags (R74). -/
def gmodeMask : Word := 0x1F1F#32

/-- Rounding modes (R69). -/
inductive RMode where
  | rne | rtz | rup | rdn | rna | sr
deriving DecidableEq, Repr

/-- The mode of a field value 1 to 6 (R69). -/
def rmodeOf (n : Nat) : RMode :=
  match n with
  | 2 => .rtz
  | 3 => .rup
  | 4 => .rdn
  | 5 => .rna
  | 6 => .sr
  | _ => .rne

def gmRM (g : Word) : Nat := field g 0 3
def gmFTZ (g : Word) : Bool := g.getLsbD 3
def gmSAT (g : Word) : Bool := g.getLsbD 4

/-- The mode an instruction rounds under: its rnd field, or GMODE.RM as it stood when the group issued (R70). -/
def effMode (rnd : BitVec 3) (g : Word) : RMode :=
  if rnd = 0 then rmodeOf (gmRM g) else rmodeOf rnd.toNat

/-- Flags raised by a slot: into GMODE at once, and kept for an SWR of the same chained group (R75, R76). -/
def Issue.setFlags (is : Issue) (f : Word) : Issue :=
  { is with coach := { is.coach with gmode := is.coach.gmode ||| f }, flags := is.flags ||| f }

/-- The value an SWR leaves in GMODE: the written value less reserved bits, then the flags of its own chained group
(R74, R76). -/
def swrGmode (val flags : Word) : Word := (val &&& gmodeMask) ||| flags

end Sys2Proof.Machine
end

