-- ==== Sys2Proof/Machine/Float.lean ====
section
/-! DEFINITION. Floating-point formats, exact values, rounding, conversions and the stochastic-rounding generator
(R66 to R80, R170 to R174). A finite value is sign, integer m and exponent e, meaning m * 2^e. -/

namespace Sys2Proof.Machine

/-- A binary format (R66): exponent and fraction widths, bias, code of the largest finite magnitude, default NaN
(R68), and the code of infinity where the format has one. -/
structure Fmt where
  ew : Nat
  fw : Nat
  bias : Nat
  maxFin : Nat
  nan : Nat
  inf : Option Nat
  /-- Flushed by GMODE.FTZ (R72). -/
  flush : Bool
deriving DecidableEq, Repr

def fFP32 : Fmt := { ew := 8, fw := 23, bias := 127, maxFin := 0x7F7FFFFF, nan := 0x7FC00000, inf := some 0x7F800000, flush := true }
def fFP16 : Fmt := { ew := 5, fw := 10, bias := 15, maxFin := 0x7BFF, nan := 0x7E00, inf := some 0x7C00, flush := true }
def fBF16 : Fmt := { ew := 8, fw := 7, bias := 127, maxFin := 0x7F7F, nan := 0x7FC0, inf := some 0x7F80, flush := true }
def fE4M3 : Fmt := { ew := 4, fw := 3, bias := 7, maxFin := 0x7E, nan := 0x7F, inf := none, flush := false }
def fE5M2 : Fmt := { ew := 5, fw := 2, bias := 15, maxFin := 0x7B, nan := 0x7E, inf := some 0x7C, flush := false }
def fE2M1 : Fmt := { ew := 2, fw := 1, bias := 1, maxFin := 0x7, nan := 0, inf := none, flush := false }

/-- A decoded value. -/
inductive Fp where
  | nan (signalling : Bool)
  | inf (neg : Bool)
  | fin (neg : Bool) (m : Nat) (e : Int)
deriving DecidableEq, Repr

def Fp.isNan : Fp → Bool
  | .nan _ => true
  | _ => false

def Fp.isSig : Fp → Bool
  | .nan s => s
  | _ => false

def Fp.isZero : Fp → Bool
  | .fin _ m _ => m == 0
  | _ => false

def Fp.neg? : Fp → Bool
  | .nan _ => false
  | .inf n => n
  | .fin n _ _ => n

/-- Exponent of the least significant bit of subnormals and of the smallest normals. -/
def Fmt.qmin (f : Fmt) : Int := 1 - (f.bias : Int) - f.fw

/-- The sign bit of a code. -/
def Fmt.signBit (f : Fmt) : Nat := 2 ^ (f.ew + f.fw)

/-- Decode a code of the format (R66, R68). -/
def Fmt.decode (f : Fmt) (x : Nat) : Fp :=
  let neg := (x / f.signBit) % 2 == 1
  let mag := x % f.signBit
  let ex := mag / 2 ^ f.fw
  let fr := mag % 2 ^ f.fw
  match f.inf with
  | some i =>
    if mag = i then .inf neg
    else if i < mag then .nan (fr / 2 ^ (f.fw - 1) == 0)
    else if ex = 0 then .fin neg fr f.qmin else .fin neg (fr + 2 ^ f.fw) (f.qmin + (ex - 1))
  | none =>
    if f.maxFin < mag then .nan false
    else if ex = 0 then .fin neg fr f.qmin else .fin neg (fr + 2 ^ f.fw) (f.qmin + (ex - 1))

/-- One step of the stochastic-rounding generator (R79). -/
def srStep (x : Word) : Word :=
  let x := x ^^^ (x <<< 13)
  let x := x ^^^ (x >>> 17)
  x ^^^ (x <<< 5)

/-- The seed of a lane's state (R78): reticle, CU and lane within the CU. -/
def srSeed (seed : Word) (ret cu lane : Nat) : Word :=
  let x := seed ^^^ (BitVec.ofNat 32 (ret * 2048 + cu * 64 + lane) * 0x9E3779B9#32)
  if x = 0 then 1 else x

/-- Whether a magnitude with discarded bits rounds away from zero: `kept` is the kept integer, `rem` the discarded
part of `k` bits (R69, R79). -/
def roundsUp (mode : RMode) (x : Word) (neg : Bool) (kept rem k : Nat) : Bool :=
  match mode with
  | .rne => decide (2 ^ k < 2 * rem) || (2 * rem == 2 ^ k && kept % 2 == 1)
  | .rna => decide (2 ^ k ≤ 2 * rem) && rem != 0
  | .rtz => false
  | .rup => !neg && rem != 0
  | .rdn => neg && rem != 0
  | .sr => if k ≤ 32 then decide (x.toNat / 2 ^ (32 - k) < rem) else decide (x.toNat < rem / 2 ^ (k - 32))

/-- Magnitude m * 2^e rounded to a multiple of 2^q: the integer kept, and whether it is inexact. -/
def roundAt (mode : RMode) (x : Word) (neg : Bool) (m : Nat) (e q : Int) : Nat × Bool :=
  if q ≤ e then (m * 2 ^ (e - q).toNat, false)
  else
    let k := (q - e).toNat
    let kept := m / 2 ^ k
    let rem := m % 2 ^ k
    (if roundsUp mode x neg kept rem k then kept + 1 else kept, rem != 0)

/-- floor(log2 (m * 2^e)) for nonzero m. -/
def expOf (m : Nat) (e : Int) : Int := (Nat.log2 m : Int) + e

/-- What a rounded result is: its code and the flags it raises. -/
structure Res where
  code : Nat
  flags : Word := 0
deriving DecidableEq, Repr

/-- A code with a sign. -/
def Fmt.signed (f : Fmt) (neg : Bool) (mag : Nat) : Nat := if neg then mag + f.signBit else mag

/-- The result of an overflow (R71). -/
def Fmt.overflow (f : Fmt) (mode : RMode) (sat neg : Bool) : Res :=
  let toMax : Res := { code := f.signed neg f.maxFin, flags := fOF ||| fNX }
  let away : Res :=
    match f.inf with
    | some i => { code := f.signed neg i, flags := fOF ||| fNX }
    | none => if f.nan = 0 then toMax else { code := f.nan, flags := fOF ||| fNX ||| fIV }
  if sat then toMax
  else match mode with
    | .rtz => toMax
    | .rup => if neg then toMax else away
    | .rdn => if neg then away else toMax
    | _ => away

/-- A nonzero exact value rounded to a format, with overflow, underflow and flush (R69, R71, R72). `x` is the
stochastic-rounding state after its step. -/
def Fmt.round (f : Fmt) (mode : RMode) (ftz sat : Bool) (x : Word) (neg : Bool) (m : Nat) (e : Int) : Res :=
  let top := expOf m e
  let emin : Int := 1 - f.bias
  if ftz && f.flush && decide (top < emin) then { code := f.signed neg 0, flags := fUF ||| fNX }
  else
    let q := max (top - f.fw) f.qmin
    let r := roundAt mode x neg m e q
    let mag := (q - f.qmin).toNat * 2 ^ f.fw + r.1
    if f.maxFin < mag then f.overflow mode sat neg
    else
      -- tininess after rounding with unbounded exponent; under SR the exact value is compared (R72)
      let u := roundAt mode x neg m e (top - f.fw)
      let tiny := if mode = .sr then decide (top < emin)
                  else decide (top < emin) && decide (u.1 < 2 ^ (f.fw + 1) ∨ top + 1 < emin)
      { code := f.signed neg mag,
        flags := (if r.2 then fNX else 0) ||| (if r.2 && tiny then fUF else 0) }

/-- Flush a subnormal input to a zero of its sign (R72). -/
def Fmt.flushIn (f : Fmt) (ftz : Bool) (v : Fp) : Fp :=
  match v with
  | .fin n m e => if ftz && f.flush && decide (m < 2 ^ f.fw) then .fin n 0 e else v
  | _ => v

/-- Exact sum; `none` for an invalid infinity difference. The sign of an exact zero is settled by the caller. -/
def addExact (a b : Fp) : Option Fp :=
  match a, b with
  | .nan s, _ => some (.nan s)
  | _, .nan s => some (.nan s)
  | .inf x, .inf y => if x = y then some (.inf x) else none
  | .inf x, _ => some (.inf x)
  | _, .inf y => some (.inf y)
  | .fin na ma ea, .fin nb mb eb =>
    let e := min ea eb
    let x : Int := (if na then -1 else 1) * (ma * 2 ^ (ea - e).toNat : Nat)
    let y : Int := (if nb then -1 else 1) * (mb * 2 ^ (eb - e).toNat : Nat)
    let t := x + y
    some (.fin (decide (t < 0)) t.natAbs e)

/-- Exact product; `none` for 0 * infinity. -/
def mulExact (a b : Fp) : Option Fp :=
  match a, b with
  | .nan s, _ => some (.nan s)
  | _, .nan s => some (.nan s)
  | .inf x, .inf y => some (.inf (Bool.xor x y))
  | .inf x, .fin y m _ => if m = 0 then none else some (.inf (Bool.xor x y))
  | .fin y m _, .inf x => if m = 0 then none else some (.inf (Bool.xor x y))
  | .fin na ma ea, .fin nb mb eb => some (.fin (Bool.xor na nb) (ma * mb) (ea + eb))

/-- Sign of an exact zero sum (R170): the common sign of two zeros, else + but - under RDN. -/
def zeroSumNeg (mode : RMode) (a b : Fp) : Bool :=
  if a.isZero && b.isZero && a.neg? == b.neg? then a.neg? else mode == .rdn

/-- Finish an operation: NaN and invalid, infinity, exact zero, or a rounded value (R170). -/
def Fmt.finish (f : Fmt) (mode : RMode) (ftz sat : Bool) (x : Word) (anySig : Bool) (v : Option Fp) (zneg : Bool) :
    Res :=
  match v with
  | none => { code := f.nan, flags := fIV }
  | some (.nan _) => { code := f.nan, flags := if anySig then fIV else 0 }
  | some (.inf n) => { code := f.signed n (f.inf.getD f.maxFin), flags := 0 }
  | some (.fin n m e) =>
    if m = 0 then { code := f.signed zneg 0, flags := 0 } else f.round mode ftz sat x n m e

/-- a + b in a format (R170, R175). -/
def Fmt.add (f : Fmt) (mode : RMode) (ftz sat : Bool) (x : Word) (a b : Nat) : Res :=
  let a := f.flushIn ftz (f.decode a)
  let b := f.flushIn ftz (f.decode b)
  f.finish mode ftz sat x (a.isSig || b.isSig) (addExact a b) (zeroSumNeg mode a b)

/-- A code with its sign inverted. -/
def Fmt.negate (f : Fmt) (x : Nat) : Nat :=
  if (x / f.signBit) % 2 = 1 then x - f.signBit else x + f.signBit

/-- a - b in a format (R170). -/
def Fmt.sub (f : Fmt) (mode : RMode) (ftz sat : Bool) (x : Word) (a b : Nat) : Res :=
  f.add mode ftz sat x a (f.negate b)

/-- a * b in a format (R170, R175). -/
def Fmt.mul (f : Fmt) (mode : RMode) (ftz sat : Bool) (x : Word) (a b : Nat) : Res :=
  let a := f.flushIn ftz (f.decode a)
  let b := f.flushIn ftz (f.decode b)
  f.finish mode ftz sat x (a.isSig || b.isSig) (mulExact a b) (Bool.xor a.neg? b.neg?)

/-- a * b + z with one rounding (R170, R175). 0 * infinity is invalid even beside a quiet NaN z. -/
def Fmt.fma (f : Fmt) (mode : RMode) (ftz sat : Bool) (x : Word) (a b z : Nat) : Res :=
  let a := f.flushIn ftz (f.decode a)
  let b := f.flushIn ftz (f.decode b)
  let z := f.flushIn ftz (f.decode z)
  let anySig := a.isSig || b.isSig || z.isSig
  match mulExact a b with
  | none => { code := f.nan, flags := fIV }
  | some p => f.finish mode ftz sat x anySig (addExact p z) (zeroSumNeg mode p z)

/-- A value read as an extended integer for ordering: sign and magnitude code. -/
def Fmt.key (f : Fmt) (x : Nat) : Int :=
  if (x / f.signBit) % 2 = 1 then -((x % f.signBit : Nat) : Int) - 1 else ((x % f.signBit : Nat) : Int)

/-- A code after an input flush (R72). -/
def Fmt.flushCode (f : Fmt) (ftz : Bool) (x : Nat) : Nat :=
  if ftz && f.flush && decide (x % f.signBit < 2 ^ f.fw) then x / f.signBit * f.signBit else x

/-- Minimum or maximum (R171). `m` is the form that answers a NaN for any NaN operand. -/
def Fmt.minmax (f : Fmt) (ftz mx m : Bool) (a b : Nat) : Res :=
  let va := f.decode a
  let vb := f.decode b
  let a := f.flushCode ftz a
  let b := f.flushCode ftz b
  let flags := if va.isSig || vb.isSig then fIV else 0
  if va.isNan && vb.isNan || m && (va.isNan || vb.isNan) then { code := f.nan, flags }
  else if va.isNan then { code := b, flags }
  else if vb.isNan then { code := a, flags }
  else
    let less := decide (f.key a < f.key b)
    { code := if mx then (if less then b else a) else (if less then a else b), flags }

/-- FCMP (R172): the truth of a condition and its flag. -/
def fcmpRes (ftz : Bool) (cc : BitVec 3) (a b : Word) : Bool × Word :=
  let va := fFP32.decode a.toNat
  let vb := fFP32.decode b.toNat
  let nan := va.isNan || vb.isNan
  let sig := va.isSig || vb.isSig
  -- equal zeros compare equal: drop the sign of a zero magnitude
  let key (w : Word) : Int :=
    let k := fFP32.flushCode ftz w.toNat
    if k % fFP32.signBit = 0 then 0
    else if fFP32.signBit ≤ k then -((k % fFP32.signBit : Nat) : Int) else ((k % fFP32.signBit : Nat) : Int)
  let x := key a
  let y := key b
  let quiet := if sig then fIV else 0
  let ordered := if nan then fIV else 0
  match cc.toNat with
  | 0 => (!nan && decide (x = y), quiet)
  | 1 => (nan || decide (x ≠ y), quiet)
  | 2 => (!nan && decide (x < y), ordered)
  | 3 => (!nan && decide (x ≤ y), ordered)
  | 4 => (!nan && decide (y < x), ordered)
  | 5 => (!nan && decide (y ≤ x), ordered)
  | 6 => (nan, quiet)
  | _ => (!nan, quiet)

/-- FCLASS (R171). -/
def fclassRes (a : Word) : Res :=
  let neg := a.getLsbD 31
  match fFP32.decode a.toNat with
  | .nan s => { code := if s then 2 ^ 8 else 2 ^ 9, flags := if s then fIV else 0 }
  | .inf _ => { code := if neg then 2 ^ 0 else 2 ^ 7 }
  | .fin _ m _ =>
    if m = 0 then { code := if neg then 2 ^ 3 else 2 ^ 4 }
    else if m < 2 ^ 23 then { code := if neg then 2 ^ 2 else 2 ^ 5 }
    else { code := if neg then 2 ^ 1 else 2 ^ 6 }

/-- FABS, FNEG and FCOPYSIGN (R171): the sign given, a NaN operand answering the default NaN. -/
def signOp (a : Word) (neg : Bool) : Res :=
  match fFP32.decode a.toNat with
  | .nan s => { code := 0x7FC00000, flags := if s then fIV else 0 }
  | _ => { code := fFP32.signed neg (a.toNat % fFP32.signBit) }

/-- An FP32 value narrowed to BF16, FP16, E4M3 or E5M2 (R73). -/
def narrow (f : Fmt) (mode : RMode) (ftz sat : Bool) (x : Word) (a : Nat) : Res :=
  match fFP32.flushIn ftz (fFP32.decode a) with
  | .nan s => { code := f.nan, flags := if s then fIV else 0 }
  | .inf n =>
    if sat then { code := f.signed n f.maxFin, flags := fOF ||| fNX }
    else match f.inf with
      | some i => { code := f.signed n i }
      | none => { code := f.nan, flags := fIV }
  | .fin n m e => if m = 0 then { code := f.signed n 0 } else f.round mode ftz sat x n m e

/-- An FP32 value narrowed to E2M1 with a value for the code 0b1000 (R67, R73). DESIGN CHOICE (log 76): the register's own bits are
compared with EXV, before FTZ flushes a subnormal source (R72). -/
def narrowE2M1 (mode : RMode) (ftz sat : Bool) (x exv : Word) (a : Nat) : Res :=
  if a = exv.toNat then { code := 8 }
  else match fFP32.flushIn ftz (fFP32.decode a) with
    | .nan _ => { code := 0, flags := fIV }
    | .inf n => { code := fE2M1.signed n 7, flags := fOF ||| fNX }
    | .fin n m e =>
      if m = 0 then { code := 0 }
      else
        let r := fE2M1.round mode ftz sat x n m e
        if r.code % 8 = 0 then { r with code := 0 } else r

/-- A narrow code widened to FP32 exactly; a NaN gives the default NaN (R73, R174). -/
def widen (f : Fmt) (ftz : Bool) (a : Nat) : Res :=
  match f.flushIn ftz (f.decode a) with
  | .nan s => { code := 0x7FC00000, flags := if s then fIV else 0 }
  | .inf n => { code := fFP32.signed n 0x7F800000 }
  | .fin n m e => if m = 0 then { code := fFP32.signed n 0 } else { code := (fFP32.round .rne false false 0 n m e).code }

/-- An E2M1 code widened; 0b1000 gives EXV exactly (R67, R174). -/
def widenE2M1 (exv : Word) (a : Nat) : Res :=
  if a % 16 = 8 then
    match fFP32.decode exv.toNat with
    | .nan s => { code := 0x7FC00000, flags := if s then fIV else 0 }
    | _ => { code := exv.toNat }
  else widen fE2M1 false (a % 16)

/-- An FP32 value to an integer of [lo, hi], saturating (R73). -/
def toInt (lo hi : Int) (mode : RMode) (ftz : Bool) (x : Word) (a : Nat) : Res :=
  let out (v : Int) (fl : Word) : Res := { code := (v % 2 ^ 32).toNat, flags := fl }
  match fFP32.flushIn ftz (fFP32.decode a) with
  | .nan _ => out 0 fIV
  | .inf n => if n then out lo fIV else out hi fIV
  | .fin n m e =>
    let r := roundAt mode x n m e 0
    let v : Int := if n then -(r.1 : Int) else r.1
    if v < lo then out lo fIV else if hi < v then out hi fIV else out v (if r.2 then fNX else 0)

/-- An integer to FP32 (R174). -/
def fromInt (mode : RMode) (x : Word) (v : Int) : Res :=
  if v = 0 then { code := 0 } else fFP32.round mode false false x (decide (v < 0)) v.natAbs 0

/-- FP32 addition under RNE that neither flushes nor keeps flags (R85, R181, R216, R375). -/
def addRNE (a b : Word) : Word := BitVec.ofNat 32 (fFP32.add .rne false false 0 a.toNat b.toNat).code

end Sys2Proof.Machine
end

