-- ==== Sys2Proof/Machine/FloatSpecial.lean ====
section
/-! DEFINITION. The FSPEC functions, correctly rounded to FP32 (R173). Each nonzero irrational value is bracketed by
integers far narrower than the gap between rounding boundaries, and the bracket's low end with a sticky bit is
rounded (log 16). -/

namespace Sys2Proof.Machine

/-- floor(pi * 2^640). -/
def piFix : Nat := 0x3243f6a8885a308d313198a2e03707344a4093822299f31d0082efa98ec4e6c89452821e638d01377be5466cf34e90c6cc0ac29b7c97c50dd3f84d5b5b54709179216d5d98979fb1bd1310ba698dfb5ac

/-- floor(ln 2 * 2^640). -/
def ln2Fix : Nat := 0xb17217f7d1cf79abc9e3b39803f2f6af40f343267298b62d8a0d175b8baafa2be7b876206debac98559552fb4afa1b10ed2eae35c138214427573b291169b8253e96ca16224ae8c51acbda11317c387e

/-- Integer square root by its binary digits, from bit `k` down. -/
def isqrtAux (k x r : Nat) : Nat :=
  match k with
  | 0 => if (r + 1) * (r + 1) ≤ x then r + 1 else r
  | k + 1 => let t := r + 2 ^ (k + 1); isqrtAux k x (if t * t ≤ x then t else r)

/-- floor(sqrt x). -/
def isqrt (x : Nat) : Nat := isqrtAux (Nat.log2 x / 2 + 1) x 0

/-- A value and the next term of a series: `t` times x over 2^p and over the divisors of step `i`. Sums the terms
of an alternating (`alt`) or a plain series; divisors (i+1)(i+2) when `two`, else i+1. -/
def seriesAux (fuel : Nat) (alt two : Bool) (p xp t i : Nat) (neg : Bool) (acc : Int) : Int :=
  match fuel with
  | 0 => acc
  | fuel + 1 =>
    let t' := (t * xp / 2 ^ p) / (if two then (i + 1) * (i + 2) else i + 1)
    let acc' := if alt && neg then acc - t' else acc + t'
    seriesAux fuel alt two p xp t' (if two then i + 2 else i + 1) (!neg) acc'

/-- exp x at p fraction bits, for x in fixed point. -/
def expFix (p x : Nat) : Nat := (seriesAux 120 false false p x (2 ^ p) 0 false (2 ^ p : Nat)).toNat

/-- sin x at p fraction bits. -/
def sinFix (p x : Nat) : Nat := (seriesAux 60 true true p (x * x / 2 ^ p) x 1 true (x : Nat)).toNat

/-- cos x at p fraction bits. -/
def cosFix (p x : Nat) : Nat := (seriesAux 60 true true p (x * x / 2 ^ p) (2 ^ p) 0 true (2 ^ p : Nat)).toNat

/-- sinh x at p fraction bits. -/
def sinhFix (p x : Nat) : Nat := (seriesAux 150 false true p (x * x / 2 ^ p) x 1 false (x : Nat)).toNat

/-- cosh x at p fraction bits. -/
def coshFix (p x : Nat) : Nat := (seriesAux 150 false true p (x * x / 2 ^ p) (2 ^ p) 0 false (2 ^ p : Nat)).toNat

/-- Round a value just above m * 2^e: m with a sticky bit below it. -/
def roundSticky (ftz : Bool) (neg : Bool) (m : Nat) (e : Int) : Res :=
  fFP32.round .rne ftz false 0 neg (2 * m + 1) (e - 1)

/-- Round an exact value under RNE, as FSPEC does (R173). -/
def roundSpec (ftz : Bool) (neg : Bool) (m : Nat) (e : Int) : Res := fFP32.round .rne ftz false 0 neg m e

/-- A result that is NaN: with IV when invalid or signalling (R173). -/
def specNan (iv : Bool) : Res := { code := 0x7FC00000, flags := if iv then fIV else 0 }

def specInf (neg : Bool) (flags : Word) : Res := { code := fFP32.signed neg 0x7F800000, flags }

def specZero (neg : Bool) : Res := { code := fFP32.signed neg 0 }

/-- RCP of a nonzero finite value. -/
def rcpFin (ftz neg : Bool) (m : Nat) (e : Int) : Res :=
  let k := 80 + Nat.log2 m
  let n := 2 ^ k / m
  if 2 ^ k % m = 0 then roundSpec ftz neg n (-e - k) else roundSticky ftz neg n (-e - k)

/-- A value with an even exponent. -/
def evenExp (m : Nat) (e : Int) : Nat × Int := if e % 2 = 0 then (m, e) else (2 * m, e - 1)

/-- SQRT of a positive finite value. -/
def sqrtFin (ftz : Bool) (m : Nat) (e : Int) : Res :=
  let v := evenExp m e
  let x := v.1 * 2 ^ 160
  let r := isqrt x
  if r * r = x then roundSpec ftz false r (v.2 / 2 - 80) else roundSticky ftz false r (v.2 / 2 - 80)

/-- RSQ of a positive finite value. -/
def rsqFin (ftz : Bool) (m : Nat) (e : Int) : Res :=
  let v := evenExp m e
  let k := 160 + 2 * (Nat.log2 v.1)
  let r := isqrt (2 ^ k / v.1)
  let q : Int := -(v.2 / 2) - (k / 2 : Nat)
  if r * r * v.1 = 2 ^ k then roundSpec ftz false r q else roundSticky ftz false r q

/-- EXP2 of a nonzero finite value (R173). -/
def exp2Fin (ftz neg : Bool) (m : Nat) (e : Int) : Res :=
  if 8 ≤ expOf m e then
    -- beyond every representable exponent: overflow, or below half the least subnormal
    if neg then roundSpec ftz false 1 (-300) else roundSpec ftz false 1 300
  else
    let v : Int := if neg then -(m : Int) else m
    if 0 ≤ e then roundSpec ftz false 1 (v * 2 ^ e.toNat)
    else
      let d := (-e).toNat
      let n := v / 2 ^ d
      let fr := (v % 2 ^ d).toNat
      if fr = 0 then roundSpec ftz false 1 n
      else
        let x := (if d ≤ 256 then fr * 2 ^ (256 - d) else fr / 2 ^ (d - 256)) * ln2Fix / 2 ^ 640
        roundSticky ftz false (expFix 256 x) (n - 256)

/-- Bits of log2 y for y in [1, 2) at p fraction bits, by repeated squaring. -/
def log2Aux (fuel p y acc : Nat) : Nat :=
  match fuel with
  | 0 => acc
  | fuel + 1 =>
    let y2 := y * y / 2 ^ p
    if 2 ^ (p + 1) ≤ y2 then log2Aux fuel p (y2 / 2) (2 * acc + 1) else log2Aux fuel p y2 (2 * acc)

/-- LOG2 of a positive finite value (R173). -/
def log2Fin (ftz : Bool) (m : Nat) (e : Int) : Res :=
  let k := Nat.log2 m
  let ex : Int := e + k
  if m = 2 ^ k then (if ex = 0 then specZero false else roundSpec ftz (decide (ex < 0)) ex.natAbs 0)
  else
    let l := log2Aux 120 320 (m * 2 ^ 320 / 2 ^ k) 0
    let t : Int := ex * 2 ^ 120 + l
    if 0 ≤ t then roundSticky ftz false t.toNat (-120) else roundSticky ftz true (t.natAbs - 1) (-120)

/-- sin(pi t) for 0 < t ≤ 1/2, t = m * 2^e. -/
def sinPiPos (ftz neg : Bool) (m : Nat) (e : Int) : Res :=
  let p : Nat := 256 + (-(expOf m e)).toNat
  let t := if 0 ≤ (p : Int) + e then m * 2 ^ ((p : Int) + e).toNat else m / 2 ^ (-((p : Int) + e)).toNat
  let x := t * piFix / 2 ^ 640
  if t * 4 ≤ 2 ^ p then roundSticky ftz neg (sinFix p x) (-(p : Int))
  else if t * 2 = 2 ^ p then roundSpec ftz neg 1 0
  else
    let y := (2 ^ p - 2 * t) * piFix / 2 ^ 641
    -- cosine is at most 1: step below it so that the sticky bit brackets the value
    roundSticky ftz neg (cosFix p y - 2) (-(p : Int))

/-- SINPI of a nonzero finite value: reduce modulo 2, fold into the first quarter (R173). -/
def sinpiFin (ftz neg : Bool) (m : Nat) (e : Int) : Res :=
  if 0 ≤ e then specZero neg
  else
    let one := 2 ^ (-e).toNat
    let r := m % (2 * one)
    let flip := decide (one ≤ r)
    let r := r % one
    if r = 0 then specZero neg
    else
      let r := if one < 2 * r then one - r else r
      sinPiPos ftz (Bool.xor neg flip) r e

/-- COSPI of a nonzero finite value: cos(pi a) = sin(pi (1/2 - a)) (R173). -/
def cospiFin (ftz : Bool) (m : Nat) (e : Int) : Res :=
  -- take one more fraction bit, so that one half is an integer number of steps
  let e1 : Int := min e 0 - 1
  let m1 := m * 2 ^ (e - e1).toNat
  let one := 2 ^ (-e1).toNat
  let r := m1 % (2 * one)
  let r := if one < r then 2 * one - r else r
  if 2 * r = one then specZero false
  else if 2 * r < one then sinPiPos ftz false (one / 2 - r) e1
  else sinPiPos ftz true (r - one / 2) e1

/-- TANH of a nonzero finite value (R173). -/
def tanhFin (ftz neg : Bool) (m : Nat) (e : Int) : Res :=
  let k := expOf m e
  if 5 ≤ k then roundSticky ftz neg (2 ^ 60 - 1) (-60)
  else
    let p : Nat := 360 + 3 * (-k).toNat
    let x := if 0 ≤ (p : Int) + e then m * 2 ^ ((p : Int) + e).toNat else m / 2 ^ (-((p : Int) + e)).toNat
    roundSticky ftz neg (sinhFix p x * 2 ^ p / coshFix p x) (-(p : Int))

/-- The eight functions of FSPEC by b field (R173). -/
def fspecRes (fn : Nat) (ftz : Bool) (a : Word) : Res :=
  match fFP32.flushIn ftz (fFP32.decode a.toNat) with
  | .nan s => specNan s
  | .inf n =>
    match fn with
    | 0 => specZero n
    | 1 => if n then specNan true else specZero false
    | 2 => if n then specNan true else specInf false 0
    | 3 => if n then specZero false else specInf false 0
    | 4 => if n then specNan true else specInf false 0
    | _ => specNan true
  | .fin n m e =>
    if m = 0 then
      match fn with
      | 0 => specInf n fDZ
      | 1 => specInf n fDZ
      | 2 => specZero n
      | 3 => { code := 0x3F800000 }
      | 4 => specInf true fDZ
      | 5 => specZero n
      | 6 => { code := 0x3F800000 }
      | _ => specZero n
    else
      match fn with
      | 0 => rcpFin ftz n m e
      | 1 => if n then specNan true else rsqFin ftz m e
      | 2 => if n then specNan true else sqrtFin ftz m e
      | 3 => exp2Fin ftz n m e
      | 4 => if n then specNan true else log2Fin ftz m e
      | 5 => sinpiFin ftz n m e
      | 6 => cospiFin ftz m e
      | _ => tanhFin ftz n m e

end Sys2Proof.Machine
end

