-- ==== Sys2Proof/Machine/Operands.lean ====
section
/-! DEFINITION. Operand forms: lane and uniform register operations (R157), predicate destinations (R160),
rounded operations with flags and generator steps (R70, R75, R80), and address formation (R50). -/

namespace Sys2Proof.Machine

/-- Put a 32-bit value for each enabled lane into vd, computed from the values before the chained group (R44, R157);
or, for U = 1, one value into gd when the q predicate holds (R98). -/
def Issue.put (is : Issue) (u : Bool) (d : BitVec 7) (fv : Nat → Word) (fg : Word) : Issue :=
  if u then (if is.qon then is.onCoach fun c => c.gput d.toNat fg else is)
  else is.onCoach fun c => c.vputs d.toNat (laneList is.enabled) fv

/-- d := f a b d over one register file (R157, R158). -/
def alu3 (u : Bool) (d a b : BitVec 7) (f : Word → Word → Word → Word) (s : State) : Out :=
  .next (s.onIssue fun is =>
    is.put u d (fun l => f (is.snap.vget a.toNat l) (is.snap.vget b.toNat l) (is.snap.vget d.toNat l))
      (f (is.snap.gget a.toNat) (is.snap.gget b.toNat) (is.snap.gget d.toNat)))

/-- d := f a over one register file (R157). -/
def alu1 (u : Bool) (d a : BitVec 7) (f : Word → Word) (s : State) : Out := alu3 u d a 0 (fun x _ _ => f x) s

/-- A predicate destination (R160): pd in each enabled lane, or qd. -/
def Issue.putPred (is : Issue) (u : Bool) (pd : BitVec 3) (fv : Nat → Bool) (fg : Bool) : Issue :=
  if u then (if is.qon then is.onCoach fun c => c.qput pd fg else is)
  else is.onCoach fun c => c.pput pd is.enabled (laneMask fv)

/-- pd := f a b (R163, R166). -/
def cmp2 (u : Bool) (pd : BitVec 3) (a b : BitVec 7) (f : Word → Word → Bool) (s : State) : Out :=
  .next (s.onIssue fun is =>
    is.putPred u pd (fun l => f (is.snap.vget a.toNat l) (is.snap.vget b.toNat l))
      (f (is.snap.gget a.toNat) (is.snap.gget b.toNat)))

/-- The lane whose generator a uniform form steps: the coach's lowest enabled lane (R80). -/
def Issue.uniformLane (is : Issue) : Nat := lowLane is.active

/-- The sources of one element operation: the registers a, b and d, and the next register after a. -/
structure Srcs where
  a : Word
  b : Word
  d : Word
  a1 : Word

/-- What an operation reads of its coach: GMODE and EXV as they stood before the group (R44, R70). -/
structure Env where
  mode : RMode
  ftz : Bool
  sat : Bool
  exv : Word

def Issue.env (is : Issue) (rnd : BitVec 3) : Env :=
  { mode := effMode rnd is.snap.gmode, ftz := gmFTZ is.snap.gmode, sat := gmSAT is.snap.gmode, exv := is.snap.exv }

def Issue.vsrc (is : Issue) (d a b : BitVec 7) (l : Nat) : Srcs :=
  { a := is.snap.vget a.toNat l, b := is.snap.vget b.toNat l, d := is.snap.vget d.toNat l,
    a1 := is.snap.vget (a.toNat + 1) l }

def Issue.gsrc (is : Issue) (d a b : BitVec 7) : Srcs :=
  { a := is.snap.gget a.toNat, b := is.snap.gget b.toNat, d := is.snap.gget d.toNat, a1 := is.snap.gget (a.toNat + 1) }

/-- One lane of an operation of `k` elements: step the lane's generator once per element when the mode is SR (R80),
compute from the stepped state, write vd and keep the flags. `f` takes the state after its first step. -/
def Issue.fpLane (d : BitVec 7) (f : Env → Word → Srcs → Word × Word) (env : Env) (steps : Nat) (src : Srcs)
    (is : Issue) (l : Nat) : Issue :=
  let x := is.coach.srget l
  let step := decide (0 < steps) && env.mode == .sr
  let x1 := if step then srStep x else x
  let r := f env x1 src
  let xn := if step then (List.range (steps - 1)).foldl (fun y _ => srStep y) x1 else x
  { is.setFlags r.2 with coach := ((is.setFlags r.2).coach.srput l xn).vput d.toNat l r.1 }

/-- A floating-point operation d := f a b d, with its flags and generator steps (R75, R80, R157). `steps` is the
number of elements that step the generator, 0 for operations that never round under SR. -/
def fpOp (u : Bool) (rnd : BitVec 3) (d a b : BitVec 7) (steps : Nat) (f : Env → Word → Srcs → Word × Word)
    (s : State) : Out :=
  .next (s.onIssue fun is =>
    let env := is.env rnd
    if u then
      if is.qon then
        let l := is.uniformLane
        let x := is.coach.srget l
        let step := decide (0 < steps) && env.mode == .sr && is.active != 0
        let x1 := if step then srStep x else x
        let r := f env x1 (is.gsrc d a b)
        let xn := if step then (List.range (steps - 1)).foldl (fun y _ => srStep y) x1 else x
        let is := is.setFlags r.2
        is.onCoach fun c => (if step then c.srput l xn else c).gput d.toNat r.1
      else is
    else (laneList is.enabled).foldl (fun js l => Issue.fpLane d f env steps (is.vsrc d a b l) js l) is)

/-- A result of a format operation as a register value and its flags. -/
def ofRes (r : Res) : Word × Word := (BitVec.ofNat 32 r.code, r.flags)

/-- Sign-extended displacement of a memory slot (R50). -/
def memDisp (x : Option MemExt) : Dword := match x with
  | some e => e.ofs.signExtend 64
  | none => 0

/-- Address of a global access in a lane (R50). -/
def gaddr (c : Coach) (k : BitVec 5) (o : BitVec 7) (sc : BitVec 2) (disp : Dword) (l : Nat) : Dword :=
  c.gpair (2 * k.toNat) + ((c.vget o.toNat l).zeroExtend 64 <<< sc.toNat) + disp

/-- Address of a scratchpad access in a lane, modulo 2^32 (R50, R190). -/
def saddr (c : Coach) (k : BitVec 5) (o : BitVec 7) (sc : BitVec 2) (disp : Dword) (l : Nat) : Nat :=
  (c.gget (2 * k.toNat) + (c.vget o.toNat l <<< sc.toNat) + loWord disp).toNat

/-- Bytes of an access of a size (R214). -/
def sizeBytes (size : BitVec 3) : Nat :=
  match size.toNat with
  | 0 => 1
  | 1 => 1
  | 2 => 2
  | 3 => 2
  | 4 => 4
  | 5 => 8
  | _ => 16

end Sys2Proof.Machine
end

