-- ==== Sys2Proof/Machine/FloatOps.lean ====
section
/-! DEFINITION. Floating-point instructions, conversions, packed BF16 and RAND (R170 to R176). -/

namespace Sys2Proof.Machine

def execFadd (u : Bool) (rnd : BitVec 3) (d a b : BitVec 7) (s : State) : Out :=
  fpOp u rnd d a b 1 (fun e x r => ofRes (fFP32.add e.mode e.ftz e.sat x r.a.toNat r.b.toNat)) s
def execFsub (u : Bool) (rnd : BitVec 3) (d a b : BitVec 7) (s : State) : Out :=
  fpOp u rnd d a b 1 (fun e x r => ofRes (fFP32.sub e.mode e.ftz e.sat x r.a.toNat r.b.toNat)) s
def execFmul (u : Bool) (rnd : BitVec 3) (d a b : BitVec 7) (s : State) : Out :=
  fpOp u rnd d a b 1 (fun e x r => ofRes (fFP32.mul e.mode e.ftz e.sat x r.a.toNat r.b.toNat)) s
def execFfma (u : Bool) (rnd : BitVec 3) (d a b : BitVec 7) (s : State) : Out :=
  fpOp u rnd d a b 1 (fun e x r => ofRes (fFP32.fma e.mode e.ftz e.sat x r.a.toNat r.b.toNat r.d.toNat)) s

/-- Forms that round nothing under any mode: no generator step (R80). -/
def exactOp (u : Bool) (d a b : BitVec 7) (f : Env → Srcs → Res) (s : State) : Out :=
  fpOp u 1 d a b 0 (fun e _ r => ofRes (f e r)) s

def execFmin (u : Bool) (d a b : BitVec 7) (s : State) : Out :=
  exactOp u d a b (fun e r => fFP32.minmax e.ftz false false r.a.toNat r.b.toNat) s
def execFmax (u : Bool) (d a b : BitVec 7) (s : State) : Out :=
  exactOp u d a b (fun e r => fFP32.minmax e.ftz true false r.a.toNat r.b.toNat) s
def execFminm (u : Bool) (d a b : BitVec 7) (s : State) : Out :=
  exactOp u d a b (fun e r => fFP32.minmax e.ftz false true r.a.toNat r.b.toNat) s
def execFmaxm (u : Bool) (d a b : BitVec 7) (s : State) : Out :=
  exactOp u d a b (fun e r => fFP32.minmax e.ftz true true r.a.toNat r.b.toNat) s
def execFabs (u : Bool) (d a : BitVec 7) (s : State) : Out := exactOp u d a 0 (fun _ r => signOp r.a false) s
def execFneg (u : Bool) (d a : BitVec 7) (s : State) : Out := exactOp u d a 0 (fun _ r => signOp r.a (!r.a.getLsbD 31)) s
def execFcopysign (u : Bool) (d a b : BitVec 7) (s : State) : Out :=
  exactOp u d a b (fun _ r => signOp r.a (r.b.getLsbD 31)) s
def execFclass (u : Bool) (d a : BitVec 7) (s : State) : Out := exactOp u d a 0 (fun _ r => fclassRes r.a) s

/-- FCMP.cc pD, a, b (R172). -/
def execFcmp (u : Bool) (cc pd : BitVec 3) (a b : BitVec 7) (s : State) : Out :=
  .next (s.onIssue fun is =>
    let ftz := gmFTZ is.snap.gmode
    let rv (l : Nat) := fcmpRes ftz cc (is.snap.vget a.toNat l) (is.snap.vget b.toNat l)
    let rg := fcmpRes ftz cc (is.snap.gget a.toNat) (is.snap.gget b.toNat)
    if u then (if is.qon then (is.putPred u pd (fun _ => false) rg.1).setFlags rg.2 else is)
    else (is.putPred u pd (fun l => (rv l).1) false).setFlags
      ((laneList is.enabled).foldl (fun f l => f ||| (rv l).2) 0))

/-- FSPEC (R173): always RNE, never a generator step. -/
def specOp (fn : Nat) (u : Bool) (rnd : BitVec 3) (d a : BitVec 7) (s : State) : Out :=
  fpOp u rnd d a 0 0 (fun e _ r => ofRes (fspecRes fn e.ftz r.a)) s

def execRcp (u : Bool) (rnd : BitVec 3) (d a : BitVec 7) (s : State) : Out := specOp 0 u rnd d a s
def execRsq (u : Bool) (rnd : BitVec 3) (d a : BitVec 7) (s : State) : Out := specOp 1 u rnd d a s
def execSqrt (u : Bool) (rnd : BitVec 3) (d a : BitVec 7) (s : State) : Out := specOp 2 u rnd d a s
def execExp2 (u : Bool) (rnd : BitVec 3) (d a : BitVec 7) (s : State) : Out := specOp 3 u rnd d a s
def execLog2 (u : Bool) (rnd : BitVec 3) (d a : BitVec 7) (s : State) : Out := specOp 4 u rnd d a s
def execSinpi (u : Bool) (rnd : BitVec 3) (d a : BitVec 7) (s : State) : Out := specOp 5 u rnd d a s
def execCospi (u : Bool) (rnd : BitVec 3) (d a : BitVec 7) (s : State) : Out := specOp 6 u rnd d a s
def execTanh (u : Bool) (rnd : BitVec 3) (d a : BitVec 7) (s : State) : Out := specOp 7 u rnd d a s

/-- Elements that step the generator in a conversion under SR (R80). -/
def cvtSteps (code : BitVec 4) : Nat :=
  if 5 ≤ code.toNat && code.toNat ≤ 9 then 0 else if code = 14 then 2 else 1

/-- The result and flags of a conversion code (R174). `x` is the generator after its first step. -/
def cvtRes (code : BitVec 4) (e : Env) (x : Word) (r : Srcs) : Res :=
  let lo16 := r.a.toNat % 2 ^ 16
  match code.toNat with
  | 0 => narrow fBF16 e.mode e.ftz e.sat x r.a.toNat
  | 1 => narrow fFP16 e.mode e.ftz e.sat x r.a.toNat
  | 2 => narrow fE4M3 e.mode e.ftz e.sat x r.a.toNat
  | 3 => narrow fE5M2 e.mode e.ftz e.sat x r.a.toNat
  | 4 => narrowE2M1 e.mode e.ftz e.sat x e.exv r.a.toNat
  | 5 => widen fBF16 e.ftz lo16
  | 6 => widen fFP16 e.ftz lo16
  | 7 => widen fE4M3 e.ftz (r.a.toNat % 2 ^ 8)
  | 8 => widen fE5M2 e.ftz (r.a.toNat % 2 ^ 8)
  | 9 => widenE2M1 e.exv r.a.toNat
  | 10 => toInt (-2147483648) 2147483647 e.mode e.ftz x r.a.toNat
  | 11 => fromInt e.mode x r.a.toInt
  | 12 => fromInt e.mode x r.a.toNat
  | 13 => toInt 0 4294967295 e.mode e.ftz x r.a.toNat
  | _ =>
    let lo := narrow fBF16 e.mode e.ftz e.sat x r.a.toNat
    let hi := narrow fBF16 e.mode e.ftz e.sat (if e.mode = .sr then srStep x else x) r.a1.toNat
    { code := lo.code + 2 ^ 16 * hi.code, flags := lo.flags ||| hi.flags }

/-- CVT (R174). -/
def execCvt (u : Bool) (rnd : BitVec 3) (d a : BitVec 7) (code : BitVec 4) (s : State) : Out :=
  fpOp u rnd d a 0 (cvtSteps code) (fun e x r => ofRes (cvtRes code e x r)) s

/-- Packed BF16 (R175): element 0 with the generator's first step, element 1 with its second. -/
def packed2 (f : RMode → Bool → Bool → Word → Nat → Nat → Nat → Res) (e : Env) (x : Word) (r : Srcs) : Word × Word :=
  let lo (w : Word) := w.toNat % 2 ^ 16
  let hi (w : Word) := w.toNat / 2 ^ 16
  let r0 := f e.mode e.ftz e.sat x (lo r.a) (lo r.b) (lo r.d)
  let r1 := f e.mode e.ftz e.sat (if e.mode = .sr then srStep x else x) (hi r.a) (hi r.b) (hi r.d)
  (BitVec.ofNat 32 (r0.code + 2 ^ 16 * r1.code), r0.flags ||| r1.flags)

def execBadd2 (rnd : BitVec 3) (d a b : BitVec 7) (s : State) : Out :=
  fpOp false rnd d a b 2 (packed2 fun m f t x a b _ => fBF16.add m f t x a b) s
def execBmul2 (rnd : BitVec 3) (d a b : BitVec 7) (s : State) : Out :=
  fpOp false rnd d a b 2 (packed2 fun m f t x a b _ => fBF16.mul m f t x a b) s
def execBfma2 (rnd : BitVec 3) (d a b : BitVec 7) (s : State) : Out :=
  fpOp false rnd d a b 2 (packed2 fun m f t x a b z => fBF16.fma m f t x a b z) s

/-- x<31..8> * 2^-24 as FP32 (R80). -/
def randF (x : Word) : Word :=
  let m := x.toNat / 2 ^ 8
  if m = 0 then 0 else BitVec.ofNat 32 (fFP32.round .rne false false 0 false m (-24)).code

/-- RAND and RANDF step each enabled lane's generator once, whatever GMODE holds (R176). -/
def randOp (d : BitVec 7) (f : Word → Word) (s : State) : Out :=
  .next (s.onIssue fun is =>
    (laneList is.enabled).foldl (fun js l =>
      let x := srStep (js.coach.srget l)
      js.onCoach fun c => (c.srput l x).vput d.toNat l (f x)) is)

def execRand (d : BitVec 7) (s : State) : Out := randOp d (fun x => x) s
def execRandf (d : BitVec 7) (s : State) : Out := randOp d randF s

end Sys2Proof.Machine
end

