-- ==== Sys2Proof/Machine/Blocks.lean ====
section
/-! DEFINITION. Canonical blocks (R81 to R83), conversions between storage formats (R246, R251), and the summation of the
matrix engine (R84, R85). -/

namespace Sys2Proof.Machine

/-- Magnitude bits of an RB format: 1 RB4, 2 RB8, 3 RB16 (R81). -/
def rbN (rb : Nat) : Nat := if rb = 1 then 2 else if rb = 2 then 6 else 14

/-- Bytes of a block (R81). -/
def rbBytes (rb : Nat) : Nat := if rb = 1 then 18 else if rb = 2 then 34 else 66

/-- An element of a block: sign, selector, magnitude. -/
structure RbElem where
  neg : Bool
  sel : Bool
  m : Nat
deriving DecidableEq, Repr

/-- A block: its two exponents and its 32 elements (R81). -/
structure RbBlock where
  e0 : Nat
  e1 : Nat
  elems : List RbElem
deriving DecidableEq, Repr

/-- An element's field (R81). -/
def RbElem.code (n : Nat) (x : RbElem) : Nat :=
  (if x.neg then 2 ^ (n + 1) else 0) + (if x.sel then 2 ^ n else 0) + x.m

def RbElem.ofCode (n c : Nat) : RbElem :=
  { neg := c / 2 ^ (n + 1) % 2 == 1, sel := c / 2 ^ n % 2 == 1, m := c % 2 ^ n }

/-- The bytes of a block: the welt, then the elements in ascending index (R81). -/
def RbBlock.bytes (rb : Nat) (b : RbBlock) : List Byte :=
  let cs := b.elems.map (RbElem.code (rbN rb))
  [BitVec.ofNat 8 b.e0, BitVec.ofNat 8 b.e1] ++
    (if rb = 1 then (List.range 16).map fun i => BitVec.ofNat 8 (cs.getD (2 * i) 0 + 16 * cs.getD (2 * i + 1) 0)
     else if rb = 2 then cs.map fun c => BitVec.ofNat 8 c
     else cs.flatMap fun c => leBytes 2 c)

/-- The block that bytes hold (R81). -/
def RbBlock.ofBytes (rb : Nat) (bs : List Byte) : RbBlock :=
  let at? (i : Nat) : Nat := (bs.getD i 0).toNat
  let code (i : Nat) : Nat :=
    if rb = 1 then at? (2 + i / 2) / 16 ^ (i % 2) % 16
    else if rb = 2 then at? (2 + i) else at? (2 + 2 * i) + 256 * at? (3 + 2 * i)
  { e0 := at? 0, e1 := at? 1, elems := (List.range 32).map fun i => RbElem.ofCode (rbN rb) (code i) }

/-- The exponent an element's selector picks. -/
def RbBlock.expOf (b : RbBlock) (x : RbElem) : Nat := if x.sel then b.e1 else b.e0

/-- The value of an element (R82). -/
def RbBlock.value (rb : Nat) (b : RbBlock) (x : RbElem) : Fp :=
  let e := b.expOf x
  if e = 255 then .nan false
  else if e = 0 then .fin x.neg 0 0
  else .fin x.neg x.m ((e : Int) - 127 - (rbN rb - 1))

/-- A value as FP32 where it is exact: NaN gives the default NaN, a zero keeps its sign. -/
def Fp.toF32 (v : Fp) : Word :=
  match v with
  | .nan _ => 0x7FC00000#32
  | .inf n => BitVec.ofNat 32 (fFP32.signed n 0x7F800000)
  | .fin n m e =>
    if m = 0 then BitVec.ofNat 32 (fFP32.signed n 0)
    else BitVec.ofNat 32 (fFP32.round .rne false false 0 n m e).code

/-- A source of R83 as sign, magnitude and exponent; an infinity counts as the largest finite FP32 value. -/
def Fp.finite (v : Fp) : Bool × Nat × Int :=
  match v with
  | .fin n m e => (n, m, e)
  | .inf n => (n, 2 ^ 24 - 1, 104)
  | .nan _ => (false, 0, 0)

def Fp.isInf (v : Fp) : Bool :=
  match v with
  | .inf _ => true
  | _ => false

/-- Greatest of a list of integers. -/
def maxInt (xs : List Int) : Option Int :=
  match xs with
  | [] => none
  | x :: rest => some (rest.foldl max x)

/-- A block formed from 32 sources (R83): the block, and whether an element saturated. `sr` gives the generator state
of each element when the rounding is stochastic. -/
def formBlock (rb gap : Nat) (sr : Option (Nat → Word)) (src : List Fp) : RbBlock × Bool :=
  let n := rbN rb
  let zero : RbElem := { neg := false, sel := false, m := 0 }
  if src.any Fp.isNan then ({ e0 := 255, e1 := 0, elems := List.replicate 32 zero }, false)
  else
    let vs := src.map Fp.finite
    let exps := vs.filterMap fun v => if v.2.1 = 0 then none else some (expOf v.2.1 v.2.2)
    match maxInt exps with
    | none => ({ e0 := 0, e1 := 0, elems := vs.map fun v => { zero with neg := v.1 } }, false)
    | some emax =>
      let sel (v : Bool × Nat × Int) : Bool := v.2.1 != 0 && decide (expOf v.2.1 v.2.2 < emax - (gap : Int))
      let e0 : Int := max 1 (emax + 127)
      let e1 : Int := match maxInt (vs.filterMap fun v => if sel v then some (expOf v.2.1 v.2.2) else none) with
        | some e => max 1 (e + 127)
        | none => e0
      let elem (v : Bool × Nat × Int) (i : Nat) : RbElem × Bool :=
        let es := if sel v then e1 else e0
        let mode := if sr.isSome then RMode.sr else RMode.rne
        let x := match sr with
          | some f => f i
          | none => 0
        let r := (roundAt mode x false v.2.1 (v.2.2 + ((n : Int) - 1 - (es - 127))) 0).1
        if 2 ^ n ≤ r then ({ neg := v.1, sel := sel v, m := 2 ^ n - 1 }, true) else ({ neg := v.1, sel := sel v, m := r }, false)
      let es := (vs.zipIdx).map fun (v, i) => elem v i
      ({ e0 := e0.toNat, e1 := e1.toNat, elems := es.map (·.1) }, src.any Fp.isInf || es.any (·.2))

/-! ### Storage formats 0 to 7 (R246, R251) -/

/-- The FP format of storage formats 0 to 5. -/
def sfmtFmt (sf : Nat) : Fmt :=
  match sf with
  | 0 => fFP32
  | 1 => fBF16
  | 2 => fFP16
  | 3 => fE4M3
  | 4 => fE5M2
  | _ => fE2M1

/-- The exact value of a storage element; the E2M1 code 0b1000 gives EXV. -/
def sfmtValue (sf : Nat) (exv : Word) (c : Nat) : Fp :=
  if sf = 6 then
    let v := (BitVec.ofNat 8 c).toInt
    .fin (decide (v < 0)) v.natAbs 0
  else if sf = 7 then .fin false c 0
  else if sf = 5 ∧ c % 16 = 8 then fFP32.decode exv.toNat
  else (sfmtFmt sf).decode c

/-- What packing a value into a storage format gives: the code, whether it saturated, whether a NaN was written. -/
structure Packed where
  code : Nat
  sat : Bool
  nan : Bool

/-- Pack an FP32 value into a storage format (R73, R251). -/
def packElem (sf : Nat) (sat : Bool) (exv : Word) (mode : RMode) (x : Word) (a : Word) : Packed :=
  let clamp (lo hi : Int) : Packed :=
    let r := toInt lo hi mode false x a.toNat
    { code := r.code % 256, sat := (r.flags &&& fIV) != 0 && !(fFP32.decode a.toNat).isNan, nan := false }
  if sf = 0 then { code := a.toNat, sat := false, nan := (fFP32.decode a.toNat).isNan }
  else if sf = 6 then clamp (-128) 127
  else if sf = 7 then clamp 0 255
  else if sf = 5 then
    let r := narrowE2M1 mode false sat x exv a.toNat
    { code := r.code, sat := sat && (r.flags &&& fOF) != 0, nan := false }
  else
    let r := narrow (sfmtFmt sf) mode false sat x a.toNat
    { code := r.code, sat := sat && (r.flags &&& fOF) != 0, nan := ((sfmtFmt sf).decode r.code).isNan }

/-! ### The sum of the matrix engine (R84, R85) -/

/-- FP32 of an exact integer times a power of two, under RNE; an integer of zero gives +0 (R85). -/
def roundF32 (v : Int) (e : Int) : Word :=
  if v = 0 then 0 else BitVec.ofNat 32 (fFP32.round .rne false false 0 (decide (v < 0)) v.natAbs e).code

/-- The term of one pair of selectors of a block (R84). -/
def mmaTerm (na nb : Nat) (a b : RbBlock) (sa sb : Bool) : Word :=
  let ps := (a.elems.zip b.elems).filter fun p => p.1.sel == sa && p.2.sel == sb
  let ea := if sa then a.e1 else a.e0
  let eb := if sb then b.e1 else b.e0
  if ps.isEmpty then 0
  else if ea = 255 ∨ eb = 255 then 0x7FC00000#32
  else if ea = 0 ∨ eb = 0 then 0
  else
    let sum : Int := ps.foldl (fun t p => t + (if Bool.xor p.1.neg p.2.neg then -1 else 1) * ((p.1.m * p.2.m : Nat) : Int)) 0
    roundF32 sum ((ea : Int) + eb - 254 - (na - 1 : Nat) - (nb - 1 : Nat))

/-- One output element from an A row and a B column of blocks, in the order of R84. -/
def mmaElem (na nb : Nat) (acc : Word) (a b : List RbBlock) : Word :=
  (a.zip b).foldl (fun acc p =>
    [(false, false), (false, true), (true, false), (true, true)].foldl (fun acc q =>
      addRNE acc (mmaTerm na nb p.1 p.2 q.1 q.2)) acc) acc

end Sys2Proof.Machine
end

