-- ==== Sys2Proof/Machine/Counters.lean ====
section
/-! DEFINITION. Performance counters (R429 to R432) and the passing of cycles (R31). -/

namespace Sys2Proof.Machine

/-- Add to a counter; a wrap sets OVF (R429, R430). -/
def Counter.add (c : Counter) (n : Nat) : Counter :=
  { c with val := c.val + BitVec.ofNat 48 n, ovf := c.ovf || decide (2 ^ 48 ≤ c.val.toNat + n) }

/-- Whether adding wraps a counter that signals it. -/
def Counter.signals (c : Counter) (n : Nat) : Bool := c.ovie && decide (2 ^ 48 ≤ c.val.toNat + n)

/-- Whether a counter counts an event of a function at a place. Raw link events count only for the physical function,
on the link that LINK selects (R432). -/
def Counter.counts (c : Counter) (ret : Nat) (cu : Option Nat) (code : Nat) (owner : Option Nat) (link : Option Nat) :
    Bool :=
  c.en && c.event == code && c.ret == ret && c.cu == cu && c.owner == owner &&
    (match link with
     | some l => c.link == l
     | none => true)

/-- Count an event `n` times. -/
def State.countAt (s : State) (ret : Nat) (cu : Option Nat) (code : Nat) (owner link : Option Nat) (n : Nat) : State :=
  let hit (c : Counter) : Bool := c.counts ret cu code owner link
  let irqs := (s.counters.filter fun c => hit c && c.signals n).map fun c => OutMsg.interrupt c.owner c.vec
  { s with counters := s.counters.map (fun c => if hit c then c.add n else c), outbox := s.outbox ++ irqs }

/-- Count a CU event of a function (R432). -/
def State.countCU (s : State) (ret cu code vf n : Nat) : State := s.countAt ret (some cu) code (some vf) none n

/-- Count a reticle event of a function (R432). -/
def State.countRet (s : State) (ret code vf n : Nat) : State := s.countAt ret none code (some vf) none n

/-- Count a raw event of a link (R399, R432). -/
def State.countRaw (s : State) (ret code link : Nat) : State :=
  s.countAt ret none code none (if code = 0x308 ∨ code = 0x309 then none else some link) 1

/-- What CTRRD m reads for a coach of a function (R128, R129, R429); raw events read 0 for a virtual function (R432). -/
def State.ctrRead (s : State) (ret cu vf m : Nat) : Dword :=
  let at? (c : Counter) : Bool :=
    c.ret == ret && (if m < 8 then c.cu == some cu && c.idx == m else c.cu == none && c.idx == m - 8)
  match s.counters.find? at? with
  | some c => if c.owner = some vf ∧ c.event < 0x300 then c.val.zeroExtend 64 else 0
  | none => 0

/-- Resident tasks draw their span width per cycle from their partition's credit (R310). -/
def State.drawCredit (s : State) (n : Nat) : State :=
  let used (ret part : Nat) : Nat := ((s.tasks.filter fun t => t.copyOf.isNone && (t.phase == .running || t.phase == .aborting) &&
    t.ret == ret && t.part == part).map (·.span)).sum
  { s with rets := s.rets.map fun (r : RetState) => { r with credit := r.credit.map fun (x : Nat × Int) => (x.1, x.2 - ((used r.ret x.1 * n : Nat) : Int)) } }

/-- `n` cycles pass: CLOCK goes on (R31), and the cycle events of R432 count, once for each CU. -/
def State.tick (s : State) (n : Nat) : State :=
  let s := s.drawCredit n
  let live := s.tasks.filter fun t => decide (t.phase = .running)
  let cus (ts : List Task) : List (Nat × Nat × Nat) := (ts.map fun t => (t.ret, t.cu, t.vf)).eraseDups
  let s := (cus live).foldl (fun s x => s.countCU x.1 x.2.1 0x001 x.2.2 n) s
  let waiting := live.filter fun t => t.coaches.any fun c => c.frags.any fun f =>
    match f.hold with
    | .wait .. => true
    | _ => false
  let s := (cus waiting).foldl (fun s x => s.countCU x.1 x.2.1 0x005 x.2.2 n) s
  { s with clock := s.clock + n }

end Sys2Proof.Machine
end

