-- ==== Sys2Proof/Machine/Memory.lean ====
section
/-! DEFINITION. Storage (R187 to R205): extents and homes, DRAM under keys, the square-sector LLC, the L1, and the
reads and writes that accesses make of them. -/

namespace Sys2Proof.Machine

/-! ### Extents (R206, R325) -/

/-- The kinds of access that R206 distinguishes. -/
inductive Acc where
  | read | write | atomic | any
deriving DecidableEq, Repr

/-- Whether a window's permission allows an access: 0 in, 1 out, 2 inout, 3 atom (R206). -/
def permOk (k : Acc) (perm : Nat) : Bool :=
  match k with
  | .read => perm != 1
  | .write => perm != 0
  | .atomic => perm == 3
  | .any => true

/-- The data extent that covers every byte of an access and grants it (R206). Code extents hold WID 32 (R325). -/
def Task.extent? (t : Task) (k : Acc) (va n : Nat) : Option Extent :=
  if 2 ^ 52 ≤ va then none
  else t.extents.find? fun e => e.wid < 32 && permOk k e.perm && e.va ≤ va && va + n ≤ e.va + e.len

/-- The code extent that covers a range (R325). -/
def Task.code? (t : Task) (va n : Nat) : Option Extent :=
  if 2 ^ 52 ≤ va then none
  else t.extents.find? fun e => e.wid == 32 && e.va ≤ va && va + n ≤ e.va + e.len

/-- The place a global address names: NODE 0xFFFF and the wafer's own number name this wafer, written 0xFFFF
(R24, R25). -/
def State.globLoc (s : State) (pa : Dword) (key wid : Nat) : Loc :=
  let node := field pa 48 16
  .glob (if node = s.port.node then 0xFFFF else node) (field pa 42 6) (field pa 0 42) key wid

/-- Where a virtual address of an extent lies (R325). -/
def State.locate (s : State) (e : Extent) (va : Nat) : Loc :=
  let pa := e.pa + BitVec.ofNat 64 (va - e.va)
  if e.host then .host pa.toNat e.wid else s.globLoc pa e.key e.wid

/-- The place `i` bytes further on. -/
def Loc.plus (l : Loc) (i : Nat) : Loc :=
  match l with
  | .glob n r o k w => .glob n r (o + i) k w
  | .host a w => .host (a + i) w
  | .scratch a => .scratch (a + i)

def Loc.isHost : Loc → Bool
  | .host .. => true
  | _ => false

/-- Whether two places are the same byte. -/
def Loc.same (a b : Loc) : Bool :=
  match a, b with
  | .glob n r o _ _, .glob n' r' o' _ _ => n == n' && r == r' && o == o'
  | .host x _, .host y _ => x == y
  | .scratch x, .scratch y => x == y
  | _, _ => false

/-! ### Frames (R27, R29) -/

def offAssignable : Nat := 0x1F80000000
def offSpareEnd : Nat := 0x1FD1EC0000
def offEnd : Nat := 0x2000000000

/-- A reticle offset that a tenant's request may reach: assignable DRAM or the spare pool (R27, R29). -/
def offOk (off : Nat) : Bool := off < offSpareEnd

/-- Device-physical address (R24). -/
def devAddr (ret off : Nat) : Nat := ret * 2 ^ 42 + off

/-! ### Connectivity of the mesh (R20, R21, R34, R352, R384) -/

/-- Neighbours of a site with the port towards each: N 0, E 1, S 2, W 3 (R20, R384). -/
def meshNeighbours (site : Nat) : List (Nat × Nat) :=
  (if 7 ≤ site then [(0, site - 7)] else []) ++ (if site % 7 < 6 then [(1, site + 1)] else []) ++
  (if site < 42 then [(2, site + 7)] else []) ++ (if 0 < site % 7 then [(3, site - 1)] else [])

/-- Key of a link in the list of links out of service (R351). -/
def linkKey (site port : Nat) : Nat := site * 32 + port

/-- Whether a site's switch forwards traffic: the Lodge's does; a disabled or fenced site's does not (R20, R21, R34). -/
def State.switchOn (s : State) (site : Nat) : Bool :=
  site < 49 && (site == 24 || (!s.ident.absent.contains site && !(s.ret site).fenced))

/-- Whether a mesh link carries traffic in the link map (R351). -/
def State.linkUp (s : State) (site port : Nat) : Bool := !s.port.out.contains (linkKey site port)

/-- A site's end of a link. -/
def State.link (s : State) (site port : Nat) : Link :=
  (s.links.find? fun (l : Link) => l.site = site ∧ l.port = port).getD { site, port }

def State.modLink (s : State) (site port : Nat) (f : Link → Link) : State :=
  if s.links.any fun (l : Link) => l.site = site ∧ l.port = port then
    { s with links := s.links.map fun (l : Link) => if l.site = site ∧ l.port = port then f l else l }
  else { s with links := s.links ++ [f { site, port }] }

def State.switch (s : State) (site : Nat) : Switch := (s.switches.find? fun (x : Switch) => x.site = site).getD { site }

def State.modSwitch (s : State) (site : Nat) (f : Switch → Switch) : State :=
  if s.switches.any fun (x : Switch) => x.site = site then
    { s with switches := s.switches.map fun (x : Switch) => if x.site = site then f x else x }
  else { s with switches := s.switches ++ [f { site }] }

/-- A port that carries traffic: in the link map, and by the state of its own ends (R384, R389, R390). -/
def State.portUp (s : State) (site port : Nat) : Bool :=
  let l := s.link site port
  s.linkUp site port && !l.retraining && !l.retired && !l.dead

/-- Sites reached from `front` in at most `fuel` hops over links in service, with their distance. -/
def meshAux (s : State) (fuel d : Nat) (front seen : List Nat) : List (Nat × Nat) :=
  match fuel with
  | 0 => []
  | fuel + 1 =>
    let next := (front.flatMap fun x =>
      (meshNeighbours x).filterMap fun (p, y) =>
        if s.portUp x p && s.switchOn y && !seen.contains y then some y else none).eraseDups
    if next.isEmpty then [] else next.map (fun y => (y, d)) ++ meshAux s fuel (d + 1) next (seen ++ next)

/-- Distance between two sites over links in service, where there is a path (R352, R384). -/
def State.meshDist (s : State) (a b : Nat) : Option Nat :=
  if a = b then some 0
  else if s.switchOn a && s.switchOn b then
    ((meshAux s 49 1 [a] [a]).find? fun x => x.1 = b).map (·.2)
  else none

/-- Count a raw event of a link (R399, R432). -/
def State.raw (s : State) (site port code : Nat) : State :=
  (s.modLink site port fun l => { l with raw := tput 0 l.raw code ((tget 0 l.raw code + 1) % 2 ^ 48) }).countRaw site code port

/-! ### Flits of accesses within the wafer (R399, R400; log 60) -/

/-- The links, as site and port, that a flit takes over links in service from a site to the one with which a list of distances begins. -/
def State.hops (fuel : Nat) (s : State) (dist : List (Nat × Nat)) (x : Nat) : List (Nat × Nat × Nat) :=
  match fuel with
  | 0 => []
  | fuel + 1 =>
    let d (y : Nat) : Nat := ((dist.find? fun e => e.1 = y).map (·.2)).getD 64
    match (meshNeighbours x).find? fun n => s.portUp x n.1 && s.switchOn n.2 && decide (d n.2 < d x) with
    | none => []
    | some n => (x, n.1, n.2) :: State.hops fuel s dist n.2

/-- `n` flits of a function pass from one site to another: each link on the way counts them sent and accepted. -/
def State.meshTrip (s : State) (vf n a b : Nat) : State :=
  (s.hops 49 ((b, 0) :: meshAux s 49 1 [b] [b]) a).foldl (fun s h => (List.range n).foldl (fun s _ =>
    let s := (s.raw h.1 h.2.1 0x300).countRet h.1 0x200 vf 1
    (s.raw h.2.2 ((h.2.1 + 2) % 4) 0x301).countRet h.2.2 0x201 vf 1) s) s

/-- An access of `n` bytes from reticle `r` to a home on this wafer: its requests and their answers pass the mesh, one flit for each
64 bytes (R208, R382). -/
def State.homeTrip (s : State) (r cu home n : Nat) : State :=
  if r = home then s
  else
    let vf := ((s.tasks.find? fun t => t.ret == r && t.cu == cu && t.phase == .running).map (·.vf)).getD 0
    (s.meshTrip vf (max 1 ((n + 63) / 64)) r home).meshTrip vf (max 1 ((n + 63) / 64)) home r

/-! ### The fibre shuffle (R392, R409) -/

/-- The 6-bit field of a wavelength of a lane group in the part's own table: fibre in bits 5..3, wavelength in bits 2..0. -/
def rawFibre (site g k : Nat) : Nat :=
  let b (i : Nat) : Nat := (Config.siteTable (site * 48 + 3 * g + i)).toNat
  (b 0 + 256 * b 1 + 65536 * b 2) / 2 ^ (6 * k) % 64

/-- Whether a site's table is a shuffle of R392: no wavelength serves twice, and the four of a lane group leave on four fibres; each fibre
then carries one wavelength of each of eight groups. -/
def shuffleOk (site : Nat) : Bool :=
  let fs := (List.range 16).flatMap fun g => (List.range 4).map fun k => rawFibre site g k
  fs.eraseDups.length == 64 && (List.range 16).all fun g => (((List.range 4).map fun k => rawFibre site g k / 8).eraseDups.length == 4)

/-- The field of a wavelength: the pod's fibre shuffle fixes it, a free value among those that R392 allows (log 1). -/
def siteFibre (site g k : Nat) : Nat := if shuffleOk site then rawFibre site g k else (k + 4 * (g / 8)) * 8 + g % 8

/-- Byte `i` of the site records (R409). -/
def siteByte (i : Nat) : Byte :=
  let site := i / 48
  let g := i % 48 / 3
  BitVec.ofNat 8 (((List.range 4).map fun k => siteFibre site g k * 2 ^ (6 * k)).sum / 2 ^ (8 * (i % 3)) % 256)

/-- The wavelengths of an optical port whose lasers shine, lowest first (R392, R394). -/
def State.lanes (s : State) (site port : Nat) : List Nat :=
  (List.range 4).filter fun k => !s.port.lasers.contains (site * 8 + siteFibre site (port - 4) k / 8)

/-- Optical lane group of a pod slot as the identity block numbers them: the other slots ascending (R430). -/
def State.laneGroup (s : State) (slot : Nat) : Nat := if slot < s.port.slot then slot else slot - 1

/-- Optical link port of a lane group: 4 to 18, and 19 for scale-out (R430). -/
def optPort (g : Nat) : Nat := 4 + g

/-- Whether a reticle's optical lanes are in service, and the reticle itself (R34, R352, R390); lanes that retrain stay in service and
keep what is to leave in their queue. -/
def State.optUp (s : State) (ret port : Nat) : Bool :=
  let l := s.link ret port
  s.live ret && s.linkUp ret port && !l.retired && !l.dead

/-- The node-table entry of a node; while the wafer has no assigned number no entry is valid (R25, R351). -/
def State.node? (s : State) (node : Nat) : Option NodeEntry :=
  if s.port.node = 0xFFFF then none else s.port.nodes.find? fun e => e.node = node

/-- The optical port that leads to the node of an entry (R350, R352). -/
def State.exitPort (s : State) (e : NodeEntry) : Nat := if e.kind = 1 then optPort (s.laneGroup e.slot) else optPort 15

/-- Whether the route selector finds a path from reticle `r` to reticle `t` of a node (R352). -/
def State.reach (s : State) (r node t : Nat) : Bool :=
  if node = 0xFFFF then (s.meshDist r t).isSome
  else match s.node? node with
    | none => false
    | some e => (List.range 49).any fun x => s.optUp x (s.exitPort e) && (s.meshDist r x).isSome

/-- Mesh distance of two sites: rows and columns apart, every site an ordinary hop (R30). -/
def siteDistance (a b : Nat) : Nat := (a / 7 - b / 7) + (b / 7 - a / 7) + ((a % 7 - b % 7) + (b % 7 - a % 7))

/-! ### Requests to port engines (R208, R354) -/

/-- The traffic class of a function's remote requests (R357). -/
def State.memTC (s : State) (vf : Nat) : Nat := ((s.vf? vf).map fun v => v.policy.memtc).getD 0

/-- Give a flit of this wafer's own to the port engine of a site for injection (R382, R384). -/
def State.outgo (s : State) (site : Nat) (f : Flit) : State :=
  { s with port := { s.port with outgoing := s.port.outgoing ++ [(site, { f with srcNode := s.port.node, srcRet := site })] } }

/-- A global address (R24). -/
def globAddr (node ret off : Nat) : Dword := BitVec.ofNat 64 (node * 2 ^ 48 + ret * 2 ^ 42 + off)

/-- Cycles of a timeout given in units of 100 microseconds (R31, R354). -/
def toCycles (units : Nat) : Nat := units * 160000

/-- The timeout of a traffic class for a function (R354). -/
def State.classTimeout (s : State) (vf tc : Nat) : Nat :=
  match s.vf? vf with
  | some v => toCycles (v.policy.classTo.getD tc 20)
  | none => toCycles 20

/-- The task that a client belongs to. -/
def Client.task? (cl : Client) : Option Nat :=
  match cl with
  | .lane t .. | .packet t .. | .part t .. | .chunk t .. | .source t .. | .result t .. | .node t => some t
  | _ => Option.none

/-- The coach that a client belongs to. -/
def Client.coach? (cl : Client) : Option Nat :=
  match cl with
  | .lane _ c .. | .packet _ c .. | .part _ c .. | .chunk _ c .. | .source _ c .. | .result _ c .. => some c
  | _ => Option.none

/-- Hand a request for a place to the port engine of reticle `r` (R208), with the class timeout of now (R416). -/
def State.request (s : State) (cl : Client) (r vf tc : Nat) (va : Dword) (l : Loc) (kind : ReqKind) : State :=
  match l with
  | .glob node ret off _ _ =>
    let req : RemoteReq := { srcNode := s.port.node, srcRet := r, tid := 0, vf, tc,
                             dest := globAddr node ret off, kind }
    { s with port := { s.port with reqs := s.port.reqs ++
      [{ client := cl, va, req, since := s.clock, owner := cl.task?, timeout := s.classTimeout vf tc }] } }
  | _ => s

/-- The requests of a client, in order. -/
def State.reqsOf (s : State) (cl : Client) : List PortReq := s.port.reqs.filter fun q => q.client = cl

/-- The bytes that came back for a client, once every request of it has been answered by its home (R364). -/
def State.answerOf (s : State) (cl : Client) : Option (List Byte) :=
  let qs := s.reqsOf cl
  if qs.isEmpty then none
  else qs.foldl (fun (a : Option (List Byte)) q => match a, q.answer with
    | some bs, some (.data d) => some (bs ++ d)
    | _, _ => none) (some [])

/-- Whether a request has left and no answer has come: its TID stays taken (R391). -/
def PortReq.flying (q : PortReq) : Bool := q.sent && q.answer.isNone

/-- Take the requests of a client out of the port engine; of those whose answer is still to come only the TID stays (R391). -/
def State.dropReqs (s : State) (cl : Client) : State :=
  { s with port := { s.port with reqs := (s.port.reqs.filter fun q => q.client != cl || q.flying).map fun q =>
      if q.client = cl then { q with client := .none } else q } }

/-- Bytes cut at the 64-byte blocks of a place, each with its place: a packet carries at most one block (R364, R382). -/
def blocks (l : Loc) (n : Nat) : List (Loc × Nat) :=
  match l with
  | .glob _ _ off _ _ =>
    (List.range ((off + n + 63) / 64 - off / 64)).map fun i =>
      let lo := max off ((off / 64 + i) * 64)
      (l.plus (lo - off), min (off + n) ((off / 64 + i + 1) * 64) - lo)
  | _ => [(l, n)]

/-- Hand a write of bytes to the port engine, one request for each block; `kind` makes a block's request of its bytes. -/
def State.requestWrite (s : State) (cl : Client) (r vf tc : Nat) (va : Dword) (l : Loc) (bs : List Byte)
    (kind : List Byte → ReqKind) : State :=
  ((blocks l bs.length).foldl (fun (a : State × List Byte) b =>
    (a.1.request cl r vf tc va b.1 (kind (a.2.take b.2)), a.2.drop b.2)) (s, bs)).1

/-- The top-level partition that holds a reticle's frames (R28, R308). -/
def State.homePart (s : State) (ret : Nat) : Option Partition :=
  s.parts.find? fun p => p.parent.isNone && p.rets.any fun x => x.1 == ret

/-- The top-level partition of a partition (R28). -/
def State.topPart (s : State) (part : Nat) : Nat := ((s.part? part).bind (·.parent)).getD part

/-- Count a reticle event for the function whose partition holds a key slot (R429, R432). -/
def State.countKey (s : State) (ret code key n : Nat) : State :=
  match s.parts.find? fun p => p.key = key with
  | some p => s.countRet ret code p.vf n
  | none => s

/-! ### DRAM under keys (R202) -/

/-- The key number in a key slot (R420). A free slot stands for a number of its own, which no key has. -/
def State.keyIn (s : State) (slot : Nat) : Nat :=
  match s.root.slots.find? fun k => k.slot = slot with
  | some k => k.key
  | none => 2 ^ 64 + slot

/-- Frames of a reticle that a key covers: assignable DRAM and the spare pool (R27). -/
def framesOfRet : Nat := offSpareEnd / 65536

/-- Frames that a re-encryption has to pass (R420). -/
def rekeyFrames (r : Rekeying) : Nat := r.rets.length * framesOfRet

/-- The place of a device frame in the order of a re-encryption; none outside the partition (R420). -/
def rekeyIndex (r : Rekeying) (ret off : Nat) : Option Nat :=
  (r.rets.findIdx? fun x => x = ret).map fun k => k * framesOfRet + off / 65536

/-- The slot whose key a frame stands under now, for a frame named with either slot of a running re-encryption: frames that it has
passed are under the new one (R420). -/
def State.keyNow (s : State) (ret off key : Nat) : Nat :=
  match s.root.rekeys.find? fun (r : Rekeying) => r.old = key ∨ r.new = key with
  | none => key
  | some r => match rekeyIndex r ret off with
    | some i => if i < r.next && !r.deferred.contains i then r.new else r.old
    | none => if rekeyFrames r < r.next then r.new else r.old

/-- A DRAM byte read under a key slot. A segment written under another key yields free bytes (R202, R435, log 1). -/
def State.dramByte (s : State) (ret off key : Nat) : Byte :=
  let a := devAddr ret off
  let k := tget 0 s.segKey (a / 32)
  if k = 0 || k = s.keyIn (s.keyNow ret off key) then Memory.read s.dram a else Config.freeByte (s.freeIx + a % 32)

def State.dramBytes (s : State) (ret off key n : Nat) : List Byte :=
  (List.range n).map fun i => s.dramByte ret (off + i) key

/-- Write a whole 32-byte segment of DRAM under a key slot. -/
def State.dramSegment (s : State) (ret seg key : Nat) (bs : List Byte) : State :=
  let a := devAddr ret seg
  { s.countKey ret 0x104 key 1 with dram := Memory.writeN s.dram a bs, segKey := tput 0 s.segKey (a / 32) (s.keyIn (s.keyNow ret seg key)) }

/-- Replace bytes of a segment from byte `i`. -/
def overlay (old : List Byte) (i : Nat) (bs : List Byte) : List Byte :=
  old.take i ++ bs ++ old.drop (i + bs.length)

/-- Write bytes of one segment of DRAM under a key slot. -/
def State.dramWrite (s : State) (ret off key : Nat) (bs : List Byte) : State :=
  let seg := off / 32 * 32
  s.dramSegment ret seg key (overlay (s.dramBytes ret seg key 32) (off - seg) bs)

/-! ### LLC sectors (R195 to R201) -/

/-- Pitch in bytes of a pitch code (R195). -/
def pitchOf (pc : Nat) : Nat := 32 * 2 ^ pc

/-- Row of a reticle offset in its sector of a pitch, and the sector's base (R195). -/
def secRow (pc a : Nat) : Nat := a / pitchOf pc % 32

def secBase (pc a : Nat) : Nat := a / 32 * 32 - secRow pc a * pitchOf pc

/-- Set number of a sector (R196). -/
def secSet (base pc : Nat) : Nat :=
  let x := Nat.xor (base / 2 ^ 10 % 2 ^ 14) (base / 2 ^ 24 % 2 ^ 14)
  let x := Nat.xor x (base / 2 ^ 38 % 2 ^ 4)
  let x := Nat.xor x (base / 2 ^ 5 % 2 ^ 5)
  Nat.xor x (pc * 0x0411) % 16384

/-- Offset of row `i` of a sector. -/
def Sector.rowOff (x : Sector) (i : Nat) : Nat := x.base + i * pitchOf x.pc

/-- The row of a sector that a segment is, if it is one of its rows. -/
def Sector.row? (x : Sector) (seg : Nat) : Option Nat := (List.range 32).find? fun i => x.rowOff i = seg

def Sector.row (x : Sector) (i : Nat) : List Byte := (List.range 32).map fun j => tget 0 x.data (i * 32 + j)

def Sector.setRow (x : Sector) (i j : Nat) (bs : List Byte) : Sector :=
  { x with data := (bs.zipIdx).foldl (fun d (b, n) => tput 0 d (i * 32 + j + n) b) x.data }

def bit32 (i : Nat) : BitVec 32 := BitVec.ofNat 32 (2 ^ i)

def State.modSector (s : State) (ret base pc : Nat) (f : Sector → Sector) : State :=
  { s with sectors := s.sectors.map fun x => if x.ret = ret ∧ x.base = base ∧ x.pc = pc then f x else x }

def State.sector? (s : State) (ret base pc : Nat) : Option Sector :=
  s.sectors.find? fun x => x.ret = ret ∧ x.base = base ∧ x.pc = pc

/-- The sector in which a segment is resident: at most one (R198). -/
def State.resident? (s : State) (ret seg : Nat) : Option (Sector × Nat) :=
  s.sectors.findSome? fun x =>
    if x.ret = ret then (x.row? seg).bind fun i => if x.valid.getLsbD i then some (x, i) else none else none

/-- Merge bytes into a row of a sector and mark it dirty (R200, R201). -/
def State.mergeRow (s : State) (x : Sector) (i j : Nat) (bs : List Byte) : State :=
  s.modSector x.ret x.base x.pc fun y => { y.setRow i j bs with dirty := y.dirty ||| bit32 i, valid := y.valid ||| bit32 i }

/-- Whether an L1 line belongs to a sector. -/
def Sector.holds (x : Sector) (l : L1Line) : Bool :=
  l.ret == x.ret && (if l.column then l.base == x.base && l.pc == x.pc else (x.row? l.base).isSome)

/-- The bytes of a line that have been written, as runs: place in the line and bytes (R192, R223). -/
def L1Line.runs (l : L1Line) : List (Nat × List Byte) :=
  (List.range 32).foldr (fun i (a : List (Nat × List Byte)) =>
    if l.dirty.getLsbD i then
      match a with
      | (k, bs) :: rest => if k = i + 1 then (i, l.data.getD i 0 :: bs) :: rest else (i, [l.data.getD i 0]) :: a
      | [] => [(i, [l.data.getD i 0])]
    else a) []

/-- Written bytes of an L1 row line reach its home while a sector is invalidated: where the segment is resident by row (R200), else DRAM
(log 13). A sector of another pitch that holds it by column turns, and its sharers' column lines, which are never dirty, drop. -/
def State.putRun (s : State) (ret seg key j : Nat) (bs : List Byte) : State :=
  match s.resident? ret seg with
  | none => s.dramWrite ret (seg + j) key bs
  | some (y, i) =>
    let s := if y.column then
        { (s.countKey ret 0x103 y.owner 1).modSector ret y.base y.pc (fun z => { z with column := false, sharers := 0 }) with
          lines := s.lines.filter fun l => !(l.column && y.holds l && y.sharers.getLsbD l.cu) }
      else s
    s.mergeRow y i j bs

/-- R200's Invalidate: sharers write back dirty row lines, drop every line of the sector, and the mask clears. -/
def State.invalSector (s : State) (x : Sector) : State :=
  let mine (l : L1Line) := x.holds l && x.sharers.getLsbD l.cu
  let back := s.lines.filter fun l => mine l && !l.column
  let s := { s with lines := s.lines.filter fun l => !mine l }
  let s := back.foldl (fun s l => l.runs.foldl (fun s r => s.putRun x.ret l.base l.key r.1 r.2) s) s
  s.modSector x.ret x.base x.pc fun y => { y with sharers := 0 }

/-- Write a sector's dirty segments back to DRAM (R199). -/
def State.writeBackSector (s : State) (x : Sector) : State :=
  (List.range 32).foldl (fun s i =>
    if x.dirty.getLsbD i then s.dramSegment x.ret (x.rowOff i) x.owner (x.row i) else s) s

/-- Evict a sector: invalidate, write back, free (R199, R200). -/
def State.evictSector (s : State) (x : Sector) : State :=
  let s := s.invalSector x
  match s.sector? x.ret x.base x.pc with
  | none => s
  | some y =>
    let s := s.writeBackSector y
    { s with sectors := s.sectors.filter fun z => !(z.ret == x.ret && z.base == x.base && z.pc == x.pc) }

/-- Sectors of another pitch that hold a segment of the sector (ret, base, pc) (R198). -/
def State.conflicts (s : State) (ret base pc : Nat) : List Sector :=
  let new : Sector := { ret, base, pc }
  s.sectors.filter fun x => x.ret == ret && !(x.base == base && x.pc == pc) &&
    (List.range 32).any fun i => x.valid.getLsbD i && (new.row? (x.rowOff i)).isSome

/-- Those of a list that are marked first to replace; all of it where none is (R210). -/
def firstOf {α : Type} (mark : α → Bool) (xs : List α) : List α := if xs.any mark then xs.filter mark else xs

/-- Make room in a set: evict an unpinned way when all 16 are taken, one marked first to replace before others; the choice
among them is free (R199, R210, log 13). `none` when every way is pinned. -/
def State.makeRoom (s : State) (ret set : Nat) : Option State :=
  let ways := s.sectors.filter fun x => x.ret == ret && secSet x.base x.pc == set
  if ways.length < 16 then some s
  else
    let free := firstOf (fun (x : Sector) => x.first) (ways.filter fun x => !x.pinned)
    match free[Config.freeNat s.freeIx % free.length]? with
    | some v => some ((s.evictSector v).bumpFree 1)
    | none => none

/-- Allocate the sector (ret, base, pc) if it is not there, after evicting sectors of other pitches that hold its segments. With
`whole` the access is for all 32 segments, and a sector that is there takes back those that others hold. `none` when a
pinned sector stands in the way (R198). `first` marks a new sector first to replace (R210). -/
def State.allocSector (s : State) (ret base pc owner : Nat) (column whole first : Bool) : Option State :=
  let there := (s.sector? ret base pc).isSome
  if there && !whole then some s
  else
    let cs := s.conflicts ret base pc
    if cs.any (·.pinned) then none
    else
      let s := cs.foldl (fun s x => s.evictSector x) s
      if there then some s
      else (s.makeRoom ret (secSet base pc)).map fun s =>
        { s with sectors := s.sectors ++ [{ ret, base, pc, owner, column, first }] }

/-- Fill an invalid row of a sector from DRAM (R197), an LLC miss (R432). -/
def State.fillRow (s : State) (ret base pc i : Nat) : State :=
  match s.sector? ret base pc with
  | none => s
  | some x =>
    if x.valid.getLsbD i then s
    else
      ((s.countKey ret 0x104 x.owner 1).countKey ret 0x102 x.owner 1).modSector ret base pc fun y =>
        { y.setRow i 0 (s.dramBytes ret (x.rowOff i) x.owner 32) with valid := y.valid ||| bit32 i }

/-- Turn a sector to an axis, with R200's Invalidate where the axis changes. -/
def State.turnSector (s : State) (x : Sector) (column : Bool) : State :=
  if x.column = column then s
  else ((s.invalSector x).countKey x.ret 0x103 x.owner 1).modSector x.ret x.base x.pc fun y => { y with column }

/-- Make a segment resident for a row access of a cache policy: where it is, or in its linear sector (R198, R210). The
result is the state and the place, or none when it is served from DRAM. -/
def State.touchRow (s : State) (ret seg key pol : Nat) : State × Option (Nat × Nat × Nat) :=
  match s.resident? ret seg with
  | some (x, i) => ((s.turnSector x false).countKey ret 0x101 x.owner 1, some (x.base, x.pc, i))
  | none =>
    let miss := s.countKey ret 0x102 key 1
    if pol ≠ 3 then
      let base := secBase 0 seg
      match s.allocSector ret base 0 key false false (pol == 1) with
      | none => (miss, none)
      | some s =>
        let s := match s.sector? ret base 0 with
          | some x => s.turnSector x false
          | none => s
        (s.fillRow ret base 0 (secRow 0 seg), some (base, 0, secRow 0 seg))
    else (miss, none)

/-- Read a segment at its home by row (R200). `cu` is the CU that takes an L1 copy. -/
def State.rowRead (s : State) (ret seg key pol : Nat) (cu : Option Nat) : State × List Byte :=
  match s.touchRow ret seg key pol with
  | (s, none) => (s, s.dramBytes ret seg key 32)
  | (s, some (base, pc, i)) =>
    let s := match cu with
      | some c => s.modSector ret base pc fun y => { y with sharers := y.sharers ||| bit32 c }
      | none => s
    match s.sector? ret base pc with
    | some x => (s, x.row i)
    | none => (s, s.dramBytes ret seg key 32)

/-- Write bytes of one segment at its home by row (R200, R210). -/
def State.rowWrite (s : State) (ret off key : Nat) (bs : List Byte) (pol : Nat) : State :=
  let seg := off / 32 * 32
  match s.touchRow ret seg key pol with
  | (s, none) => s.dramWrite ret off key bs
  | (s, some (base, pc, i)) =>
    match s.sector? ret base pc with
    | some x => s.mergeRow x i (off - seg) bs
    | none => s.dramWrite ret off key bs

/-- The byte that a row access of the home would see, without changing anything: the LLC, else DRAM (R228). -/
def State.homeByte (s : State) (ret off key : Nat) : Byte :=
  let seg := off / 32 * 32
  match s.resident? ret seg with
  | some (x, i) => tget 0 x.data (i * 32 + off % 32)
  | none => s.dramByte ret off key

def State.homeBytes (s : State) (ret off key n : Nat) : List Byte :=
  (List.range n).map fun i => s.homeByte ret (off + i) key

/-- Write bytes at their home, segment by segment, by row (R200). -/
def State.homeWriteAux (fuel : Nat) (s : State) (ret off key : Nat) (bs : List Byte) (pol : Nat) : State :=
  match fuel with
  | 0 => s
  | fuel + 1 =>
    if bs.isEmpty then s
    else
      let n := 32 - off % 32
      State.homeWriteAux fuel (s.rowWrite ret off key (bs.take n) pol) ret (off + n) key (bs.drop n) pol

def State.homeWrite (s : State) (ret off key : Nat) (bs : List Byte) (pol : Nat := 0) : State :=
  State.homeWriteAux (bs.length + 1) s ret off key bs pol

/-! ### L1 (R192 to R194, R220) -/

def L1Line.isRow (l : L1Line) (ret cu seg : Nat) : Bool := l.ret == ret && l.cu == cu && !l.column && l.base == seg

def State.rowLine? (s : State) (ret cu seg : Nat) : Option L1Line := s.lines.find? fun l => l.isRow ret cu seg

/-- Write the written bytes of an L1 line back to its home LLC; the line stays and becomes clean (R220, R223). -/
def State.cleanLine (s : State) (l : L1Line) : State :=
  if l.dirty ≠ 0 then
    let s := l.runs.foldl (fun s r => s.rowWrite l.ret (l.base + r.1) l.key r.2 0) s
    { s with lines := s.lines.map fun x => if x = l then { x with dirty := 0 } else x }
  else s

/-- Drop a row line, writing it back first when it is dirty. -/
def State.flushLine (s : State) (ret cu seg : Nat) : State :=
  match s.rowLine? ret cu seg with
  | none => s
  | some l =>
    let s := s.cleanLine l
    { s with lines := s.lines.filter fun x => !x.isRow ret cu seg }

/-- Write back a row line when it is dirty (R230). -/
def State.cleanRow (s : State) (ret cu seg : Nat) : State :=
  match s.rowLine? ret cu seg with
  | none => s
  | some l => s.cleanLine l

/-- Release action (R220): every dirty line of the CU goes back to the LLC and becomes clean. -/
def State.releaseL1 (s : State) (ret cu : Nat) : State :=
  (s.lines.filter fun l => l.ret == ret && l.cu == cu && l.dirty != 0).foldl (fun s l => s.cleanLine l) s

/-- Acquire action (R220): write back every dirty line, then invalidate every line of the CU. -/
def State.acquireL1 (s : State) (ret cu : Nat) : State :=
  let s := s.releaseL1 ret cu
  { s with lines := s.lines.filter fun l => !(l.ret == ret && l.cu == cu) }

/-- L1 bytes of a CU of a reticle: what its partition's split leaves (R188). -/
def State.l1Bytes (s : State) (ret : Nat) : Nat :=
  match s.parts.find? fun p => p.parent.isNone && p.rets.any fun x => x.1 == ret with
  | some p => 1048576 - p.sramSplit * 131072
  | none => 1048576

/-- Superblock of a line (R192): 128 aligned bytes of row lines, or four adjacent column lines of a sector. -/
structure Block where
  column : Bool
  base : Nat
  pc : Nat
  quad : Nat
deriving DecidableEq, Repr

def lineBlock (l : L1Line) : Block :=
  if l.column then { column := true, base := l.base, pc := l.pc, quad := l.j / 4 }
  else { column := false, base := l.base / 128, pc := 0, quad := 0 }

/-- The L1 set of a superblock; which one a superblock falls in is log 13. -/
def Block.set (b : Block) (sets : Nat) : Nat := (if b.column then b.base / 32 + b.quad else b.base) % sets

/-- Put a line into a CU's L1; a full set evicts a superblock, dirty lines first written back (R192, R210). -/
def State.addLine (s : State) (l : L1Line) : State :=
  let sets := s.l1Bytes l.ret / 1024
  let inSet := s.lines.filter fun x => x.ret == l.ret && x.cu == l.cu && (lineBlock x).set sets == (lineBlock l).set sets
  let blocks := (inSet.map lineBlock).eraseDups
  let s :=
    if blocks.contains (lineBlock l) || blocks.length < 8 then s
    else
      let free := firstOf (fun b => inSet.all fun x => lineBlock x != b || x.first) blocks
      match free[Config.freeNat s.freeIx % free.length]? with
      | none => s
      | some v =>
        let s := (inSet.filter fun x => lineBlock x == v && x.dirty != 0).foldl (fun s x => s.cleanLine x) s
        { s with lines := s.lines.filter (fun x => !(x.ret == l.ret && x.cu == l.cu && lineBlock x == v)), freeIx := s.freeIx + 1 }
  { s with lines := s.lines.filter (fun x => !(x.ret == l.ret && x.cu == l.cu && x.column == l.column && x.base == l.base
      && x.pc == l.pc && x.j == l.j)) ++ [l] }

/-! ### Column access (R197, R200, R222, R252) -/

/-- Column `j` of a sector. -/
def Sector.colBytes (x : Sector) (j : Nat) : List Byte := (List.range 32).map fun i => tget 0 x.data (i * 32 + j)

/-- Prepare a column access: the sector of the pitch with all rows valid and the axis turned, or none when a pinned
sector of another pitch keeps it from being allocated (R198). Rows that it finds valid are row hits, those that it fills are misses
(R432, log 60). -/
def State.touchColumn (s : State) (ret base pc key : Nat) : Option State :=
  match s.allocSector ret base pc key true true false with
  | none => none
  | some s =>
    let s := match s.sector? ret base pc with
      | some x => (s.turnSector x true).countKey ret 0x101 x.owner ((List.range 32).countP fun i => x.valid.getLsbD i)
      | none => s
    some ((List.range 32).foldl (fun s i => s.fillRow ret base pc i) s)

/-- Count the segments of a column access that no sector is allocated for: those that are resident elsewhere, and the others (R432). -/
def State.countScattered (s : State) (ret base pc key : Nat) : State :=
  let x : Sector := { ret, base, pc }
  let there := (List.range 32).countP fun i => (s.resident? ret (x.rowOff i)).isSome
  (s.countKey ret 0x101 key there).countKey ret 0x102 key (32 - there)

/-- Read byte columns j to j + w - 1 of a sector: one list of 32 bytes for each (R197). -/
def State.columnRead (s : State) (ret base pc key j w : Nat) (cu : Option Nat) : State × List (List Byte) :=
  match s.touchColumn ret base pc key with
  | none =>
    let x : Sector := { ret, base, pc }
    (s.countScattered ret base pc key, (List.range w).map fun k => (List.range 32).map fun i => s.homeByte ret (x.rowOff i + j + k) key)
  | some s =>
    let s := match cu with
      | some c => s.modSector ret base pc fun y => { y with sharers := y.sharers ||| bit32 c }
      | none => s
    match s.sector? ret base pc with
    | none => (s, [])
    | some x => (s, (List.range w).map fun k => x.colBytes (j + k))

/-- Write one byte of a sector by column (R200). Where the sector cannot be allocated the byte goes where it
resides. -/
def State.columnWrite (s : State) (ret base pc key off : Nat) (b : Byte) : State :=
  match s.touchColumn ret base pc key with
  | none => s.rowWrite ret off key [b] 3
  | some s =>
    match s.sector? ret base pc with
    | none => s
    | some x => match x.row? (off / 32 * 32) with
      | some i => s.mergeRow x i (off % 32) [b]
      | none => s

/-! ### Accesses of a CU -/

/-- The place of an agent: its reticle and CU. -/
structure At where
  ret : Nat
  cu : Nat

/-- Cycles of 10 ms at 1.6 GHz (R22, R310, R340). -/
def periodCycles : Nat := 16000000

/-- The home LLC counts a row-line fill of a frame for a reticle, within the period of 10 ms that runs (R340). -/
def State.noteFill (s : State) (home off user : Nat) : State :=
  let k := devAddr home off / 65536 * 64 + user
  let first := (s.ret home).fillAt ≤ s.clock && !s.root.fills.any fun x => x.1 / 64 * 65536 / 2 ^ 42 == home
  let s := if first then s.modRet home fun r => { r with fillAt := (s.clock / periodCycles + 1) * periodCycles } else s
  { s with root := { s.root with fills := tput 0 s.root.fills k (tget 0 s.root.fills k + 1) } }

/-- Read `n` bytes of one segment of this wafer for a CU (R189, R193, R210, R215, R230). `policy` as R51; `relaxed`
for order relaxed-atomic. No line is added where no segment may be cached anew (R198). DESIGN CHOICE (log 13): of what a fill may fetch,
the missing line or all invalid lines of its superblock (R192), it fetches the one line. -/
def State.cuRead (s : State) (p : At) (ret off key n : Nat) (policy : Nat) (relaxed : Bool) : State × List Byte :=
  let seg := off / 32 * 32
  let cut (bs : List Byte) := (bs.drop (off - seg)).take n
  if ret ≠ p.ret then
    let (s, bs) := ((s.homeTrip p.ret p.cu ret n).noteFill ret off p.ret).rowRead ret seg key policy none
    (s, cut bs)
  else if relaxed then
    let s := s.cleanRow ret p.cu seg
    let (s, bs) := s.rowRead ret seg key policy none
    (s, cut bs)
  else match s.rowLine? ret p.cu seg with
    | some l =>
      let s := if policy = 2 then { s with lines := s.lines.filter fun x => !x.isRow ret p.cu seg } else s
      (s, cut l.data)
    | none =>
      if policy = 3 then
        let (s, bs) := s.rowRead ret seg key 3 none
        (s, cut bs)
      else
        let (s, bs) := (s.noteFill ret off p.ret).rowRead ret seg key policy (some p.cu)
        let s := if policy = 2 || (s.resident? ret seg).isNone then s
                 else s.addLine { ret, cu := p.cu, column := false, base := seg, key, first := policy == 1, data := bs }
        (s, cut bs)

/-- Drop a segment from the home LLC unless its sector is pinned, dirty bytes lost (R215). -/
def State.dropSegment (s : State) (ret seg : Nat) : State :=
  match s.resident? ret seg with
  | none => s
  | some (x, i) =>
    if x.pinned then s
    else s.modSector ret x.base x.pc fun y =>
      { y.setRow i 0 (List.replicate 32 0) with valid := y.valid &&& ~~~bit32 i, dirty := y.dirty &&& ~~~bit32 i }

/-- The mask of `n` bytes of a line from byte `i`. -/
def byteMask (i n : Nat) : BitVec 32 := BitVec.ofNat 32 ((2 ^ n - 1) * 2 ^ i)

/-- A line with bytes merged where it is the named row line. -/
def L1Line.mergeBytes (x : L1Line) (ret cu seg i : Nat) (bs old : List Byte) (dirty : Bool) : L1Line :=
  if x.isRow ret cu seg then
    { x with data := overlay old i bs, dirty := if dirty then x.dirty ||| byteMask i bs.length else x.dirty }
  else x

/-- Store bytes of one segment of this wafer for a CU (R194, R210, R230). -/
def State.cuWrite (s : State) (p : At) (ret off key : Nat) (bs : List Byte) (policy : Nat) (relaxed : Bool) : State :=
  let seg := off / 32 * 32
  if ret ≠ p.ret then (s.homeTrip p.ret p.cu ret bs.length).rowWrite ret off key bs policy
  else if relaxed then (s.flushLine ret p.cu seg).rowWrite ret off key bs policy
  else match s.rowLine? ret p.cu seg with
    | none => s.rowWrite ret off key bs policy
    | some l =>
      let s := { s with lines := s.lines.map fun x => x.mergeBytes ret p.cu seg (off - seg) bs l.data (policy != 3) }
      if policy = 3 then s.rowWrite ret off key bs 3 else s

/-- Scratchpad bytes of a task (R190). -/
def Task.scrBytes (t : Task) (a n : Nat) : List Byte := (List.range n).map fun i => tget 0 t.scratch (a + i)

def Task.scrWrite (t : Task) (a : Nat) (bs : List Byte) : Task :=
  { t with scratch := (bs.zipIdx).foldl (fun m (b, i) => tput 0 m (a + i) b) t.scratch }

/-- Bytes as an engine or the dispatcher reads them at their home, this wafer or host (R228, R237); what the dispatcher and the root
read on other wafers is free (log 69). -/
def State.locBytes (s : State) (l : Loc) (n : Nat) : List Byte :=
  match l with
  | .glob node ret off key _ =>
    if node = 0xFFFF then s.homeBytes ret off key n else (List.range n).map fun i => Config.freeByte (s.freeIx + i)
  | .host a _ => Memory.readN s.host a n
  | .scratch _ => List.replicate n 0

/-- Bytes as an engine writes them at their home, this wafer or host. -/
def State.locWrite (s : State) (l : Loc) (bs : List Byte) (pol : Nat := 0) : State :=
  match l with
  | .glob node ret off key _ => if node = 0xFFFF then s.homeWrite ret off key bs pol else s
  | .host a _ => { s with host := Memory.writeN s.host a bs }
  | .scratch _ => s

/-- A write by the dispatcher of reticle `r`, or by the root, for a function: at its home here, or handed to the port engine for a client
(R337). -/
def State.putLoc (s : State) (r vf : Nat) (l : Loc) (bs : List Byte) (cl : Client := .none) : State :=
  match l with
  | .glob node .. => if node = 0xFFFF then s.locWrite l bs else s.requestWrite cl r vf (s.memTC vf) 0 l bs (.write 0)
  | _ => s.locWrite l bs

/-- Write back, for an engine's read, the issuing CU's dirty copies of a range (R237). -/
def State.cleanRange (s : State) (p : At) (l : Loc) (n : Nat) : State :=
  match l with
  | .glob node ret off _ _ =>
    if node = 0xFFFF && ret == p.ret then
      (List.range (n / 32 + 2)).foldl (fun s i => s.cleanRow ret p.cu (off / 32 * 32 + 32 * i)) s
    else s
  | _ => s

/-- Whether a line holds a byte of a range of its reticle: a row line its 32 bytes, a column line one byte of each row (R193). -/
def L1Line.has (l : L1Line) (off n : Nat) : Bool :=
  if l.column then (List.range 32).any fun i => off ≤ l.base + i * pitchOf l.pc + l.j && l.base + i * pitchOf l.pc + l.j < off + n
  else l.base < off + n && off < l.base + 32

/-- Drop, for an engine's write, the issuing CU's copies of a range, row and column lines (R237). -/
def State.dropRange (s : State) (p : At) (l : Loc) (n : Nat) : State :=
  match l with
  | .glob node ret off _ _ =>
    if node = 0xFFFF && ret == p.ret then
      { s with lines := s.lines.filter fun x => !(x.ret == ret && x.cu == p.cu && x.has off n) }
    else s
  | _ => s

/-- Read bytes at their home, segment by segment, by row (R200, R210). -/
def State.homeReadAux (fuel : Nat) (s : State) (ret off key n pol : Nat) : State × List Byte :=
  match fuel with
  | 0 => (s, [])
  | fuel + 1 =>
    if n = 0 then (s, [])
    else
      let k := min n (32 - off % 32)
      let r := s.rowRead ret (off / 32 * 32) key pol none
      let q := State.homeReadAux fuel r.1 ret (off + k) key (n - k) pol
      (q.1, (r.2.drop (off % 32)).take k ++ q.2)

/-- An engine's read on behalf of a CU (R237, R252). -/
def State.engRead (s : State) (p : At) (l : Loc) (n : Nat) : State × List Byte :=
  let s := s.cleanRange p l n
  match l with
  | .glob node ret off key _ =>
    if node = 0xFFFF then (s.homeTrip p.ret p.cu ret n).homeReadAux (n + 1) ret off key n 0 else (s, List.replicate n 0)
  | _ => (s, s.locBytes l n)

/-- An engine's write on behalf of a CU (R237). -/
def State.engWrite (s : State) (p : At) (l : Loc) (bs : List Byte) : State :=
  let s := s.cleanRange p l bs.length
  let s := match l with
    | .glob node ret _ _ _ => if node = 0xFFFF then s.homeTrip p.ret p.cu ret bs.length else s
    | _ => s
  (s.locWrite l bs).dropRange p l bs.length

/-- The places of the bytes of a span: one where an extent covers it whole, else byte by byte (R206). -/
def State.spanLocs (s : State) (t : Task) (k : Acc) (va n : Nat) : List (Loc × Nat) :=
  match t.extent? k va n with
  | some e => [(s.locate e va, n)]
  | none => (List.range n).filterMap fun i => (t.extent? k (va + i) 1).map fun e => (s.locate e (va + i), 1)

/-- Read, as an engine, bytes that a task names by virtual address; bytes on other wafers read as 0 here. -/
def State.spanGet (s : State) (t : Task) (va n : Nat) : State × List Byte :=
  (s.spanLocs t .read va n).foldl (fun (acc : State × List Byte) x =>
    let q := acc.1.engRead { ret := t.ret, cu := t.cu } x.1 x.2
    (q.1, acc.2 ++ q.2)) (s, [])

/-- Write, as an engine, bytes at virtual addresses of a task. -/
def State.spanPut (s : State) (t : Task) (va : Nat) (bs : List Byte) : State :=
  ((s.spanLocs t .write va bs.length).foldl (fun (acc : State × List Byte) x =>
    (acc.1.engWrite { ret := t.ret, cu := t.cu } x.1 (acc.2.take x.2), acc.2.drop x.2)) (s, bs)).1

/-! ### Remote checks (R26, R29, R208, R356) -/

/-- Whether the frames at (ret, off) belong to a partition of the issuing function, or of a function that names it as
a post peer (R356). -/
def State.frameOk (s : State) (vf ret off : Nat) : Bool :=
  offOk off && s.parts.any fun p => p.parent.isNone && (p.rets.any fun x => x.1 == ret) &&
    (p.vf == vf || (match s.vf? p.vf, s.vf? vf with
      | some o, some v => o.policy.peers.contains v.tkd
      | _, _ => false))

/-- What the checks after translation say of a place (R2, R26, R29, R208). -/
inductive Route where
  | ok
  | denied
  | unreachable
deriving DecidableEq, Repr

/-- The checks after translation of a memory access (R208), or of a post (`isPost`), which may leave the pod
(R355, R363). -/
def State.routeOf (s : State) (isPost : Bool) (l : Loc) : Route :=
  match l with
  | .glob node ret off _ _ =>
    if ret = 24 || 49 ≤ ret then .denied
    else if node = 0xFFFF then
      if s.ident.absent.contains ret then .unreachable else if offOk off then .ok else .denied
    else if (!isPost) && (match s.node? node with | some e => e.kind == 2 | none => false) then .denied
    else .ok
  | _ => .ok

end Sys2Proof.Machine
end

