-- ==== Sys2Proof/Machine/Collective.lean ====
section
/-! DEFINITION. Collective groups and the failure of an instance (R370, R374, R377 to R379). -/

namespace Sys2Proof.Machine

/-- Whether a logical node is this wafer (R25). -/
def State.isHere (s : State) (node : Nat) : Bool := node == 0xFFFF || node == s.port.node

/-- A group of a function's policy (R370). -/
def State.group? (s : State) (vf grp : Nat) : Option Group :=
  (s.vf? vf).bind fun v => v.policy.groups.find? fun g => g.handle = grp

/-- Index of a reticle of this wafer among a group's members (R370). -/
def State.memberOf (s : State) (g : Group) (ret : Nat) : Option Nat :=
  ((g.members.zipIdx).find? fun m => s.isHere m.1.1 && m.1.2 == ret).map (·.2)

/-- What a reticle knows of a group's instances (R374, R377). -/
def Vf.collAt (v : Vf) (grp ret : Nat) : CollInst :=
  (v.colls.find? fun c => c.grp = grp ∧ c.ret = ret).getD { grp, ret, joined := 0, failed := [], started := [] }

def Vf.setColl (v : Vf) (x : CollInst) : Vf :=
  { v with colls := v.colls.filter (fun c => !(c.grp == x.grp && c.ret == x.ret)) ++ [x] }

/-- Whether a participation is in an instance and has not ended. -/
def Particip.inInst (p : Particip) (vf grp k : Nat) : Bool := p.vf == vf && p.grp == grp && p.inst == k && !p.done

/-- The participations of an operation. -/
def Body.particips (b : Body) : List Particip :=
  match b with
  | .coll _ _ ps => ps
  | _ => []

def Body.setParticips (b : Body) (ps : List Particip) : Body :=
  match b with
  | .coll sc tc _ => .coll sc tc ps
  | b => b

/-- Change the participations of a coach that `sel` picks; an operation whose participations have all ended is done. -/
def Coach.modParticips (c : Coach) (sel : Particip → Bool) (f : Particip → Particip) : Coach :=
  { c with ops := pruneOps (c.ops.map fun o =>
      if o.body.particips.any sel then
        let ps := o.body.particips.map fun p => if sel p then f p else p
        { o with body := o.body.setParticips ps, done := o.done || ps.all (·.done) }
      else o) }

/-- Participations of a task that `sel` picks. -/
def Task.particips (t : Task) (sel : Particip → Bool) : List Particip :=
  t.coaches.flatMap fun c => c.ops.flatMap fun o => o.body.particips.filter sel

/-- The blocks of a result that reached the destination of a failed participation: each aligned 64-byte block is the
old or the new one, and which is free (R379, log 1). -/
def State.partialResult (s : State) (t : Task) (p : Particip) : State :=
  match p.result with
  | none => s
  | some bs =>
    let d := p.dst.toNat
    let n := (d + bs.length + 63) / 64 - d / 64
    (List.range n).foldl (fun (s : State) i =>
      let lo := max d ((d / 64 + i) * 64)
      let hi := min (d + bs.length) ((d / 64 + i + 1) * 64)
      let s' := s.bumpFree 1
      if Config.freeBool s.freeIx then s'.spanPut t lo ((bs.drop (lo - d)).take (hi - lo)) else s') s

/-- End the participation of a task in a failed instance: COLL_FAILED unless it is already stopping (R377). -/
def Task.collFail (t : Task) (sel : Particip → Bool) : Task :=
  if (t.particips sel).isEmpty then t
  else
    let t := if t.stopSince.isNone && t.phase == .running then t.terminate cCOLL_FAILED 0 else t
    { t with coaches := t.coaches.map fun c => c.modParticips sel fun p => { p with done := true } }

/-- The traffic class that the COLL slots of an instance give; where nothing here has joined it, that of the function's policy (R357). -/
def State.collClass (s : State) (vf grp k : Nat) : Nat :=
  ((s.tasks.findSome? fun (t : Task) => t.coaches.findSome? fun (c : Coach) => c.ops.findSome? fun (o : Op) => match o.body with
    | .coll _ tc ps => if ps.any fun p => p.inInst vf grp k then some tc else none
    | _ => none)).getD (s.memTC vf)

/-- The withdraw messages of an instance to the members on other wafers (R377, R382); their payload is the model's (log 40). -/
def State.tellWithdraw (s : State) (g : Group) (vf grp k : Nat) : State :=
  match g.members.find? fun m => s.isHere m.1 with
  | none => s
  | some h => (g.members.filter fun m => !s.isHere m.1).foldl (fun s m =>
      s.outgo h.2 { kind := 10, tc := s.collClass vf grp k, vf, dest := globAddr m.1 m.2 0, bytes := 5, payload := leBytes 1 grp ++ leBytes 4 k }) s

/-- An instance fails: every participation in it ends, each member of this wafer keeps its fate, and the members on
other wafers are told where this wafer found the failure (R377). -/
def State.failInst (s : State) (tell : Bool) (vf grp k : Nat) : State :=
  match s.group? vf grp with
  | none => s
  | some g =>
    let here := (g.members.filter fun m => s.isHere m.1).map (·.2)
    let known := match s.vf? vf with
      | some v => here.all fun r => (v.collAt grp r).failed.contains k
      | none => true
    if known && !here.isEmpty then s
    else
      let sel (p : Particip) : Bool := p.inInst vf grp k
      let s := s.tasks.foldl (fun s t => (t.particips sel).foldl (fun s p => s.partialResult t p) s) s
      let s := { s with tasks := s.tasks.map (Task.collFail · sel) }
      let s := s.modVf vf fun v => here.foldl (fun v r =>
        let x := v.collAt grp r
        v.setColl { x with failed := if x.failed.contains k then x.failed else x.failed ++ [k] }) v
      if tell then s.tellWithdraw g vf grp k else s

/-- The instances that a task's coaches have to withdraw from: a coach with a parked lane, or a task that has been ended
or aborted (R377, R378). -/
def Task.withdraws (t : Task) : List (Nat × Nat × Nat) :=
  t.coaches.flatMap fun c =>
    if c.parked != 0 || t.fate.isSome || t.phase == .aborting || t.phase == .ended then
      c.ops.flatMap fun o => (o.body.particips.filter fun p => !p.done).map fun p => (p.vf, p.grp, p.inst)
    else []

/-- Whether a reticle knows that the instance of a participation has failed (R377). -/
def State.knownFailed (s : State) (ret : Nat) (p : Particip) : Bool :=
  !p.done && (match s.vf? p.vf with
    | some v => (v.collAt p.grp ret).failed.contains p.inst
    | none => true)

/-- Whether a member of a group is on a reticle of this wafer that is fenced (R377). -/
def State.memberFenced (s : State) (vf grp : Nat) : Bool :=
  match s.group? vf grp with
  | some g => g.members.any fun m => s.isHere m.1 && (s.ret m.2).fenced
  | none => false

/-- Fail every instance that a coach has to withdraw from or that has a fenced member, and end the participations that
join a failed instance. -/
def State.settleColls (s : State) : State :=
  let open' := s.tasks.flatMap fun t => t.particips fun p => !p.done
  if open'.isEmpty then s
  else
    let s := (s.tasks.flatMap Task.withdraws).foldl (fun s x => s.failInst true x.1 x.2.1 x.2.2) s
    let s := open'.foldl (fun s p => if s.memberFenced p.vf p.grp then s.failInst true p.vf p.grp p.inst else s) s
    { s with tasks := s.tasks.map fun t => Task.collFail t (s.knownFailed t.ret) }

end Sys2Proof.Machine
end

