-- ==== Sys2Proof/WellFormed.lean ====
section
/-! DEFINITION. Which decoded instructions an encoding admits: the field rules of R49, R51, R54, R129, R139, R140,
R142, R147, R148, R166, R174, R180, R209, R216, R217, R222, R253, R272, R273, R361, for a coach whose allocation is
`n` v registers. An instruction that breaks one raises ILLEGAL_FIELD at decode. Steps that are not coach
instructions have no encoding, so nothing is asked of them. -/

namespace Sys2Proof

/-- A 7-bit register field names a register the coach has: below `n` for v, below 64 for g (R49). -/
def regOk (n : Nat) (u : Bool) (r : BitVec 7) : Bool :=
  if u then r.toNat < 64 else r.toNat < n

/-- A field that names a pair, or a run of `k` registers, by its first (R49). -/
def runOk (n : Nat) (u : Bool) (r : BitVec 7) (k : Nat) : Bool :=
  r.toNat % k == 0 && r.toNat + k ≤ (if u then 64 else n)

def reg3Ok (n : Nat) (u : Bool) (d a b : BitVec 7) : Bool :=
  regOk n u d && regOk n u a && regOk n u b

def reg2Ok (n : Nat) (u : Bool) (d a : BitVec 7) : Bool :=
  regOk n u d && regOk n u a

/-- How many registers an access of a size moves (R214). -/
def sizeRegs (size : BitVec 3) : Nat :=
  match size.toNat with
  | 5 => 2
  | 6 => 4
  | _ => 1

/-- The fields of an LD or LDS extension word that R51 and R209 accept; `scr` for the scratchpad form. -/
def ldExtOk (scr : Bool) (x : Option MemExt) : Bool :=
  match x with
  | none => true
  | some e =>
    (e.order == 0 || e.order == 1 || e.order == 4) &&
    (if scr then e.scope.toNat ≤ 1 && e.policy == 0 else e.scope.toNat ≤ 5 && e.policy.toNat ≤ 3)

/-- The fields of an ST or STS extension word that R51 and R209 accept. -/
def stExtOk (scr : Bool) (x : Option MemExt) : Bool :=
  match x with
  | none => true
  | some e =>
    (e.order == 0 || e.order == 2 || e.order == 4) &&
    (if scr then e.scope.toNat ≤ 1 && e.policy == 0
     else e.scope.toNat ≤ 5 && (e.policy == 0 || e.policy == 1 || e.policy == 3))

/-- Operands of LD and LDS (R49, R214). -/
def ldOk (n : Nat) (scr : Bool) (size : BitVec 3) (d o : BitVec 7) (x : Option MemExt) : Bool :=
  size != 7 && runOk n false d (sizeRegs size) && regOk n false o && ldExtOk scr x

/-- Operands of ST and STS: sizes 1, 3 and 7 are illegal (R214). -/
def stOk (n : Nat) (scr : Bool) (size : BitVec 3) (d o : BitVec 7) (x : Option MemExt) : Bool :=
  size != 7 && size != 1 && size != 3 && runOk n false d (sizeRegs size) && regOk n false o && stExtOk scr x

/-- Operands of ATOM and ATOMS (R209, R216). -/
def atomOk (n : Nat) (scr : Bool) (size : BitVec 3) (d o : BitVec 7) (x : AtomExt) : Bool :=
  (size == 4 || size == 5) && x.op.toNat ≤ 11 && x.order.toNat ≤ 4 &&
  (if x.op.toNat ≥ 10 then size == 4 else true) &&
  runOk n false d ((if size == 5 then 2 else 1) * (if x.op == 9 then 2 else 1)) && regOk n false o &&
  (if scr then x.scope.toNat ≤ 1 && x.policy == 0
   else x.scope.toNat ≤ 5 && (x.policy == 0 || x.policy == 1 || x.policy == 3))

/-- A rounding field of an F3 or C word (R54). -/
def rndOk (rnd : BitVec 3) : Bool := rnd != 7

/-- Operands of an FSPEC form: rnd is 0 or 1 (R54, R173). -/
def specOk (n : Nat) (u : Bool) (rnd : BitVec 3) (d a : BitVec 7) : Bool :=
  (rnd == 0 || rnd == 1) && reg2Ok n u d a

/-- Well-formedness of an instruction for a coach of `n` v registers per lane. -/
def Instr.wf (n : Nat) (i : Instr) : Bool :=
  match i with
  | .srd gdst d num =>
    (num.toNat ≤ 16 || num.toNat ≥ 64) &&
    (if num == 12 then runOk n gdst d 2 else regOk n gdst d)
  | .swr s num => regOk n true s && (num == 9 || num == 10 || num == 11)
  | .ctrrd gdst d m => runOk n gdst d 2 && m.toNat < 24
  | .plsetr s => regOk n false s
  | .barSync i id k => (!i || id.toNat < 64) && k.toNat ≥ 1 && k.toNat ≤ 16
  | .barArr i id k => (!i || id.toNat < 64) && k.toNat ≥ 1 && k.toNat ≤ 16
  | .barWait i id => !i || id.toNat < 64
  | .loop b _ ns => b != 0 && ns != 3
  | .step file reg _ => regOk n file reg
  | .iadd u d a b => reg3Ok n u d a b
  | .isub u d a b => reg3Ok n u d a b
  | .imin u d a b => reg3Ok n u d a b
  | .imax u d a b => reg3Ok n u d a b
  | .iminn u d a b => reg3Ok n u d a b
  | .imaxn u d a b => reg3Ok n u d a b
  | .iadds u d a b => reg3Ok n u d a b
  | .isubs u d a b => reg3Ok n u d a b
  | .and u d a b => reg3Ok n u d a b
  | .or u d a b => reg3Ok n u d a b
  | .xor u d a b => reg3Ok n u d a b
  | .andn u d a b => reg3Ok n u d a b
  | .shl u d a b => reg3Ok n u d a b
  | .shr u d a b => reg3Ok n u d a b
  | .sar u d a b => reg3Ok n u d a b
  | .rotr u d a b => reg3Ok n u d a b
  | .imul u d a b => reg3Ok n u d a b
  | .imulh u d a b => reg3Ok n u d a b
  | .imulhn u d a b => reg3Ok n u d a b
  | .imad u d a b => reg3Ok n u d a b
  | .popc u d a => reg2Ok n u d a
  | .clz u d a => reg2Ok n u d a
  | .brev u d a => reg2Ok n u d a
  | .bfe u d a b => reg3Ok n u d a b
  | .bfen u d a b => reg3Ok n u d a b
  | .bfi u d a b => reg3Ok n u d a b
  | .bshuf u d a b => reg3Ok n u d a b
  | .ffs u d a => reg2Ok n u d a
  | .icmp u _ _ a b => reg2Ok n u a b
  | .sel u _ d a b => reg3Ok n u d a b
  | .lea u _ d a b => reg3Ok n u d a b
  | .iaddi u d a _ => reg2Ok n u d a
  | .andi u d a _ => reg2Ok n u d a
  | .ori u d a _ => reg2Ok n u d a
  | .xori u d a _ => reg2Ok n u d a
  | .shli u d a imm => reg2Ok n u d a && imm.toNat < 32
  | .shri u d a imm => reg2Ok n u d a && imm.toNat < 32
  | .sari u d a imm => reg2Ok n u d a && imm.toNat < 32
  | .icmpiEq u _ a _ => regOk n u a
  | .movi u d _ => regOk n u d
  | .moviH u d _ => regOk n u d
  | .iaddCo u d a b => reg3Ok n u d a b
  | .iaddCiCo u d a b => reg3Ok n u d a b
  | .isubBo u d a b => reg3Ok n u d a b
  | .isubBiBo u d a b => reg3Ok n u d a b
  | .fadd u rnd d a b => rndOk rnd && reg3Ok n u d a b
  | .fsub u rnd d a b => rndOk rnd && reg3Ok n u d a b
  | .fmul u rnd d a b => rndOk rnd && reg3Ok n u d a b
  | .ffma u rnd d a b => rndOk rnd && reg3Ok n u d a b
  | .fmin u d a b => reg3Ok n u d a b
  | .fmax u d a b => reg3Ok n u d a b
  | .fminm u d a b => reg3Ok n u d a b
  | .fmaxm u d a b => reg3Ok n u d a b
  | .fabs u d a => reg2Ok n u d a
  | .fneg u d a => reg2Ok n u d a
  | .fcopysign u d a b => reg3Ok n u d a b
  | .fclass u d a => reg2Ok n u d a
  | .fcmp u _ _ a b => reg2Ok n u a b
  | .rcp u rnd d a => specOk n u rnd d a
  | .rsq u rnd d a => specOk n u rnd d a
  | .sqrt u rnd d a => specOk n u rnd d a
  | .exp2 u rnd d a => specOk n u rnd d a
  | .log2 u rnd d a => specOk n u rnd d a
  | .sinpi u rnd d a => specOk n u rnd d a
  | .cospi u rnd d a => specOk n u rnd d a
  | .tanh u rnd d a => specOk n u rnd d a
  | .cvt u rnd d a code =>
    rndOk rnd && code != 15 && (if 5 ≤ code.toNat && code.toNat ≤ 9 then rnd == 0 else true) &&
    regOk n u d && (if code == 14 then runOk n u a 2 else regOk n u a)
  | .badd2 rnd d a b => rndOk rnd && reg3Ok n false d a b
  | .bmul2 rnd d a b => rndOk rnd && reg3Ok n false d a b
  | .bfma2 rnd d a b => rndOk rnd && reg3Ok n false d a b
  | .rand d => regOk n false d
  | .randf d => regOk n false d
  | .idxO d a b => reg3Ok n false d a b
  | .idxC d a b => reg3Ok n false d a b
  | .upC d a b => reg3Ok n false d a b
  | .downC d a b => reg3Ok n false d a b
  | .xorC d a b => reg3Ok n false d a b
  | .bcastC d a => reg2Ok n false d a
  | .voteBallot gd _ => gd.toNat % 2 == 0
  | .rdc _ _ a => regOk n false a
  | .prfx _ d a => reg2Ok n false d a
  | .ld size d o _ _ x => ldOk n false size d o x
  | .st size d o _ _ x => stOk n false size d o x
  | .lds size d o _ _ x => ldOk n true size d o x
  | .sts size d o _ _ x => stOk n true size d o x
  | .atom size d o _ _ x => atomOk n false size d o x
  | .atoms size d o _ _ x => atomOk n true size d o x
  | .fence scope kind => scope.toNat ≤ 5 && kind != 3
  | .pin d a pitch => regOk n false d && runOk n false a 2 && pitch.toNat ≤ 11
  | .unpin a pitch => runOk n false a 2 && pitch.toNat ≤ 11
  | .pf a pitch level => runOk n false a 2 && pitch.toNat ≤ 11 && level.toNat ≤ 1
  | .ldaxis d a pitch width =>
    runOk n false a 2 && pitch.toNat ≤ 11 && width != 3 && runOk n false d (2 ^ width.toNat)
  | .cpT _ c s => c.toNat + 4 ≤ n && regOk n false s
  | .cpLLd a s => runOk n false a 2 && runOk n false s 2
  | .cpLSt a s => runOk n false a 2 && runOk n false s 2
  | .mma _ a t afmt => reg2Ok n false a t && afmt != 3
  | .mmg _ a t afmt => runOk n false a 2 && regOk n false t && afmt != 3
  | .mrd _ _ d => runOk n false d 8
  | .mst _ a gc => runOk n false a 2 && gc.toNat % 2 == 0
  | .mstSc _ a gc => runOk n false a 2 && a.toNat + 3 ≤ n && gc.toNat % 2 == 0
  | .postW a s scope _ => runOk n false a 2 && runOk n false s 2 && scope.toNat ≤ 5
  | .postS a i scope _ => runOk n false a 2 && runOk n false i 2 && scope.toNat ≤ 5
  | .postQ a s scope _ _ => runOk n false a 2 && runOk n false s 2 && s.toNat + 3 ≤ n && scope.toNat ≤ 5
  | .coll s _ scope _ => regOk n false s && scope.toNat ≤ 5
  | _ => true

end Sys2Proof
end

