-- ==== Sys2Proof/Decode.lean ====
section
/-! DEFINITION. Slot words to instructions (R48, R51, R53, R54) and back. Decoding is total and rejects by name.
The control word and the rules over a whole bundle (R36, R37) stand in Machine/Fetch.lean. -/

namespace Sys2Proof

/-- How decoding a slot word fails (R54). -/
inductive DecErr where
  | opcode
  | field
deriving DecidableEq, Repr

/-- The field of `k` bits at bit `i` of a word. -/
abbrev bits (w : Word) (i k : Nat) : BitVec k := w.extractLsb' i k

/-- The major opcode, bits 30 to 25 (R48). -/
def majorOf (w : Word) : Nat := (bits w 25 6).toNat

/-- The minor of an S-format word, bits 24 to 20 (R48). -/
def minorS (w : Word) : Nat := (bits w 20 5).toNat

/-- The minor of a T3 or I word, bits 23 to 21 (R48). -/
def minorT (w : Word) : Nat := (bits w 21 3).toNat

/-- Accept `i` when a must-be-zero part is zero (R54). -/
def need (ok : Bool) (i : Instr) : Except DecErr Instr := if ok then .ok i else .error .field

/-- Whether a 7-bit field names a predicate: bits 6 to 3 zero (R160). -/
def predField (r : BitVec 7) : Bool := r.extractLsb' 3 4 == 0

/-- Whether a 7-bit field names a g register: below 64 (R49). -/
def gField (r : BitVec 7) : Bool := r.extractLsb' 6 1 == 0

/-- SYS, major 0x00 (R127). -/
def decSys (w : Word) : Except DecErr Instr :=
  match minorS w with
  | 0 => need (bits w 0 20 == 0) .nop
  | 1 => need (bits w 8 12 == 0) (.yieldN (bits w 0 8))
  | 2 => need (bits w 0 5 == 0) (.srd (w.getLsbD 12) (bits w 13 7) (bits w 5 7))
  | 3 => need (bits w 0 5 == 0 && w.getLsbD 12) (.swr (bits w 13 7) (bits w 5 7))
  | 4 => need (bits w 0 20 == 0) .trap
  | 5 => need (bits w 0 20 == 0) .brkpt
  | 6 => need (bits w 0 7 == 0) (.ctrrd (w.getLsbD 12) (bits w 13 7) (bits w 7 5))
  | _ => .error .field

/-- BR, major 0x01 (R130). -/
def decBr (w : Word) : Except DecErr Instr :=
  match (bits w 23 2).toNat with
  | 0 => .ok (.bra (bits w 0 23))
  | 1 => .ok (.bru (bits w 0 23))
  | 2 => .ok (.brd (bits w 0 23))
  | _ => .error .field

/-- CTL, major 0x02 (R133). -/
def decCtl (w : Word) : Except DecErr Instr :=
  match minorS w with
  | 0 => need (bits w 0 20 == 0) .ret
  | 1 => need (bits w 0 20 == 0) .exit
  | 2 => need (bits w 0 15 == 0) (.brxu (bits w 15 5))
  | 3 => need (bits w 0 15 == 0) (.calli (bits w 15 5))
  | _ => .error .field

/-- CONV, major 0x05 (R137, R139, R140). -/
def decConv (w : Word) : Except DecErr Instr :=
  match minorS w with
  | 0 => need (bits w 0 18 == 0) (.rcvwait (bits w 18 2))
  | 1 => need (bits w 0 17 == 0) (.plset (bits w 17 3))
  | 2 => need (bits w 0 13 == 0) (.plsetr (bits w 13 7))
  | 3 => need (bits w 0 18 == 0) (.csplit (bits w 18 2))
  | 4 => need (bits w 0 20 == 0) .cfuse
  | _ => .error .field

/-- BAR, major 0x06 (R142). -/
def decBar (w : Word) : Except DecErr Instr :=
  match minorS w with
  | 0 => need (bits w 0 6 == 0) (.barSync (w.getLsbD 19) (bits w 11 8) (bits w 6 5))
  | 1 => need (bits w 0 6 == 0) (.barArr (w.getLsbD 19) (bits w 11 8) (bits w 6 5))
  | 2 => need (bits w 0 11 == 0) (.barWait (w.getLsbD 19) (bits w 11 8))
  | _ => .error .field

/-- TASK, major 0x0A (R153). -/
def decTask (w : Word) : Except DecErr Instr :=
  match minorS w with
  | 0 => need (bits w 0 20 == 0) .tend
  | 1 => need (bits w 0 15 == 0) (.tspawn (bits w 15 5))
  | 2 => need (bits w 0 14 == 0) (.tsig (bits w 14 6))
  | _ => .error .field

/-- IALU, major 0x10 (R161). -/
def decIalu (w : Word) : Except DecErr Instr :=
  let u := w.getLsbD 24; let d := bits w 14 7; let a := bits w 7 7; let b := bits w 0 7
  match minorT w with
  | 0 => .ok (.iadd u d a b)
  | 1 => .ok (.isub u d a b)
  | 2 => .ok (.imin u d a b)
  | 3 => .ok (.imax u d a b)
  | 4 => .ok (.iminn u d a b)
  | 5 => .ok (.imaxn u d a b)
  | 6 => .ok (.iadds u d a b)
  | _ => .ok (.isubs u d a b)

/-- ILOG, major 0x11 (R161). -/
def decIlog (w : Word) : Except DecErr Instr :=
  let u := w.getLsbD 24; let d := bits w 14 7; let a := bits w 7 7; let b := bits w 0 7
  match minorT w with
  | 0 => .ok (.and u d a b)
  | 1 => .ok (.or u d a b)
  | 2 => .ok (.xor u d a b)
  | 3 => .ok (.andn u d a b)
  | 4 => .ok (.shl u d a b)
  | 5 => .ok (.shr u d a b)
  | 6 => .ok (.sar u d a b)
  | _ => .ok (.rotr u d a b)

/-- IMUL, major 0x12 (R161). -/
def decImul (w : Word) : Except DecErr Instr :=
  let u := w.getLsbD 24; let d := bits w 14 7; let a := bits w 7 7; let b := bits w 0 7
  match minorT w with
  | 0 => .ok (.imul u d a b)
  | 1 => .ok (.imulh u d a b)
  | 2 => .ok (.imulhn u d a b)
  | 3 => .ok (.imad u d a b)
  | _ => .error .field

/-- IBIT, major 0x13 (R162). -/
def decIbit (w : Word) : Except DecErr Instr :=
  let u := w.getLsbD 24; let d := bits w 14 7; let a := bits w 7 7; let b := bits w 0 7
  match minorT w with
  | 0 => need (b == 0) (.popc u d a)
  | 1 => need (b == 0) (.clz u d a)
  | 2 => need (b == 0) (.brev u d a)
  | 3 => .ok (.bfe u d a b)
  | 4 => .ok (.bfen u d a b)
  | 5 => .ok (.bfi u d a b)
  | 6 => .ok (.bshuf u d a b)
  | _ => need (b == 0) (.ffs u d a)

/-- IOPI, major 0x16 (R166). -/
def decIopi (w : Word) : Except DecErr Instr :=
  let u := w.getLsbD 24; let d := bits w 14 7; let a := bits w 7 7; let b := bits w 0 7
  match minorT w with
  | 0 => .ok (.iaddi u d a b)
  | 1 => .ok (.andi u d a b)
  | 2 => .ok (.ori u d a b)
  | 3 => .ok (.xori u d a b)
  | 4 => .ok (.shli u d a b)
  | 5 => .ok (.shri u d a b)
  | 6 => .ok (.sari u d a b)
  | _ => need (predField d) (.icmpiEq u (bits w 14 3) a b)

/-- ICARRY, major 0x18 (R169). -/
def decIcarry (w : Word) : Except DecErr Instr :=
  let u := w.getLsbD 24; let d := bits w 14 7; let a := bits w 7 7; let b := bits w 0 7
  match minorT w with
  | 0 => .ok (.iaddCo u d a b)
  | 1 => .ok (.iaddCiCo u d a b)
  | 2 => .ok (.isubBo u d a b)
  | 3 => .ok (.isubBiBo u d a b)
  | _ => .error .field

/-- FMINMAX, major 0x23 (R171). -/
def decFminmax (w : Word) : Except DecErr Instr :=
  let u := w.getLsbD 24; let d := bits w 14 7; let a := bits w 7 7; let b := bits w 0 7
  match minorT w with
  | 0 => .ok (.fmin u d a b)
  | 1 => .ok (.fmax u d a b)
  | 2 => .ok (.fminm u d a b)
  | 3 => .ok (.fmaxm u d a b)
  | 4 => need (b == 0) (.fabs u d a)
  | 5 => need (b == 0) (.fneg u d a)
  | 6 => .ok (.fcopysign u d a b)
  | _ => need (b == 0) (.fclass u d a)

/-- FSPEC, major 0x25: the b field selects the function (R173). -/
def decFspec (w : Word) : Except DecErr Instr :=
  let u := w.getLsbD 24; let r := bits w 21 3; let d := bits w 14 7; let a := bits w 7 7
  match (bits w 0 7).toNat with
  | 0 => .ok (.rcp u r d a)
  | 1 => .ok (.rsq u r d a)
  | 2 => .ok (.sqrt u r d a)
  | 3 => .ok (.exp2 u r d a)
  | 4 => .ok (.log2 u r d a)
  | 5 => .ok (.sinpi u r d a)
  | 6 => .ok (.cospi u r d a)
  | 7 => .ok (.tanh u r d a)
  | _ => .error .field

/-- RAND, major 0x2B (R176). -/
def decRand (w : Word) : Except DecErr Instr :=
  match minorT w with
  | 0 => need (bits w 0 14 == 0 && !w.getLsbD 24) (.rand (bits w 14 7))
  | 1 => need (bits w 0 14 == 0 && !w.getLsbD 24) (.randf (bits w 14 7))
  | _ => .error .field

/-- CP, major 0x2C (R253). -/
def decCp (w : Word) : Except DecErr Instr :=
  match minorS w with
  | 0 => need (bits w 0 2 == 0) (.cpT (bits w 16 4) (bits w 9 7) (bits w 2 7))
  | 1 => need (bits w 0 5 == 0)
      (if w.getLsbD 19 then .cpLSt (bits w 12 7) (bits w 5 7) else .cpLLd (bits w 12 7) (bits w 5 7))
  | 2 => need (bits w 0 14 == 0) (.cpSeal (bits w 14 6))
  | 3 => need (bits w 0 14 == 0) (.cpQry (bits w 14 6))
  | _ => .error .field

/-- MX, major 0x2D (R272). -/
def decMx (w : Word) : Except DecErr Instr :=
  let ac := bits w 17 3
  match minorS w with
  | 0 => need (bits w 0 8 == 0) (.mldb (bits w 14 6) (bits w 8 6))
  | 1 => need (bits w 0 1 == 0) (.mma ac (bits w 10 7) (bits w 3 7) (bits w 1 2))
  | 2 => need (bits w 0 1 == 0) (.mmg ac (bits w 10 7) (bits w 3 7) (bits w 1 2))
  | 3 => need (bits w 0 17 == 0) (.mzero ac)
  | 4 => need (bits w 0 6 == 0) (.mrd ac (bits w 13 4) (bits w 6 7))
  | 5 => need (bits w 0 4 == 0) (.mst ac (bits w 10 7) (bits w 4 6))
  | 6 => need (bits w 0 4 == 0) (.mstSc ac (bits w 10 7) (bits w 4 6))
  | 7 => need (bits w 0 7 == 0) (.mqry (bits w 14 6) (bits w 8 6) (w.getLsbD 7))
  | _ => .error .field

/-- NX, major 0x2E (R361). -/
def decNx (w : Word) : Except DecErr Instr :=
  let sc := bits w 3 3; let tc := bits w 1 2
  match minorS w with
  | 0 => need (bits w 0 1 == 0) (.postW (bits w 13 7) (bits w 6 7) sc tc)
  | 1 => need (bits w 0 1 == 0) (.postS (bits w 13 7) (bits w 6 7) sc tc)
  | 2 => .ok (.postQ (bits w 13 7) (bits w 6 7) sc tc (w.getLsbD 0))
  | 3 => need (bits w 0 1 == 0 && bits w 12 1 == 0) (.coll (bits w 13 7) (bits w 6 6) sc tc)
  | 4 => need (bits w 0 6 == 0) (.nxqry (bits w 14 6) (bits w 8 6) (bits w 6 2))
  | _ => .error .field

/-- XCH, major 0x30 (R179). -/
def decXch (w : Word) : Except DecErr Instr :=
  let d := bits w 14 7; let a := bits w 7 7; let b := bits w 0 7; let ok := !w.getLsbD 24
  match minorT w with
  | 0 => need ok (.idxO d a b)
  | 1 => need ok (.idxC d a b)
  | 2 => need ok (.upC d a b)
  | 3 => need ok (.downC d a b)
  | 4 => need ok (.xorC d a b)
  | 5 => need (ok && b == 0) (.bcastC d a)
  | _ => .error .field

/-- VOTE, major 0x31 (R180). -/
def decVote (w : Word) : Except DecErr Instr :=
  let d := bits w 14 7; let a := bits w 7 7; let b := bits w 0 7
  let ok := !w.getLsbD 24 && b == 0 && predField a
  match minorT w with
  | 0 => need (ok && predField d) (.voteAny (bits w 14 3) (bits w 7 3))
  | 1 => need (ok && predField d) (.voteAll (bits w 14 3) (bits w 7 3))
  | 2 => need (ok && gField d) (.voteBallot (bits w 14 6) (bits w 7 3))
  | 3 => need (ok && gField d) (.voteCount (bits w 14 6) (bits w 7 3))
  | 4 => need (ok && gField d) (.voteFirst (bits w 14 6) (bits w 7 3))
  | _ => .error .field

/-- The extension word of a slot with X = 1 (R48, R51). -/
def decExt (x : Word) : MemExt :=
  { order := bits x 28 3, scope := bits x 25 3, policy := bits x 22 3, ofs := bits x 0 22 }

/-- The extension word of ATOM and ATOMS (R51). -/
def decAtomExt (x : Word) : AtomExt :=
  { order := bits x 28 3, scope := bits x 25 3, policy := bits x 22 3, op := bits x 18 4, ofs := bits x 0 18 }

/-- M-format words, majors 0x38 to 0x3D (R48, R214, R216). -/
def decMem (m : Nat) (w x : Word) : Except DecErr Instr :=
  let size := bits w 22 3; let d := bits w 15 7; let o := bits w 8 7; let k := bits w 3 5; let sc := bits w 1 2
  let e := if w.getLsbD 0 then some (decExt x) else none
  match m with
  | 0x38 => .ok (.ld size d o k sc e)
  | 0x39 => .ok (.st size d o k sc e)
  | 0x3A => .ok (.lds size d o k sc e)
  | 0x3B => .ok (.sts size d o k sc e)
  | 0x3C => need (w.getLsbD 0) (.atom size d o k sc (decAtomExt x))
  | _ => need (w.getLsbD 0) (.atoms size d o k sc (decAtomExt x))

/-- MSYS, major 0x3E (R217). -/
def decMsys (w : Word) : Except DecErr Instr :=
  let d := bits w 13 7; let a := bits w 6 7; let pc := bits w 2 4
  match minorS w with
  | 0 => need (bits w 0 15 == 0) (.fence (bits w 17 3) (bits w 15 2))
  | 1 => need (bits w 0 2 == 0) (.pin d a pc)
  | 2 => need (bits w 0 2 == 0 && d == 0) (.unpin a pc)
  | 3 => need (d == 0) (.pf a pc (bits w 0 2))
  | 4 => .ok (.ldaxis d a pc (bits w 0 2))
  | _ => .error .field

/-- F3 words of the majors whose whole word is one form (R170, R175). -/
def decF3 (m : Nat) (w : Word) : Except DecErr Instr :=
  let u := w.getLsbD 24; let r := bits w 21 3; let d := bits w 14 7; let a := bits w 7 7; let b := bits w 0 7
  match m with
  | 0x20 => .ok (.fadd u r d a b)
  | 0x21 => .ok (.fmul u r d a b)
  | 0x22 => .ok (.ffma u r d a b)
  | 0x26 => .ok (.fsub u r d a b)
  | 0x28 => need (!u) (.badd2 r d a b)
  | 0x29 => need (!u) (.bmul2 r d a b)
  | _ => need (!u) (.bfma2 r d a b)

/-- The fields of a slot word by its major (R53, R54). Bit 31, the chain bit, plays no part. -/
def parseSlot (w x : Word) : Except DecErr Instr :=
  let u := w.getLsbD 24; let d := bits w 14 7; let a := bits w 7 7; let b := bits w 0 7
  match majorOf w with
  | 0x00 => decSys w
  | 0x01 => decBr w
  | 0x02 => decCtl w
  | 0x03 => need (bits w 23 2 == 0) (.call (bits w 0 23))
  | 0x04 => .ok (.rcvset (bits w 23 2) (bits w 0 23))
  | 0x05 => decConv w
  | 0x06 => decBar w
  | 0x07 => .ok (.wait (bits w 20 5) (bits w 15 5) (bits w 10 5) (bits w 5 5) (bits w 0 5))
  | 0x08 => need (bits w 0 11 == 0) (.loop (bits w 19 6) (bits w 13 6) (bits w 11 2))
  | 0x09 => .ok (.step u (bits w 17 7) (bits w 0 17))
  | 0x0A => decTask w
  | 0x10 => decIalu w
  | 0x11 => decIlog w
  | 0x12 => decImul w
  | 0x13 => decIbit w
  | 0x14 => need (predField d) (.icmp u (bits w 21 3) (bits w 14 3) a b)
  | 0x15 => .ok (.sel u (bits w 21 3) d a b)
  | 0x16 => decIopi w
  | 0x17 => .ok (if w.getLsbD 16 then .moviH u (bits w 17 7) (bits w 0 16) else .movi u (bits w 17 7) (bits w 0 16))
  | 0x18 => decIcarry w
  | 0x19 => .ok (.lea u (bits w 21 3) d a b)
  | 0x20 => decF3 0x20 w
  | 0x21 => decF3 0x21 w
  | 0x22 => decF3 0x22 w
  | 0x23 => decFminmax w
  | 0x24 => need (predField d) (.fcmp u (bits w 21 3) (bits w 14 3) a b)
  | 0x25 => decFspec w
  | 0x26 => decF3 0x26 w
  | 0x27 => need (bits w 0 3 == 0) (.cvt u (bits w 21 3) d a (bits w 3 4))
  | 0x28 => decF3 0x28 w
  | 0x29 => decF3 0x29 w
  | 0x2A => decF3 0x2A w
  | 0x2B => decRand w
  | 0x2C => decCp w
  | 0x2D => decMx w
  | 0x2E => decNx w
  | 0x30 => decXch w
  | 0x31 => decVote w
  | 0x32 => need (!u && b == 0 && gField d) (.rdc (bits w 21 3) (bits w 14 6) a)
  | 0x33 => need (!u && b == 0 && bits w 23 1 == 0) (.prfx (bits w 21 2) d a)
  | 0x38 => decMem 0x38 w x
  | 0x39 => decMem 0x39 w x
  | 0x3A => decMem 0x3A w x
  | 0x3B => decMem 0x3B w x
  | 0x3C => decMem 0x3C w x
  | 0x3D => decMem 0x3D w x
  | 0x3E => decMsys w
  | _ => .error .opcode

/-- Decode a slot word for a coach of `n` v registers: the parse, then the field rules of WellFormed. -/
def decodeSlot (n : Nat) (w x : Word) : Except DecErr Instr :=
  match parseSlot w x with
  | .ok i => if i.wf n then .ok i else .error .field
  | .error e => .error e

/-- Whether a slot word takes the next slot as its extension word (R51): X = 1 in an M-format word. -/
def hasExt (w : Word) : Bool :=
  decide (0x38 ≤ majorOf w) && decide (majorOf w ≤ 0x3D) && w.getLsbD 0

/-- The instruction that the decoder reads from a word numbered as the opcode table numbers it: the slot word in
bits 31 to 0 and its extension word, if any, in bits 63 to 32, read for the largest allocation. -/
def decodeTableWord (_nbits w : Nat) : Option Instr :=
  match decodeSlot 128 (BitVec.ofNat 32 w) (BitVec.ofNat 32 (w / 2 ^ 32)) with
  | .ok i => some i
  | .error _ => none

/-- A T3, F3 or I word with C = 0 (R48). -/
def t3 (m : BitVec 6) (u : Bool) (minor : BitVec 3) (d a b : BitVec 7) : Word :=
  0#1 ++ m ++ BitVec.ofBool u ++ minor ++ d ++ a ++ b

/-- An S-format word with C = 0 (R48). -/
def sWord (m : BitVec 6) (minor : BitVec 5) (rest : BitVec 20) : Word := 0#1 ++ m ++ minor ++ rest

/-- A B-format word with C = 0 (R48). -/
def bWord (m : BitVec 6) (kind : BitVec 2) (disp : BitVec 23) : Word := 0#1 ++ m ++ kind ++ disp

/-- An M-format word with C = 0 (R48). -/
def mWord (m : BitVec 6) (size : BitVec 3) (d o : BitVec 7) (k : BitVec 5) (sc : BitVec 2) (x : Bool) : Word :=
  0#1 ++ m ++ size ++ d ++ o ++ k ++ sc ++ BitVec.ofBool x

/-- The extension word of a memory slot (R48). -/
def encExt (e : MemExt) : Word := 0#1 ++ e.order ++ e.scope ++ e.policy ++ e.ofs

/-- The extension word of an atomic slot (R51). -/
def encAtomExt (e : AtomExt) : Word := 0#1 ++ e.order ++ e.scope ++ e.policy ++ e.op ++ e.ofs

/-- An M-format word and its extension word. -/
def encMem (m : BitVec 6) (size : BitVec 3) (d o : BitVec 7) (k : BitVec 5) (sc : BitVec 2) (x : Option MemExt) :
    Option (Word × Option Word) :=
  match x with
  | none => some (mWord m size d o k sc false, none)
  | some e => some (mWord m size d o k sc true, some (encExt e))

/-- A slot word alone. -/
def one (w : Word) : Option (Word × Option Word) := some (w, none)

/-- A predicate index in a 7-bit field (R160). -/
def pf7 (p : BitVec 3) : BitVec 7 := 0#4 ++ p

/-- A g register in a 7-bit field. -/
def gf7 (g : BitVec 6) : BitVec 7 := 0#1 ++ g

/-- The words of an instruction, from the encoding tables of the specification, with C = 0: the slot word and the
extension word where it has one. Steps that are not coach instructions have no words. -/
def encode (i : Instr) : Option (Word × Option Word) :=
  match i with
  | .nop => one (sWord 0x00 0 0)
  | .yieldN n => one (sWord 0x00 1 (0#12 ++ n))
  | .srd g d sel => one (sWord 0x00 2 (d ++ BitVec.ofBool g ++ sel ++ 0#5))
  | .swr s sel => one (sWord 0x00 3 (s ++ 1#1 ++ sel ++ 0#5))
  | .trap => one (sWord 0x00 4 0)
  | .brkpt => one (sWord 0x00 5 0)
  | .ctrrd g d m => one (sWord 0x00 6 (d ++ BitVec.ofBool g ++ m ++ 0#7))
  | .bra disp => one (bWord 0x01 0 disp)
  | .bru disp => one (bWord 0x01 1 disp)
  | .brd disp => one (bWord 0x01 2 disp)
  | .call disp => one (bWord 0x03 0 disp)
  | .calli k => one (sWord 0x02 3 (k ++ 0#15))
  | .ret => one (sWord 0x02 0 0)
  | .exit => one (sWord 0x02 1 0)
  | .brxu k => one (sWord 0x02 2 (k ++ 0#15))
  | .rcvset k disp => one (bWord 0x04 k disp)
  | .rcvwait k => one (sWord 0x05 0 (k ++ 0#18))
  | .plset n => one (sWord 0x05 1 (n ++ 0#17))
  | .plsetr s => one (sWord 0x05 2 (s ++ 0#13))
  | .csplit wl => one (sWord 0x05 3 (wl ++ 0#18))
  | .cfuse => one (sWord 0x05 4 0)
  | .barSync i id k => one (sWord 0x06 0 (BitVec.ofBool i ++ id ++ k ++ 0#6))
  | .barArr i id k => one (sWord 0x06 1 (BitVec.ofBool i ++ id ++ k ++ 0#6))
  | .barWait i id => one (sWord 0x06 2 (BitVec.ofBool i ++ id ++ 0#11))
  | .wait l s c t n => one (0#1 ++ 0x07#6 ++ l ++ s ++ c ++ t ++ n)
  | .loop b t ns => one (0#1 ++ 0x08#6 ++ b ++ t ++ ns ++ 0#11)
  | .step file reg inc => one (0#1 ++ 0x09#6 ++ BitVec.ofBool file ++ reg ++ inc)
  | .tend => one (sWord 0x0A 0 0)
  | .tspawn k => one (sWord 0x0A 1 (k ++ 0#15))
  | .tsig g => one (sWord 0x0A 2 (g ++ 0#14))
  | .iadd u d a b => one (t3 0x10 u 0 d a b)
  | .isub u d a b => one (t3 0x10 u 1 d a b)
  | .imin u d a b => one (t3 0x10 u 2 d a b)
  | .imax u d a b => one (t3 0x10 u 3 d a b)
  | .iminn u d a b => one (t3 0x10 u 4 d a b)
  | .imaxn u d a b => one (t3 0x10 u 5 d a b)
  | .iadds u d a b => one (t3 0x10 u 6 d a b)
  | .isubs u d a b => one (t3 0x10 u 7 d a b)
  | .and u d a b => one (t3 0x11 u 0 d a b)
  | .or u d a b => one (t3 0x11 u 1 d a b)
  | .xor u d a b => one (t3 0x11 u 2 d a b)
  | .andn u d a b => one (t3 0x11 u 3 d a b)
  | .shl u d a b => one (t3 0x11 u 4 d a b)
  | .shr u d a b => one (t3 0x11 u 5 d a b)
  | .sar u d a b => one (t3 0x11 u 6 d a b)
  | .rotr u d a b => one (t3 0x11 u 7 d a b)
  | .imul u d a b => one (t3 0x12 u 0 d a b)
  | .imulh u d a b => one (t3 0x12 u 1 d a b)
  | .imulhn u d a b => one (t3 0x12 u 2 d a b)
  | .imad u d a b => one (t3 0x12 u 3 d a b)
  | .popc u d a => one (t3 0x13 u 0 d a 0)
  | .clz u d a => one (t3 0x13 u 1 d a 0)
  | .brev u d a => one (t3 0x13 u 2 d a 0)
  | .bfe u d a b => one (t3 0x13 u 3 d a b)
  | .bfen u d a b => one (t3 0x13 u 4 d a b)
  | .bfi u d a b => one (t3 0x13 u 5 d a b)
  | .bshuf u d a b => one (t3 0x13 u 6 d a b)
  | .ffs u d a => one (t3 0x13 u 7 d a 0)
  | .icmp u cc pd a b => one (t3 0x14 u cc (pf7 pd) a b)
  | .sel u ps d a b => one (t3 0x15 u ps d a b)
  | .lea u s d a b => one (t3 0x19 u s d a b)
  | .iaddi u d a imm => one (t3 0x16 u 0 d a imm)
  | .andi u d a imm => one (t3 0x16 u 1 d a imm)
  | .ori u d a imm => one (t3 0x16 u 2 d a imm)
  | .xori u d a imm => one (t3 0x16 u 3 d a imm)
  | .shli u d a imm => one (t3 0x16 u 4 d a imm)
  | .shri u d a imm => one (t3 0x16 u 5 d a imm)
  | .sari u d a imm => one (t3 0x16 u 6 d a imm)
  | .icmpiEq u pd a imm => one (t3 0x16 u 7 (pf7 pd) a imm)
  | .movi u d imm => one (0#1 ++ 0x17#6 ++ BitVec.ofBool u ++ d ++ 0#1 ++ imm)
  | .moviH u d imm => one (0#1 ++ 0x17#6 ++ BitVec.ofBool u ++ d ++ 1#1 ++ imm)
  | .iaddCo u d a b => one (t3 0x18 u 0 d a b)
  | .iaddCiCo u d a b => one (t3 0x18 u 1 d a b)
  | .isubBo u d a b => one (t3 0x18 u 2 d a b)
  | .isubBiBo u d a b => one (t3 0x18 u 3 d a b)
  | .fadd u r d a b => one (t3 0x20 u r d a b)
  | .fsub u r d a b => one (t3 0x26 u r d a b)
  | .fmul u r d a b => one (t3 0x21 u r d a b)
  | .ffma u r d a b => one (t3 0x22 u r d a b)
  | .fmin u d a b => one (t3 0x23 u 0 d a b)
  | .fmax u d a b => one (t3 0x23 u 1 d a b)
  | .fminm u d a b => one (t3 0x23 u 2 d a b)
  | .fmaxm u d a b => one (t3 0x23 u 3 d a b)
  | .fabs u d a => one (t3 0x23 u 4 d a 0)
  | .fneg u d a => one (t3 0x23 u 5 d a 0)
  | .fcopysign u d a b => one (t3 0x23 u 6 d a b)
  | .fclass u d a => one (t3 0x23 u 7 d a 0)
  | .fcmp u cc pd a b => one (t3 0x24 u cc (pf7 pd) a b)
  | .rcp u r d a => one (t3 0x25 u r d a 0)
  | .rsq u r d a => one (t3 0x25 u r d a 1)
  | .sqrt u r d a => one (t3 0x25 u r d a 2)
  | .exp2 u r d a => one (t3 0x25 u r d a 3)
  | .log2 u r d a => one (t3 0x25 u r d a 4)
  | .sinpi u r d a => one (t3 0x25 u r d a 5)
  | .cospi u r d a => one (t3 0x25 u r d a 6)
  | .tanh u r d a => one (t3 0x25 u r d a 7)
  | .cvt u r d a code => one (t3 0x27 u r d a (code ++ 0#3))
  | .badd2 r d a b => one (t3 0x28 false r d a b)
  | .bmul2 r d a b => one (t3 0x29 false r d a b)
  | .bfma2 r d a b => one (t3 0x2A false r d a b)
  | .rand d => one (t3 0x2B false 0 d 0 0)
  | .randf d => one (t3 0x2B false 1 d 0 0)
  | .idxO d a b => one (t3 0x30 false 0 d a b)
  | .idxC d a b => one (t3 0x30 false 1 d a b)
  | .upC d a b => one (t3 0x30 false 2 d a b)
  | .downC d a b => one (t3 0x30 false 3 d a b)
  | .xorC d a b => one (t3 0x30 false 4 d a b)
  | .bcastC d a => one (t3 0x30 false 5 d a 0)
  | .voteAny qd pa => one (t3 0x31 false 0 (pf7 qd) (pf7 pa) 0)
  | .voteAll qd pa => one (t3 0x31 false 1 (pf7 qd) (pf7 pa) 0)
  | .voteBallot gd pa => one (t3 0x31 false 2 (gf7 gd) (pf7 pa) 0)
  | .voteCount gd pa => one (t3 0x31 false 3 (gf7 gd) (pf7 pa) 0)
  | .voteFirst gd pa => one (t3 0x31 false 4 (gf7 gd) (pf7 pa) 0)
  | .rdc op gd a => one (t3 0x32 false op (gf7 gd) a 0)
  | .prfx form d a => one (t3 0x33 false (0#1 ++ form) d a 0)
  | .ld size d o k sc x => encMem 0x38 size d o k sc x
  | .st size d o k sc x => encMem 0x39 size d o k sc x
  | .lds size d o k sc x => encMem 0x3A size d o k sc x
  | .sts size d o k sc x => encMem 0x3B size d o k sc x
  | .atom size d o k sc x => some (mWord 0x3C size d o k sc true, some (encAtomExt x))
  | .atoms size d o k sc x => some (mWord 0x3D size d o k sc true, some (encAtomExt x))
  | .fence scope kind => one (sWord 0x3E 0 (scope ++ kind ++ 0#15))
  | .pin d a pc => one (sWord 0x3E 1 (d ++ a ++ pc ++ 0#2))
  | .unpin a pc => one (sWord 0x3E 2 (0#7 ++ a ++ pc ++ 0#2))
  | .pf a pc level => one (sWord 0x3E 3 (0#7 ++ a ++ pc ++ level))
  | .ldaxis d a pc width => one (sWord 0x3E 4 (d ++ a ++ pc ++ width))
  | .cpT n c s => one (sWord 0x2C 0 (n ++ c ++ s ++ 0#2))
  | .cpLLd a s => one (sWord 0x2C 1 (0#1 ++ a ++ s ++ 0#5))
  | .cpLSt a s => one (sWord 0x2C 1 (1#1 ++ a ++ s ++ 0#5))
  | .cpSeal g => one (sWord 0x2C 2 (g ++ 0#14))
  | .cpQry g => one (sWord 0x2C 3 (g ++ 0#14))
  | .mldb gd gs => one (sWord 0x2D 0 (gd ++ gs ++ 0#8))
  | .mma ac a t afmt => one (sWord 0x2D 1 (ac ++ a ++ t ++ afmt ++ 0#1))
  | .mmg ac a t afmt => one (sWord 0x2D 2 (ac ++ a ++ t ++ afmt ++ 0#1))
  | .mzero ac => one (sWord 0x2D 3 (ac ++ 0#17))
  | .mrd ac col d => one (sWord 0x2D 4 (ac ++ col ++ d ++ 0#6))
  | .mst ac a gc => one (sWord 0x2D 5 (ac ++ a ++ gc ++ 0#4))
  | .mstSc ac a gc => one (sWord 0x2D 6 (ac ++ a ++ gc ++ 0#4))
  | .mqry gd gt clr => one (sWord 0x2D 7 (gd ++ gt ++ BitVec.ofBool clr ++ 0#7))
  | .postW a s scope tc => one (sWord 0x2E 0 (a ++ s ++ scope ++ tc ++ 0#1))
  | .postS a i scope tc => one (sWord 0x2E 1 (a ++ i ++ scope ++ tc ++ 0#1))
  | .postQ a s scope tc fmt => one (sWord 0x2E 2 (a ++ s ++ scope ++ tc ++ BitVec.ofBool fmt))
  | .coll s g scope tc => one (sWord 0x2E 3 (s ++ 0#1 ++ g ++ scope ++ tc ++ 0#1))
  | .nxqry gd gg sel => one (sWord 0x2E 4 (gd ++ gg ++ sel ++ 0#6))
  | _ => none

end Sys2Proof
end

