-- ==== Sys2Proof/Machine/Fetch.lean ====
section
/-! DEFINITION. From code bytes to the slots of a bundle (R35 to R41, R55, R92 to R98), the choice of the bundle that
issues (R112, R113), and what the end of a bundle does (R47, R118, R131, R134, R135, R149 to R151). -/

namespace Sys2Proof.Machine

/-! ### Code and headers (R92, R325) -/

/-- Bytes read through the task's code extents (R325). -/
def State.codeBytes (s : State) (t : Task) (va : Dword) (n : Nat) : Option (List Byte) :=
  (t.code? va.toNat n).map fun e => s.locBytes (s.locate e va.toNat) n

/-- The context a function header gives, unless it breaks a rule of R92. -/
def FnCtx.ofHeader (hdr : Dword) (bs : List Byte) : Option FnCtx :=
  let brel := BitVec.ofNat 64 (leNat (bs.take 8))
  let stride := leNat ((bs.drop 8).take 4)
  let w := BitVec.ofNat 32 (leNat ((bs.drop 12).take 4))
  let base := hdr + brel
  let len := field w 2 22
  if field w 24 8 = 0xC7 ∧ base.toNat % 16 = 0 ∧ stride % 4096 = 0 ∧ 16 * len ≤ stride ∧ 1 ≤ len then
    some { hdr, base, stride, plog := field w 0 2, len }
  else none

/-- Read a header through the code extents. -/
def State.readHeader (s : State) (t : Task) (hdr : Dword) : Option FnCtx :=
  (s.codeBytes t hdr 16).bind (FnCtx.ofHeader hdr)

/-! ### Words of a bundle (R36, R48, R51, R53) -/

/-- The bundle that one plane fetched: its plane, control word and slot words. -/
structure Bun where
  plane : Nat
  ctl : Word
  ws : List Word

def Bun.w (b : Bun) (i : Nat) : Word := b.ws.getD i 0

def Bun.ofBytes (plane : Nat) (bs : List Byte) : Bun :=
  let word (i : Nat) : Word := BitVec.ofNat 32 (leNat ((bs.drop (4 * i)).take 4))
  { plane, ctl := word 0, ws := [word 1, word 2, word 3] }

/-- Whether a position holds an extension word (R51). -/
def Bun.isExt (b : Bun) (i : Nat) : Bool :=
  match i with
  | 1 => hasExt (b.w 0)
  | 2 => hasExt (b.w 1) && !hasExt (b.w 0)
  | _ => false

/-- Positions that hold instructions. -/
def Bun.slots (b : Bun) : List Nat := [0, 1, 2].filter fun i => !b.isExt i

/-- The predicate field of a slot (R36). -/
def ctlPred (c : Word) (i : Nat) : BitVec 4 := c.extractLsb' (24 - 4 * i) 4

def ctlRV (c : Word) : Bool := c.getLsbD 15
def ctlBT (c : Word) : Bool := c.getLsbD 14
def ctlYH (c : Word) : Nat := field c 11 3
def ctlLV (c : Word) : Bool := c.getLsbD 10

/-- The chain bit (R43). -/
def chainBit (w : Word) : Bool := w.getLsbD 31

/-- Whether slot `i` issues in one chained group with the slot before it (R43, R51). -/
def Bun.chained (b : Bun) (i : Nat) : Bool :=
  match i with
  | 1 => !b.isExt 1 && chainBit (b.w 0)
  | 2 => if b.isExt 2 then false else if b.isExt 1 then chainBit (b.w 0) else chainBit (b.w 1)
  | _ => false

/-- A U = 1 slot (R43, R48, R53): bit 24 of every major whose format has a U bit, those that admit no U = 1 included. -/
def isUni (w : Word) : Bool :=
  let m := majorOf w
  w.getLsbD 24 && ((0x10 ≤ m && m ≤ 0x19) || (0x20 ≤ m && m ≤ 0x2B) || (0x30 ≤ m && m ≤ 0x33))

/-- A control-class word (R53). -/
def isControl (w : Word) : Bool :=
  let m := majorOf w
  (1 ≤ m && m ≤ 0xA) && !(m == 5 && (minorS w == 1 || minorS w == 2))

/-- A word of the XU pipe (R178). -/
def isXU (w : Word) : Bool := 0x30 ≤ majorOf w && majorOf w ≤ 0x33

/-- MQRY, which answers once for the fragment (R271). -/
def isMqry (w : Word) : Bool := majorOf w == 0x2D && minorS w == 7

/-- The pipe of a word (R43, R53): 0 CTL, 1 ENG, 2 ALU, 3 FPU, 4 XU, 5 MEM, 6 UNI. -/
def pipeOf (w : Word) : Option Nat :=
  let m := majorOf w
  if m ≤ 9 then some 0
  else if m = 0xA || (0x2C ≤ m && m ≤ 0x2E) then some 1
  else if isUni w then some 6
  else if (0x10 ≤ m && m ≤ 0x19) || m = 0x2B then some 2
  else if 0x20 ≤ m && m ≤ 0x2A then some 3
  else if 0x30 ≤ m && m ≤ 0x33 then some 4
  else if 0x38 ≤ m && m ≤ 0x3E then some 5
  else none

/-- Control transfers (R38). -/
def isTransfer (w : Word) : Bool :=
  let m := majorOf w
  (m == 1 && bits w 23 2 != 3) || (m == 2 && minorS w ≤ 3) || (m == 3 && bits w 23 2 == 0) || (m == 0xA && minorS w == 0)

def isLoop (w : Word) : Bool := majorOf w == 8
def isStep (w : Word) : Bool := majorOf w == 9
def isBar (w : Word) : Bool := majorOf w == 6 && minorS w ≤ 2
def isRcvwait (w : Word) : Bool := majorOf w == 5 && minorS w == 0

/-- STEP words that a LOOP claims (R147). -/
def loopNS (w : Word) : Nat := (bits w 11 2).toNat

def minList (xs : List Nat) : Option Nat :=
  match xs with
  | [] => none
  | x :: rest => some (rest.foldl min x)

/-- The lowest slot at which a bundle breaks R37, 3 for its control word. DESIGN CHOICE (log 72): a condition over two slots
names the second transfer, the later of a transfer and LOOP, the later of two chained slots of one pipe, or the LOOP whose
claim fails; and a slot's condition is named before the control word's. A LOOP with NS = 3 claims the STEP words after it,
whichever they are, so that the fault of its field (R147) is reached (DEDUCED, log 72). -/
def Bun.illegal (b : Bun) : Option Nat :=
  let sl := b.slots
  let ext := [1, 2].filter b.isExt
  let trans := sl.filter fun i => isTransfer (b.w i)
  let loops := sl.filter fun i => isLoop (b.w i)
  let ctl := if field b.ctl 28 4 ≠ 0xA ∨ field b.ctl 0 10 ≠ 0 then [3] else []
  let rv := if ctlRV b.ctl && !ctlBT b.ctl then [3] else []
  let lv := if ctlLV b.ctl && !(sl.any fun i => isBar (b.w i)) then [3] else []
  let rcv := sl.filter fun i => isRcvwait (b.w i) && !ctlRV b.ctl
  let tail := sl.filter fun i => (i == 2 && (chainBit (b.w 2) || hasExt (b.w 2))) || (i == 1 && hasExt (b.w 1) && chainBit (b.w 1))
  let cc := sl.filter fun i => isControl (b.w i) && chainBit (b.w i)
  let group (i : Nat) : List Nat :=
    if b.chained i then
      let p := if i = 2 && !b.isExt 1 then 1 else 0
      p :: (if p = 1 && b.chained 1 then [0] else [])
    else []
  let pipes := sl.filter fun i => (pipeOf (b.w i)).isSome && (group i).any fun j => pipeOf (b.w j) == pipeOf (b.w i)
  let two := (trans.drop 1).take 1
  let mix := match trans, loops with
    | t :: _, l :: _ => [max t l]
    | _, _ => []
  let isS (i : Nat) : Bool := sl.contains i && isStep (b.w i)
  let claims (i : Nat) : List Nat :=
    if loopNS (b.w i) = 3 then ([1, 2].filter fun j => i < j && isS j)
    else (List.range (loopNS (b.w i))).map fun j => i + 1 + j
  let badLoop := loops.filter fun i => !((claims i).all isS)
  let claimed := loops.flatMap claims
  let badStep := sl.filter fun i => isStep (b.w i) && (!claimed.contains i || ctlPred b.ctl i != 7)
  let badExt := ext.filter fun i => ctlPred b.ctl i != 0 || (b.w i).getLsbD 31
  minList (ctl ++ rv ++ lv ++ rcv ++ tail ++ cc ++ pipes ++ two ++ mix ++ badLoop ++ badStep ++ badExt)

/-- Decode slot `i` (R54); BRA also needs the predicate field 0b0111 (R130). -/
def Bun.decode (b : Bun) (n i : Nat) : Except DecErr Instr :=
  match decodeSlot n (b.w i) (b.w (i + 1)) with
  | .ok (.bra d) => if ctlPred b.ctl i = 7 then .ok (.bra d) else .error .field
  | r => r

/-- The lowest slot that fails to decode for a reason. -/
def Bun.badSlot (b : Bun) (n : Nat) (opcode : Bool) : Option Nat :=
  b.slots.find? fun i => match b.decode n i with
    | .error .opcode => opcode
    | .error .field => !opcode
    | .ok _ => false

/-- Positions that R96 compares: a control-class or U = 1 word in some occupied plane. -/
def compared (bs : List Bun) : List Nat :=
  [0, 1, 2].filter fun i => bs.any fun b => !b.isExt i && (isControl (b.w i) || isUni (b.w i))

/-- Where a plane's words differ from those of the lowest occupied plane (R96). -/
def Bun.differs (b b0 : Bun) (cs : List Nat) : Option Nat :=
  if b.ctl ≠ b0.ctl then some 3 else cs.find? fun i => b.w i != b0.w i

/-- The decode fault of a bundle over its occupied planes, in the order of R55: code, plane and slot. -/
def bundleFault (n : Nat) (bs : List Bun) : Option (Nat × Nat × Nat) :=
  let first (code : Nat) (f : Bun → Option Nat) : Option (Nat × Nat × Nat) :=
    bs.findSome? fun b => (f b).map fun i => (code, b.plane, i)
  match first cILLEGAL_BUNDLE Bun.illegal with
  | some r => some r
  | none => match first cILLEGAL_OPCODE fun b => b.badSlot n true with
    | some r => some r
    | none => match first cILLEGAL_FIELD fun b => b.badSlot n false with
      | some r => some r
      | none => match bs with
        | [] => none
        | b0 :: _ => first cPLANE_MISMATCH fun b => b.differs b0 (compared bs)

/-! ### The slots in issue order (R97, R98) -/

/-- A plane of the issuing fragment: its bundle and its active lanes. -/
structure PlaneBun where
  b : Bun
  lanes : Lanes

/-- Control-class and U = 1 words and MQRY act once for the fragment (R98, R271). -/
def Pass.once (p : Pass) : Bool := isControl p.word || isUni p.word || isMqry p.word

/-- A pass that takes effect in another way than in its own plane alone (R98, R177, R178). -/
def Pass.special (p : Pass) : Bool := p.once || isXU p.word

/-- The pass of one position in one plane. -/
def PlaneBun.pass (p : PlaneBun) (i : Nat) : Pass :=
  { plane := p.b.plane, lanes := p.lanes, word := p.b.w i, ext := if hasExt (p.b.w i) then p.b.w (i + 1) else 0,
    pred := ctlPred p.b.ctl i, first := !p.b.chained i, low := lowLane p.lanes }

/-- Add a pass to an item's, by plane; passes of one plane are one pass over the lanes of both. -/
def joinPass (ps : List Pass) (b : Pass) : List Pass :=
  match ps with
  | [] => [b]
  | a :: rest =>
    if a.plane = b.plane then { a with lanes := a.lanes ||| b.lanes, low := min a.low b.low } :: rest
    else if b.plane < a.plane then b :: a :: rest
    else a :: joinPass rest b

/-- The item that some passes of one slot make together: the word of the lowest plane (R98). -/
def Item.ofPasses (ord slot : Nat) (ps : List Pass) : Item :=
  match ps with
  | [] => { ord, slot, passes := [] }
  | p :: _ =>
    { ord, slot, plane := p.plane, lanes := ps.foldl (fun m x => m ||| x.lanes) 0, word := p.word, ext := p.ext, pred := p.pred,
      first := p.first, low := p.low, passes := ps }

/-- Whether two items act together: words that act once for the fragment, XU words that are the same, and passes of one
plane (R98, R178, R271). -/
def Item.joins (a b : Item) : Bool :=
  a.slot == b.slot && (a.parts.any fun x => b.parts.any fun y =>
    (x.once && y.once) || (isXU x.word && x.word == y.word) || (x.plane == y.plane && x.word == y.word))

def Item.join (a b : Item) : Item := Item.ofPasses (min a.ord b.ord) a.slot (b.parts.foldl joinPass a.parts)

def joinItem (xs : List Item) (b : Item) : List Item :=
  match xs with
  | [] => [b]
  | a :: rest => if a.joins b then a.join b :: rest else a :: joinItem rest b

/-- Insert by issue order. -/
def insertItem (xs : List Item) (b : Item) : List Item :=
  match xs with
  | [] => [b]
  | a :: rest => if a.ord ≤ b.ord then a :: insertItem rest b else b :: a :: rest

/-- Passes with their slots, in issue order (R97, R98, R177, R178): a position where some plane holds a word that acts beyond
its plane issues by itself, plane after plane, once every earlier position has issued in every plane; the positions between
such positions issue plane by plane, each plane's slots in order. -/
def orderItems (xs : List (Nat × Pass)) : List Item :=
  let special (i : Nat) : Bool := xs.any fun x => x.1 == i && x.2.special
  let run (i : Nat) : Nat := if i = 2 && special 1 then 2 else if 0 < i && special 0 then 1 else 0
  let item (x : Nat × Pass) : Item :=
    Item.ofPasses (if special x.1 then 64 * x.1 + x.2.plane else 64 * run x.1 + 4 * x.2.plane + x.1) x.1 [x.2]
  ((xs.map item).foldl joinItem []).foldl insertItem []

/-- Every slot of a bundle in issue order. -/
def buildItems (ps : List PlaneBun) : List Item := orderItems (ps.flatMap fun p => p.b.slots.map fun i => (i, p.pass i))

/-- The passes of items with their slots, each cut to the lanes of `m`; those without a lane left are gone. -/
def cutPasses (xs : List Item) (m : Lanes) : List (Nat × Pass) :=
  (xs.flatMap fun it => it.parts.map fun p => (it.slot, { p with lanes := p.lanes &&& m, low := lowLane (p.lanes &&& m) })).filter
    fun x => x.2.lanes != 0

/-- The slots that a held bundle still has to issue over the lanes of `m` (R97). -/
def resumeItems (xs : List Item) (m : Lanes) : List Item := orderItems (cutPasses xs m)

/-! ### Choosing what issues (R112, R113) -/

def Frag.isHeld (f : Frag) : Bool := f.hold != .none

/-- A fragment that may issue: not held, not stalled, with an active lane. -/
def Coach.fragReady (c : Coach) (f : Frag) : Bool :=
  !f.isHeld && f.stall.isNone && c.activeOf f != 0

/-- A coach that may issue at cycle `now`: a full store queue holds the whole coach (R212). -/
def Coach.ready (c : Coach) (now : Nat) : Bool :=
  !c.stopped && !c.tended && c.yieldTill ≤ now && !(c.frags.any fun f => f.hold == .queue) && c.frags.any c.fragReady

/-- A task whose coaches may issue. -/
def Task.issuing (t : Task) : Bool :=
  decide (t.phase = .running) && t.fate.isNone && !t.tend && !t.halted && t.saveStart.isNone

/-- The fragment that issues next: one that has waited 16 cycles before any other, then the oldest (R113). DEDUCED (log 83): a fragment
that was passed over in 16 issue cycles of its coach goes first, so that an older one that spins does not keep it from issue (R114). -/
def Coach.pick (c : Coach) (now : Nat) : Option Frag :=
  let rs := c.frags.filter c.fragReady
  let starved := rs.filter fun f => decide (16 ≤ f.passed)
  let old := rs.filter fun f => decide (f.readySince + 16 ≤ now)
  let cand := if !starved.isEmpty then starved else if old.isEmpty then rs else old
  match minList (cand.map (·.age)) with
  | some a => cand.find? fun f => f.age = a
  | none => none

/-- Whether coach `b` of task `tb` goes before coach `a` of task `ta` (R112): a reserved cycle first, then ready
longest, then the lower coach number, then the older task. -/
def goesBefore (ta : Task) (a : Coach) (tb : Task) (b : Coach) : Bool :=
  if a.reserved != b.reserved then b.reserved
  else if a.readySince != b.readySince then b.readySince < a.readySince
  else if a.num != b.num then b.num < a.num
  else tb.uid < ta.uid

def Coach.overlaps (a b : Coach) : Bool := (a.lanes &&& b.lanes) != 0

/-- Whether every octet pipeline of the coach chooses it (R112). -/
def State.chosen (s : State) (t : Task) (c : Coach) : Bool :=
  s.tasks.all fun u => !(u.issuing && u.ret == t.ret && u.cu == t.cu) ||
    u.coaches.all fun b => !(b.ready s.clock && b.overlaps c && goesBefore t c u b)

/-! ### BUNDLE_FETCH -/

/-- Planes that a fragment's active lanes occupy, ascending, with their lanes (R94). -/
def Coach.planes (c : Coach) (f : Frag) : List (Nat × Lanes) :=
  let act := c.activeOf f
  (List.range 8).filterMap fun e =>
    let m := act &&& laneMask fun l => f.ctx.plane (c.piget l) == e
    if m = 0 then none else some (e, m)

/-- Address of a plane's bundle (R94). -/
def FnCtx.bundleVA (x : FnCtx) (plane : Nat) (off : Word) : Dword :=
  x.base + BitVec.ofNat 64 (plane * x.stride) + off.zeroExtend 64

/-- Record a coach fault found at fetch or decode and stop the coach (R118, R119). -/
def Task.fetchFault (t : Task) (now : Nat) (c : Coach) (r : FaultRec) : Task :=
  ((t.record { r with cyc := now }).beginStop now).modCoach c.num fun c => { c with stopped := true }

/-- The record of a fault found at fetch: it names a plane and its lowest active lane (R96, R120). -/
def fetchRec (c : Coach) (f : Frag) (code plane slot : Nat) (low : Nat) (off : Word) (hdr : Dword) (addr : Dword) :
    FaultRec :=
  { code, sev := 2, lane := low, plane, pi := (c.piget low).toNat, coach := c.num, slot, fseq := f.age % 256, off, hdr, addr,
    age := f.age }

/-- What fetching a fragment's next bundle finds: a coach fault, a fetch outside the code, or the slots to issue. -/
inductive FetchRes where
  | fault (r : FaultRec)
  | violation (addr : Dword)
  | items (xs : List Item) (yh : Nat) (lv : Bool)

/-- Fetch and check a bundle (R37, R38, R41, R55, R93, R96). DESIGN CHOICE (log 72): a transfer's target with BT = 0 raises
MISALIGNED_TARGET before any fault of R55 that its bundle has as well, and where the planes' control words differ, BT and RV
are read from the word of the lowest occupied plane. -/
def State.fetch (s : State) (t : Task) (c : Coach) (f : Frag) : FetchRes :=
  let ps := c.planes f
  let e0 := (ps.head?.map (·.1)).getD 0
  let low0 := lowLane (c.activeOf f)
  let lowOf (e : Nat) : Nat := ((ps.find? fun p => p.1 = e).map fun p => lowLane p.2).getD low0
  let lowE0 := lowOf e0
  let size := 16 * f.ctx.len
  let fault (code plane slot : Nat) (off : Word) (hdr addr : Dword) : FetchRes :=
    .fault (fetchRec c f code plane slot (lowOf plane) off hdr addr)
  let misTarget (x : Xfer) : FetchRes :=
    .fault (fetchRec c f cMISALIGNED_TARGET e0 x.slot lowE0 x.off x.hdr (f.off.zeroExtend 64))
  let outside := decide (size ≤ f.off.toNat) || decide (f.off.toNat % 16 ≠ 0)
  match outside, f.xfer with
  | true, some x => misTarget x
  | true, none => fault cILLEGAL_BUNDLE e0 3 (BitVec.ofNat 32 (size - 16)) f.ctx.hdr 0
  | false, x =>
    match ps.find? fun p => (s.codeBytes t (f.ctx.bundleVA p.1 f.off) 16).isNone with
    | some p => .violation (f.ctx.bundleVA p.1 f.off)
    | none =>
      let bs := ps.map fun p =>
        { b := Bun.ofBytes p.1 ((s.codeBytes t (f.ctx.bundleVA p.1 f.off) 16).getD []), lanes := p.2 : PlaneBun }
      let ctl := (bs.head?.map fun p => p.b.ctl).getD 0
      if !ctlRV ctl && c.rb.any fun k => k.2.off == f.off && k.2.hdr == f.ctx.hdr then
        fault cMISALIGNED_TARGET e0 3 f.off f.ctx.hdr (f.off.zeroExtend 64)
      else
        match ctlBT ctl, x with
        | false, some x => misTarget x
        | _, _ =>
          match bundleFault t.shape.regs (bs.map (·.b)) with
          | some (code, plane, slot) => fault code plane slot f.off f.ctx.hdr 0
          | none => .items (buildItems bs) (ctlYH ctl) (ctlLV ctl)

/-- An issue cycle of the coach goes to the fragment of one age; its other ready fragments are passed over (R113, R114). -/
def Coach.passOver (c : Coach) (age : Nat) : Coach :=
  { c with frags := c.frags.map fun f => if f.age ≠ age ∧ c.fragReady f then { f with passed := f.passed + 1 } else f }

/-- The latch for a fragment whose slots are `xs`; a fault that its slots raised before a hold goes with it (R118). -/
def Issue.start (t : Task) (c : Coach) (f : Frag) (xs : List Item) (yh : Nat) (lv : Bool) : Issue :=
  let c := c.modFrag f.age fun x => { x with cfault := none }
  { task := { t.modCoach c.num (fun _ => c) with ran := true, began := true }, coach := c.passOver f.age, snap := c
    frag := { f with mid := false, items := [], snaps := [], passed := 0 }, snaps := f.snaps, items := xs, next := f.next,
    cfault := f.cfault, yh, lv, yieldN := f.yieldN }

/-- Begin a bundle, or go on with one whose hold has ended (R47, R97). -/
def State.fetchInto (s : State) (t : Task) (c : Coach) (f : Frag) : State :=
  if f.mid then
    { s with issue := some (Issue.start t c f (resumeItems f.items (c.activeOf f)) f.yh f.lv) }
  else match s.fetch t c f with
    | .fault r => (s.modTask t.uid fun t => { t with ran := true, began := true }.fetchFault s.clock c r).tick 1
    | .violation a =>
      (s.modTask t.uid fun t => (c.planes f).foldl (fun t p => (laneList p.2).foldl (fun t l =>
        t.parkLane s.clock c.num { plane := p.1, slot := 3, age := f.age, off := f.off, hdr := f.ctx.hdr } l cWINDOW_VIOLATION a) t)
          { t with ran := true, began := true }).tick 1
    | .items xs yh lv =>
      { s with issue := some (Issue.start t c { f with xfer := none, next := .seq, cfault := none, yieldN := none } xs yh lv) }

/-- Whether BUNDLE_FETCH may occur for a coach, and the fragment it takes. -/
def State.fetchable (s : State) (t c : Nat) : Option (Task × Coach × Frag) :=
  match s.issue, s.task? t with
  | none, some tk =>
    match tk.coach? c with
    | some co =>
      if tk.issuing && co.ready s.clock && s.chosen tk co then (co.pick s.clock).map fun f => (tk, co, f) else none
    | none => none
  | _, _ => none

/-- BUNDLE_FETCH (R38, R41, R55, R94, R112, R113). -/
def execBundleFetch (t c : Nat) (s : State) : Out :=
  .next (match s.fetchable t c with
    | some (tk, co, f) => s.fetchInto tk co f
    | none => s)

/-! ### Readiness (R39, R112, R113, R126, R128) -/

/-- A fragment becomes ready at cycle `now`; its coach too, when no other fragment was. -/
def Coach.wake (c : Coach) (now age : Nat) (f : Frag → Frag) : Coach :=
  let was := c.frags.any c.fragReady
  let c := c.modFrag age fun x => { f x with readySince := now }
  if was then c else { c with readySince := now, reserved := false }

/-- A coach of a task, with both found by name. -/
def State.coach? (s : State) (t c : Nat) : Option (Task × Coach) :=
  (s.task? t).bind fun tk => (tk.coach? c).map fun co => (tk, co)

/-- YIELD_HINT_END: the hint of the last bundle ends (R39). -/
def execYieldHintEnd (t c : Nat) (s : State) : Out :=
  whenOk s ((s.coach? t c).any fun x => x.2.yieldTill != 0 && x.2.yieldTill ≤ s.clock) fun s =>
    s.modCoach t c fun co => { co with yieldTill := 0, readySince := s.clock, reserved := false }

/-- FRAGMENT_READY: the cycles that R126, R141 and R144 keep a fragment from issue are over. -/
def execFragmentReady (t c age : Nat) (s : State) : Out :=
  whenOk s ((s.coach? t c).any fun x => (x.2.frag? age).any fun f => f.stall.any fun st => !st.yielded && st.till ≤ s.clock)
    fun s => s.modCoach t c fun co => co.wake s.clock age fun f => { f with stall := none }

/-- YIELD_EXPIRY: n cycles after the bundle of a YIELD, the fragment ranks as just become ready (R128). -/
def execYieldExpiry (t c age : Nat) (s : State) : Out :=
  whenOk s ((s.coach? t c).any fun x => (x.2.frag? age).any fun f => f.stall.any fun st => st.yielded && st.till ≤ s.clock)
    fun s => s.modCoach t c fun co => co.wake s.clock age fun f => { f with stall := none }

/-- ISSUE_RESERVATION: a coach ready for 32 cycles has the next issue cycle of its pipelines reserved (R112). -/
def execIssueReservation (t c : Nat) (s : State) : Out :=
  whenOk s ((s.coach? t c).any fun x => x.1.issuing && x.2.ready s.clock && x.2.readySince + 32 ≤ s.clock) fun s =>
    s.modCoach t c fun co => { co with reserved := true }

/-- FRAGMENT_PRIORITY: a fragment ready for 16 cycles goes before any that has waited less, the oldest first (R113);
the rank shows in `Coach.pick`, so the fragment that the rule names issues now. -/
def execFragmentPriority (t c age : Nat) (s : State) : Out :=
  .next (match s.fetchable t c with
    | some (tk, co, f) => if f.age = age ∧ f.readySince + 16 ≤ s.clock then s.fetchInto tk co f else s
    | none => s)

/-- INTERLOCK_RESULT_WRITTEN: a pipe writes a result, which a waiting reader may then use (R45, R159). Values stand
in the registers from issue on, so only the count of results on their way changes. -/
def execInterlockResultWritten (t c : Nat) (s : State) : Out :=
  whenOk s ((s.coach? t c).any fun x => x.2.interlocks != 0) fun s =>
    s.modCoach t c fun co => { co with interlocks := co.interlocks - 1 }

end Sys2Proof.Machine
end

