-- ==== Sys2Proof/Machine/Bundle.lean ====
section
/-! DEFINITION. The life of a bundle in the issue latch: the holds before a slot issues (R6, R119, R212), the bundle's
end (R47, R100, R118, R131 to R135, R149 to R151), and what follows from it for held fragments (R101, R105 to R111,
R137, R141, R143, R144). -/

namespace Sys2Proof.Machine

/-! ### Before a slot issues -/

/-- The class a slot word counts on when it issues (R5). -/
def clsOfWord (w : Word) : Option Cls :=
  let m := majorOf w
  if m = 0x38 || m = 0x3A || m = 0x3C || m = 0x3D then some .l
  else if m = 0x39 || m = 0x3B then some .s
  else if m = 0x3E && (minorS w = 1 || minorS w = 4) then some .l
  else if m = 0x2C && minorS w = 2 then some .c
  else if m = 0x2D && minorS w ≤ 6 then some .t
  else if m = 0x2E && minorS w ≤ 3 then some .n
  else none

/-- Convergence points (R119). -/
def isConvergence (w : Word) : Bool :=
  isBar w || (majorOf w == 5 && (minorS w == 0 || minorS w == 3 || minorS w == 4)) || (majorOf w == 0xA && minorS w == 0)

/-- What remains, from the first item on, of the chained group of its plane (R43, R97). -/
def headGroup (xs : List Item) : List Item :=
  match xs with
  | [] => []
  | it :: rest =>
    let mine (x : Item) : Option Pass := x.parts.find? fun p => p.plane = it.plane
    it :: (rest.filter fun x => (mine x).isSome).takeWhile fun x => (mine x).any fun p => !p.first

/-- Coaches that a task's numbers stand for, but for one coach: a coach that waits at CSPLIT counts as its siblings to be (R104). -/
def Task.coachesBut (t : Task) (num : Nat) : Nat :=
  ((t.coaches.filter fun c => c.former.isNone && c.num != num).map fun c =>
    match c.frags with
    | [f] => match f.hold with
      | .csplit w => c.width / w
      | _ => 1
    | _ => 1).sum

/-- The faults that CSPLIT meets when it issues, the first in order (R104, R140). -/
def Issue.splitFault (is : Issue) (wl : BitVec 2) : Option Nat :=
  let w := 2 ^ wl.toNat
  if wl = 3 || is.coach.width ≤ w then some cILLEGAL_FIELD
  else if is.coach.frags.length ≠ 1 then some cCONVERGENCE_REQUIRED
  else if 16 < is.task.coachesBut is.coach.num + is.coach.width / w then some cSPLIT_OVERFLOW
  else none

/-- Seals that copies of `n` lanes bring about in a batch that holds `k` (R254). -/
def sealsOf (k n : Nat) : Nat := (k + n - 1) / 16

/-- How much the pass of a slot adds to a class counter (R5, R6): one for a counted instruction; one for a seal, of CP.SEAL with
its q predicate true and of a CSPLIT or CFUSE that finds an open batch; one for each full batch that CP.T and CP.L seal. -/
def Issue.counts (is : Issue) (it : Item) (k : Cls) : Nat :=
  let w := it.word
  if it.pred = 0xF then 0
  else if clsOfWord w = some .c then (if k = .c && is.coach.qenable it.pred then 1 else 0)
  else if clsOfWord w = some k then 1
  else if k != .c then 0
  else if majorOf w = 0x2C && minorS w ≤ 1 then
    let n := (laneList (it.lanes &&& is.active &&& is.coach.penable it.pred)).length
    if n = 0 then 0 else sealsOf is.coach.openBatch.length n
  else if majorOf w = 5 && (minorS w = 3 && (is.splitFault (bits w 18 2)).isNone ||
      minorS w = 4 && is.coach.frags.length = 1 && !is.coach.sibs.isEmpty) then
    (if is.coach.qenable it.pred && !is.coach.openBatch.isEmpty then 1 else 0)
  else 0

/-- What keeps the next slot from issuing: a convergence point of a stopping task (R119), a full counter (R6) or a
full store queue (R212). DESIGN CHOICE (log 73): a convergence point whose predicate is false for the data at hand holds a
fragment of a stopping task as well; only the constant-false field 0b1111 passes. A pass that joined another plane's slot may be held
inside its chained group, whose earlier slots stand (R6). -/
def Issue.blocked (is : Issue) : Hold :=
  match is.items with
  | [] => .none
  | it :: _ =>
    if is.task.stopSince.isSome && isConvergence it.word && it.pred != 0xF then .stopped
    else
      let g := headGroup is.items
      let need (k : Cls) : Nat := (g.map fun x => is.counts x k).sum
      match [Cls.l, .s, .c, .t, .n].find? fun k => 0 < need k && 63 < is.coach.count k + need k with
      | some k => .counter k (need k)
      | none => if 0 < need .s && 16 < is.coach.queued.length + need .s then .queue else .none

/-- Whether a slot's result is written with interlock (R8, R45). -/
def writesInterlocked (w : Word) : Bool :=
  match pipeOf w with
  | some 0 => majorOf w == 0 && (minorS w == 2 || minorS w == 3 || minorS w == 6)
  | some 1 => (majorOf w == 0x2C && 2 ≤ minorS w) || (majorOf w == 0x2D && minorS w == 7) || (majorOf w == 0x2E && minorS w == 4)
  | some 5 => false
  | some _ => true
  | none => false

/-- The entries of a table that belong to lanes of `m`. -/
def laneTab {β : Type} (m : Lanes) (t : Table β) : Table β := t.filter fun x => m.getLsbD (x.1 % 64)

/-- A coach's per-lane state cut to some lanes (R104). -/
def Coach.restrict (c : Coach) (m : Lanes) : Coach :=
  { c with v := laneTab m c.v, pi := laneTab m c.pi, sr := laneTab m c.sr
           p := (c.p.map fun x => (x.1, x.2 &&& m)).filter fun x => x.2 != 0
           live := c.live &&& m, parked := c.parked &&& m, cy := c.cy &&& m }

/-- Join two tables whose keys do not meet. -/
def mergeTab {β : Type} [DecidableEq β] (d : β) (a b : Table β) : Table β := b.foldl (fun t x => tput d t x.1 x.2) a

/-- Join the per-lane state of two coaches of disjoint lanes (R106). -/
def Coach.joinLanes (a b : Coach) : Coach :=
  { a with v := mergeTab 0 a.v b.v, pi := mergeTab 0 a.pi b.pi, sr := mergeTab 0 a.sr b.sr
           p := b.p.foldl (fun t x => tput 0 t x.1 (tget 0 t x.1 ||| x.2)) a.p
           live := a.live ||| b.live, parked := a.parked ||| b.parked, cy := a.cy ||| b.cy }

/-- The coach that an item reads (R44, R98): lanes of its passes as they stood before the chained group of their own plane,
every other lane as it stands, and the coach's own registers as they stood before the group of the item's lowest plane. -/
def Issue.view (is : Issue) (it : Item) (old : List Snap) : Coach :=
  let snapOf (p : Pass) : Option Snap := if p.first then none else old.find? fun x => x.plane = p.plane
  if it.parts.all fun p => (snapOf p).isNone then is.coach
  else
    let base := (it.parts.head?.bind snapOf).elim is.coach fun x => is.coach.withRegs x.regs
    let past := it.parts.filterMap fun p => (snapOf p).map fun x => (p.lanes, is.coach.withRegs x.regs)
    let rest := past.foldl (fun m x => m &&& ~~~x.1) (BitVec.allOnes 64)
    past.foldl (fun c x => c.joinLanes (x.2.restrict x.1)) ((base.restrict 0).joinLanes (is.coach.restrict rest))

/-- The groups in issue once the slot in issue is over, with the flags that it raised in the planes that it joined (R76). -/
def Issue.leave (is : Issue) : List Snap :=
  is.snaps.map fun x => if is.cur.parts.any fun p => p.plane = x.plane then { x with flags := x.flags ||| is.flags } else x

/-- Entries of a table brought up to date with what changed between two others. -/
def patchTab {β : Type} [DecidableEq β] (d : β) (t before now : Table β) : Table β :=
  ((before ++ now).map (·.1)).eraseDups.foldl (fun t k =>
    if tget d before k = tget d now k then t else tput d t k (tget d now k)) t

/-- What a slot outside a plane's chained group wrote to the coach's own registers stands for that group as well (R98). -/
def Regs.patch (r : Regs) (before now : Coach) : Regs :=
  { r with g := patchTab 0 r.g before.g now.g
           q := (r.q &&& ~~~(before.q ^^^ now.q)) ||| (now.q &&& (before.q ^^^ now.q))
           gcy := if before.gcy = now.gcy then r.gcy else now.gcy
           gmode := (r.gmode &&& ~~~(before.gmode ^^^ now.gmode)) ||| (now.gmode &&& (before.gmode ^^^ now.gmode))
           exv := if before.exv = now.exv then r.exv else now.exv }

/-- After a slot: the open groups of the planes that took no part in it see what it wrote to the coach's own registers. -/
def Issue.patchSnaps (before : Coach) (is : Issue) : Issue :=
  { is with snaps := is.snaps.map fun x =>
      if is.cur.parts.any fun p => p.plane = x.plane then x else { x with regs := x.regs.patch before is.coach } }

/-- The v register that the word of an interlocked pipe names as destination (R46, R53). -/
def vDest (w : Word) : Option Nat :=
  let m := majorOf w
  if isUni w || m = 0x14 || m = 0x24 || (m = 0x16 && minorT w = 7) then none
  else if m = 0x17 then some (bits w 17 7).toNat
  else if (0x10 ≤ m && m ≤ 0x19) || (0x20 ≤ m && m ≤ 0x2B) || m = 0x30 || m = 0x33 then some (bits w 14 7).toNat
  else none

/-- Keys of the v registers that the slot in issue writes by its word. -/
def Issue.wrote (is : Issue) : List Nat :=
  match vDest is.cur.word with
  | some d => (laneList is.enabled).map fun l => vkey d l
  | none => []

/-- Take the next slot into issue; the first slot of a chained group of a plane fixes the values that the group's slots
read there (R44, R97). -/
def Issue.begin (is : Issue) : Issue :=
  match is.items with
  | [] => is
  | it :: rest =>
    let old := is.leave
    let opens := it.parts.filter (·.first)
    let new : List Snap := opens.map fun p =>
      { plane := p.plane, regs := is.coach.regs, oldest := (is.task.faults.head?.map (·.code)).getD 0, slot := it.slot }
    let snaps := old.filter (fun x => opens.all fun p => p.plane != x.plane) ++ new
    let mine := snaps.find? fun x => x.plane = it.plane
    let flags := if 1 < it.parts.length then 0 else (mine.map (·.flags)).getD 0
    let is := { is with cur := it, items := rest, snap := is.view it old, snaps, flags
                        oldest := (mine.map (·.oldest)).getD 0, grp := (mine.map (·.slot)).getD it.slot }
    if writesInterlocked it.word then is.onCoach fun c => { c with interlocks := c.interlocks + 1 } else is

/-! ### The end of a bundle -/

/-- Pop loop entries of the current call depth whose range does not hold the target (R151). -/
def dropOutside (depth : Nat) (tgt : Word) (loops : List LoopEntry) : List LoopEntry :=
  match loops with
  | [] => []
  | e :: rest =>
    if e.depth = depth && !(e.start ≤ tgt && tgt ≤ e.stop) then dropOutside depth tgt rest else e :: rest

/-- Apply a STEP word to the active lanes `m` (R150). -/
def Coach.applyStep (c : Coach) (m : Lanes) (x : StepWord) : Coach :=
  let inc := x.inc.signExtend 32
  if x.file then c.gput x.reg.toNat (c.gget x.reg.toNat + inc)
  else c.vputs x.reg.toNat (laneList m) fun l => c.vget x.reg.toNat l + inc

/-- The ends of passes at a bundle left by sequential flow (R150): the coach, and the fragment's loops and offset. -/
def endPasses (fuel : Nat) (c : Coach) (m : Lanes) (off : Word) (depth : Nat) (loops : List LoopEntry) :
    Coach × List LoopEntry × Word :=
  match fuel, loops with
  | fuel + 1, e :: rest =>
    if e.depth = depth && e.stop = off then
      let c := e.steps.foldl (fun c x => c.applyStep m x) c
      if 1 < e.left.toNat then (c, { e with left := e.left - 1 } :: rest, e.start)
      else endPasses fuel c m off depth rest
    else (c, loops, off + 16)
  | _, _ => (c, loops, off + 16)

/-- Leave a bundle by sequential flow. -/
def Coach.seqEnd (c : Coach) (f : Frag) : Coach × Frag :=
  let r := endPasses 5 c (c.activeOf f) f.off f.calls.length f.loops
  (r.1, { f with loops := r.2.1, off := r.2.2, xfer := none })

/-- Cycles for which a transfer keeps its fragment from issue (R126). -/
def stallFor (now n : Nat) : Option Stall := some { till := now + n, yielded := false }

/-- The end of a bundle whose slots have all issued (R47): the coach afterwards, its fragment put back. -/
def Issue.apply (now : Nat) (is : Issue) : Coach :=
  let c := is.coach
  let f := { is.frag with mid := false, items := [], hold := .none, next := .seq, readySince := now }
  let put (c : Coach) (f : Frag) : Coach := c.modFrag f.age fun _ => f
  match is.next with
  | .seq =>
    let r := c.seqEnd f
    put r.1 r.2
  | .skip off => put c { f with off, xfer := none, stall := stallFor now 2 }
  | .jump off => put c { f with off, loops := dropOutside f.calls.length off f.loops, stall := stallFor now 2 }
  | .call ctx =>
    put c { f with ctx, off := 0, calls := { ctx := f.ctx, off := f.off + 16 } :: f.calls, stall := stallFor now 4 }
  | .ret =>
    match f.calls with
    | [] => put { c with live := c.live &&& ~~~(c.activeOf f) } f
    | e :: rest =>
      put c { f with ctx := e.ctx, off := e.off, calls := rest, stall := stallFor now 2,
                     loops := f.loops.filter fun l => decide (l.depth ≤ rest.length) }
  | .exit => put { c with live := c.live &&& ~~~(c.activeOf f) } f
  | .tend => put c f
  | .split lanes off =>
    let taken : Frag := { f with mask := lanes, off, age := c.nextAge, stall := stallFor now 2,
                                 loops := dropOutside f.calls.length off f.loops }
    let r := c.seqEnd { f with mask := f.mask &&& ~~~lanes }
    let c := put r.1 r.2
    { c with frags := c.frags ++ [taken], nextAge := c.nextAge + 1 }

/-- Drop fragments whose lanes have all ended; one that holds a parked lane stays (R135). -/
def Coach.dropEnded (c : Coach) : Coach := { c with frags := c.frags.filter fun f => f.mask &&& c.live != 0 }

/-- Put the coach of the latch back into its task. -/
def Issue.back (is : Issue) : Task := is.task.modCoach is.coach.num fun _ => is.coach

/-- Check in a held bundle: the fragment keeps the slots after the holding slot (R47, R97). -/
def Issue.checkHeld (now : Nat) (is : Issue) (h : Hold) : Task :=
  let it := match h with
    | .counter .. => is.items.headD is.cur
    | .queue => is.items.headD is.cur
    | .stopped => is.items.headD is.cur
    | _ => is.cur
  let f := { is.frag with hold := h, mid := true, items := is.items, next := is.next, cfault := is.cfault,
                          heldSlot := it.slot, heldPlane := it.plane, heldLow := it.low, heldAt := now,
                          fuseAt := none, lv := is.lv, yh := is.yh,
                          yieldN := is.yieldN
                          snaps := match h with
                            | .counter .. => is.leave
                            | .queue => is.leave
                            | _ => [] }
  -- a TEND reached in a stopping task is not executed; with a lane parked in the task it ends the stop at once (R119, R316)
  let parked := is.coach.parked != 0 || is.task.coaches.any fun c => c.parked != 0
  let ends := h == .stopped && majorOf it.word == 0xA && is.coach.qenable it.pred && parked
  let is := if ends then { is with task := { is.task with halted := true } } else is
  Issue.back (is.onCoach fun c =>
    { c.modFrag f.age (fun _ => f) with readySince := now + 1, reserved := false }.dropEnded)

/-- Check in a bundle that has issued all its slots: its end takes effect, and a coach fault that a slot raised then stops the
coach (R118). -/
def Issue.checkIn (now : Nat) (is : Issue) : Task :=
  let c := is.apply (now + 1)
  let c := match is.yieldN with
    | some n => c.modFrag is.frag.age fun f => { f with stall := some { till := now + 1 + n, yielded := true } }
    | none => c
  let c := { c with readySince := now + 1, reserved := false, yieldTill := if is.yh = 0 then 0 else now + 1 + is.yh }
  let done := { is with coach := c }
  let done := match is.cfault with
    | some x => done.stopCoach now (slotRec is.coach is.frag x now)
    | none => done
  (done.onCoach Coach.dropEnded).back

/-! ### Fusing fragments (R101, R125, R137) -/

/-- Whether two fragments fuse (R125). DESIGN CHOICE (log 74): what their held bundles do at their end, such as a transfer that
issued before the hold, must be equal as well. -/
def Frag.fuses (a b : Frag) : Bool :=
  a.off == b.off && a.ctx == b.ctx && a.calls == b.calls && a.loops == b.loops && a.next == b.next

/-- The fusion of two fragments: the age of the older, the slots that remain in either (R97, R125). -/
def Frag.fuse (a b : Frag) : Frag :=
  { a with mask := a.mask ||| b.mask, age := min a.age b.age, items := a.items ++ b.items
           cfault := match a.cfault, b.cfault with
             | some x, some y => if y.plane < x.plane then some y else some x
             | some x, none => some x
             | none, y => y }

/-- The lanes that a pending branch takes, and where to; none for what is no branch. -/
def Frag.branch (f : Frag) : Option (Lanes × Word) :=
  match f.next with
  | .seq => some (0, 0)
  | .jump off => some (f.mask, off)
  | .split m off => some (m, off)
  | _ => none

/-- What a bundle's end does for fragments that CFUSE joins: the branches that BRD took before the hold stay with the lanes
that took them; of other transfers the first fragment's stands (DESIGN CHOICE, log 74). -/
def joinNext (a b : Frag) : Next :=
  match a.branch, b.branch with
  | some x, some y =>
    let m := x.1 ||| y.1
    let off := if x.1 = 0 then y.2 else x.2
    if m = 0 then .seq else if (a.mask ||| b.mask) &&& ~~~m = 0 then .jump off else .split m off
  | _, _ => a.next

/-- A pending transfer cut to some lanes of its fragment. -/
def Next.cut (n : Next) (active m : Lanes) : Next :=
  match n with
  | .split l off => if l &&& m = 0 then .seq else if active &&& m &&& ~~~l = 0 then .jump off else .split (l &&& m) off
  | n => n

/-- Put a fragment into a list, fusing it with the first that it fuses with. -/
def fuseInto (fs : List Frag) (b : Frag) : List Frag :=
  match fs with
  | [] => [b]
  | a :: rest => if a.fuses b then a.fuse b :: rest else a :: fuseInto rest b

/-- Release fragments: those picked by `sel` fuse where they may and become ready at `now`, after `n` cycles. -/
def Coach.release (c : Coach) (now n : Nat) (fuse : Bool) (pickF : Frag → Bool) : Coach :=
  let was := c.frags.any c.fragReady
  let free := (c.frags.filter pickF).map fun f =>
    { f with hold := .none, readySince := now, stall := if n = 0 then none else stallFor now n }
  let free := if fuse then free.foldl fuseInto [] else free
  { c with frags := c.frags.filter (fun f => !pickF f) ++ free, readySince := if was then c.readySince else now,
           reserved := c.reserved && was }

/-- The reconvergence register of an index (R101). -/
def Coach.rbGet (c : Coach) (k : BitVec 2) : Option Rcv := (c.rb.find? fun x => x.1 = k).map (·.2)

def Coach.rbPut (c : Coach) (k : BitVec 2) (r : Option Rcv) : Coach :=
  { c with rb := c.rb.filter (fun x => x.1 != k) ++ (r.map fun x => (k, x)).toList }

/-- Whether a fragment stands where a reconvergence register points (R137). -/
def Frag.atRcv (f : Frag) (r : Rcv) : Bool := f.off == r.off && f.ctx.hdr == r.hdr

/-- What rbk now says of the fragments held at RCVWAIT rbk (R137): those that no longer match are released unfused;
when every lane of the mask is held here or has ended, the rest fuse and rbk becomes empty. -/
def Coach.settleRcv (c : Coach) (now : Nat) (k : BitVec 2) : Coach :=
  let held (f : Frag) : Bool := f.hold == .rcv k
  if c.frags.any held then
    match c.rbGet k with
    | none => c.release now 0 false held
    | some r =>
      let c := if c.frags.any fun f => held f && !f.atRcv r then c.release now 0 false fun f => held f && !f.atRcv r else c
      let there := (c.frags.filter held).foldl (fun m f => m ||| f.mask) 0
      if c.frags.any held && r.mask &&& c.live &&& ~~~(there &&& ~~~c.parked) == 0 then
        (c.release now 0 true held).rbPut k none
      else c
  else c

/-! ### Barriers (R107 to R111, R143, R144) -/

/-- A barrier of a task; all its numbers are 0 at the start (R107). -/
def Task.barrier (t : Task) (id : Nat) : Barrier :=
  ((t.barriers.find? fun x => x.1 = id).map (·.2)).getD { count := 0, k := 0, gen := 0 }

def Task.setBarrier (t : Task) (id : Nat) (b : Barrier) : Task :=
  { t with barriers := t.barriers.filter (fun x => x.1 != id) ++ [(id, b)] }

/-- Whether a fragment's hold at a barrier has ended. A barrier of a stopping task is not released (R111), nor a
fragment at a live-table barrier of a task marked for pre-emption (R342). -/
def Task.genOver (t : Task) (f : Frag) : Bool :=
  match f.hold with
  | .gen _ id g => g ≤ (t.barrier id).gen && t.stopSince.isNone && !(t.mark.isSome && f.lv)
  | _ => false

/-- Release what a barrier's generation has freed; holders of one barrier fuse, BAR.WAIT does not (R143, R144). -/
def Task.settleGen (t : Task) (now : Nat) (c : Coach) : Coach :=
  let freed := c.frags.filter t.genOver
  freed.foldl (fun c f =>
    match f.hold with
    | .gen true id g =>
      if c.frags.any fun x => x.hold == f.hold then
        c.release now (if g = 0 then 0 else 2) true fun x => x.hold == .gen true id g && t.genOver x
      else c
    | .gen false id g => c.release now 2 false fun x => x.hold == .gen false id g && x.age == f.age
    | _ => c) c

/-! ### Resizing (R104 to R106, R141) -/

/-- Whether the five class counters stand at zero (R104). -/
def Coach.idle (c : Coach) : Bool := c.ops.all fun o => o.done || o.cls.isNone

/-- Seal the open batch; its number goes up (R256). -/
def Coach.seal (c : Coach) (x : Site) (now : Nat) : Coach :=
  { c.addOp { seq := 0, cls := some .c, site := x, body := .batch c.nextBatch.toNat c.openBatch c.openErr, start := now } with
    openBatch := [], openErr := c.openErr.map fun e => (e.1, 0, 0), nextBatch := c.nextBatch + 1 }

/-- Seal the open batch when it holds copies (R104, R105). -/
def Coach.sealOpen (c : Coach) (x : Site) (now : Nat) : Coach := if c.openBatch.isEmpty then c else c.seal x now

/-- The task's lowest coach numbers that no coach holds (R104). -/
def Task.freeNums (t : Task) : List Nat := (List.range 16).filter fun n => !(t.coaches.any fun c => c.num == n)

/-- Fences that are outstanding, which order what the coach's lanes do next wherever they go (R141, R219, R232). -/
def Coach.fences (c : Coach) : List Op := c.ops.filter fun o => !o.done && o.isFence

/-- Whether anything that a coach asked for is still to come. -/
def Coach.busy (c : Coach) : Bool := !c.openBatch.isEmpty || c.ops.any fun o => !o.done

/-- Sibling `j` of a coach that splits to width `w` (R104, R141). DESIGN CHOICE (log 75): the generations of BAR.ARR that are
outstanding go to sibling 0, and each sibling holds a copy of CPSTAT. -/
def Coach.sibling (c : Coach) (now w id j num : Nat) (f : Frag) : Coach :=
  let o := c.octet0 + j * w
  let m := octetLanes o w
  let xs := (cutPasses f.items m).map fun x => Item.ofPasses 0 x.1 [x.2]
  let f := { f with mask := f.mask &&& m, age := 0, hold := .none, items := xs, next := f.next.cut (c.activeOf f) m
                    readySince := now, stall := stallFor now 4 }
  { c.restrict m with
    num, octet0 := o, width := w, rb := [], frags := [f], nextAge := 1, ops := c.fences
    arrived := if j = 0 then c.arrived else []
    fresh := c.fresh.filter fun x => m.getLsbD (x.key % 64)
    crossed := []
    sibs := { id, width := c.width, octet0 := c.octet0, num := c.num } :: c.sibs, readySince := now, reserved := false }.dropEnded

/-- What a coach has outstanding that belongs to no lane that goes on: of one whose lanes have ended everything, else what counts on no
class and orders nothing (R9, R105, R219). -/
def Coach.leftover (c : Coach) : Coach :=
  if c.live = 0 then c else { c with ops := c.ops.filter fun o => !o.done && !o.isFence, openBatch := [] }

/-- What is left of coaches whose numbers become free or go to another coach, under keys that no coach of the task has (R9, R105). -/
def Task.remains (t : Task) (cs : List Coach) : List Coach :=
  let key := (t.coaches.map (·.num + 1)).foldl max 16
  ((cs.map Coach.leftover).filter Coach.busy).zipIdx.map fun x =>
    { x.1 with num := key + x.2, former := some x.1.label, frags := [], rb := [], sibs := [], live := 0, parked := 0 }

/-- The signals of a task whose coaches `cs` give way to others: one of a coach that is left in `rest` waits for that, and for any
other everything that it waits for has completed (R9). -/
def Task.passSignals (t : Task) (cs rest : List Coach) : List Signal :=
  t.signals.map fun x =>
    match cs.find? fun c => c.num = x.coach with
    | none => x
    | some c =>
      match if c.live = 0 then rest.find? fun r => r.former = some c.label else none with
      | some r => { x with coach := r.num }
      | none => { x with seq := 0 }

/-- Split a coach whose counters have reached zero. -/
def Task.splitCoach (t : Task) (now w id : Nat) (c : Coach) (f : Frag) : Task :=
  let nums := c.num :: t.freeNums
  let sibs := (List.range (c.width / w)).map fun j => c.sibling now w id j (nums.getD j 0) f
  let rest := t.remains [c]
  { t with coaches := t.coaches.filter (fun x => x.num != c.num) ++ sibs ++ rest, signals := t.passSignals [c] rest }

/-- The fragment held at CFUSE with nothing outstanding, if the coach stands so (R105). -/
def Coach.atFuse (c : Coach) : Option Frag :=
  match c.frags with
  | [f] => if f.hold == .cfuse && c.idle then some f else none
  | _ => none

/-- Members of a sibling set. -/
def Task.members (t : Task) (id : Nat) : List Coach := t.coaches.filter fun c => c.sibs.any fun x => x.id == id

/-- Insert a coach by number. -/
def insertCoach (xs : List Coach) (b : Coach) : List Coach :=
  match xs with
  | [] => [b]
  | a :: rest => if a.num ≤ b.num then a :: insertCoach rest b else b :: a :: rest

/-- Flags of GMODE ORed over coaches (R77). -/
def orFlags (cs : List Coach) : Word := cs.foldl (fun g c => g ||| (c.gmode &&& 0x1F00#32)) 0

/-- The coach that a sibling set fuses into (R77, R106, R141, R256). DESIGN CHOICE (log 75): of the generations of BAR.ARR that
are outstanding it keeps those of the lowest-numbered live sibling, and its CPSTAT is that sibling's. -/
def fuseCoach (now : Nat) (x : SibSet) (all live : List Coach) : Option Coach :=
  match live with
  | [] => none
  | c0 :: _ =>
    let low := (all.foldl insertCoach []).headD c0
    let joined := all.foldl (fun a c => a.joinLanes c) (c0.restrict 0)
    let frag := live.foldl (fun a c => match a, c.frags with
      | none, [f] => some f
      | some a, [f] => some { a.fuse f with next := joinNext a f }
      | a, _ => a) none
    frag.map fun f =>
      { joined with
        num := low.num, octet0 := x.octet0, width := x.width
        gmode := (low.gmode &&& 0x1F#32) ||| orFlags all
        exv := c0.exv, nextBatch := low.nextBatch, rb := [], nextAge := 1
        ops := [], seq := (all.map (·.seq)).foldl max 0, lost := all.flatMap (·.lost)
        fresh := all.flatMap (·.fresh), crossed := [], mxSat := all.any (·.mxSat), mxNan := all.any (·.mxNan)
        frags := [{ f with age := 0, mask := f.mask, hold := .none, readySince := now, stall := stallFor now 4 }]
        sibs := c0.sibs.drop 1, readySince := now, reserved := false }

/-- Complete a sibling set whose live members all stand at CFUSE (R106). -/
def Task.settleFuse (t : Task) (now : Nat) (x : SibSet) : Task :=
  let all := t.members x.id
  let live := (all.filter fun c => c.live != 0).foldl insertCoach []
  let ready := live.all fun c => !c.stopped && c.atFuse.isSome && (c.sibs.head?.map (·.id)) == some x.id
  if live.isEmpty || !ready then t
  else
    let fs := live.filterMap Coach.atFuse
    let same := match fs with
      | [] => true
      | f :: rest => rest.all fun g => g.off == f.off && g.ctx == f.ctx && g.calls == f.calls && g.loops == f.loops
    if same then
      match fuseCoach now x all live with
      | some c =>
        let c := (live.flatMap Coach.fences).foldl Coach.addOp c
        let rest := t.remains all
        { t with coaches := t.coaches.filter (fun y => !(y.sibs.any fun z => z.id == x.id)) ++ c :: rest, signals := t.passSignals all rest }
      | none => t
    else
      -- the last sibling to arrive, with its counters at zero, is named (R105, R106)
      let last := live.foldl (fun (a : Option (Coach × Frag)) c => match a, c.atFuse with
        | none, some f => some (c, f)
        | some (b, g), some f => if g.fuseAt.getD 0 ≤ f.fuseAt.getD 0 then some (c, f) else some (b, g)
        | a, none => a) none
      match last with
      | none => t
      | some (c, f) =>
        t.fetchFault now c (fetchRec c f cFUSE_MISMATCH f.heldPlane f.heldSlot f.heldLow f.off f.ctx.hdr 0)

/-- Note the cycle from which a coach stands at CFUSE with its counters at zero: its arrival (R105, R106). -/
def Coach.noteFuse (c : Coach) (now : Nat) : Coach :=
  match c.atFuse with
  | some f => c.modFrag f.age fun f => { f with fuseAt := some (f.fuseAt.getD now) }
  | none => c

/-- What follows at once for the held fragments of a task that is not stopping. -/
def Task.settleHolds (t : Task) (now : Nat) : Task :=
  let t := { t with coaches := t.coaches.map fun (c : Coach) =>
    if c.stopped then c
    else t.settleGen now ([0, 1, 2, 3].foldl (fun (d : Coach) k => d.settleRcv now (BitVec.ofNat 2 k)) (c.noteFuse now)) }
  let sets := (t.coaches.filterMap fun (c : Coach) => if c.frags.any fun f => f.hold == .cfuse then c.sibs.head? else none).eraseDups
  sets.foldl (fun t x => t.settleFuse now x) t

/-- Everything that follows at once for the held fragments of a task; in a stopping task they stay held (R156), and after a
TEND they stop where they stand (R316): what their issued slots raised is recorded once the task goes no further (R118). What is
left of a coach goes when nothing of it is outstanding. -/
def Task.settle (t : Task) (now : Nat) : Task :=
  let t := { t with coaches := t.coaches.filter fun c => c.former.isNone || c.busy }
  if t.stopDone || t.tend then t.flushFaults
  else if t.stopSince.isSome then t
  else t.settleHolds now

/-- A request of what was coach `old` of a task, now kept under another number (R105). -/
def Client.rename (x : Client) (task old new : Nat) : Client :=
  match x with
  | .lane t c seq l => if t = task ∧ c = old then .lane t new seq l else x
  | .packet t c seq l va => if t = task ∧ c = old then .packet t new seq l va else x
  | .part t c seq o => if t = task ∧ c = old then .part t new seq o else x
  | .chunk t c n i => if t = task ∧ c = old then .chunk t new n i else x
  | .source t c seq l => if t = task ∧ c = old then .source t new seq l else x
  | .result t c seq l => if t = task ∧ c = old then .result t new seq l else x
  | .node _ => x
  | .record .. => x
  | .none => x

/-- A task has changed: the port engines' requests of coaches that live on under another number since follow them (R105). -/
def State.follow (s : State) (old new : Task) : State :=
  let moved := new.coaches.filterMap fun c =>
    if old.coaches.any fun d => d.num = c.num then none else c.former.map fun n => (n, c.num)
  if moved.isEmpty then s
  else { s with port := { s.port with reqs := s.port.reqs.map fun r =>
    { r with client := moved.foldl (fun x m => x.rename new.uid m.1 m.2) r.client } } }

/-- Settle every task, and withdraw what has to be withdrawn from collectives. -/
def State.settle (s : State) : State :=
  let ts := s.tasks.map fun t => (t, t.settle s.clock)
  State.settleColls (ts.foldl (fun s x => s.follow x.1 x.2) { s with tasks := ts.map (·.2) })

/-- Put the task of the latch back and empty the latch. -/
def State.checkBack (s : State) (t : Task) : State :=
  { s with issue := none, tasks := s.tasks.map fun x => if x.uid = t.uid then t else x }

/-- The state as an event sees it that comes between two slots of the bundle in issue: what its slots have done stands in the task. -/
def State.showIssue (s : State) (is : Issue) : State :=
  { s with tasks := s.tasks.map fun x => if x.uid = is.task.uid then is.back else x }

/-- The bundle in issue goes on after such an event with the task and the coach as the event left them, unless one of them is gone or
no longer runs. -/
def State.resumeIssue (s : State) (is : Issue) : Option State :=
  match s.task? is.task.uid with
  | some t => match t.coach? is.coach.num with
    | some c =>
      if decide (t.phase = .running) && t.saveStart.isNone && s.issue.isSome then
        some { s with issue := some { is with task := t, coach := c } }
      else none
    | none => none
  | none => none

/-- The bundle in issue is held; the cycle of the slots that issued passes (R113, log 3). -/
def State.holdBundle (s : State) (is : Issue) (h : Hold) : State :=
  ((s.checkBack (is.checkHeld s.clock h)).settle).tick 1

/-- The bundle in issue ends; a cycle passes (log 3), and the events of R432 count. -/
def State.endBundle (s : State) (is : Issue) : State :=
  let s := (s.checkBack (is.checkIn s.clock)).settle
  let count (code n : Nat) (s : State) : State := s.countCU is.task.ret is.task.cu code is.task.vf n
  let splits := match is.next with
    | .split .. => 1
    | _ => 0
  (count 0x004 splits (count 0x003 (is.coach.planes is.frag).length (count 0x002 1 s))).tick 1

/-- What the registers show that no WAIT has made sure of (R46). -/
def State.mixFresh (s : State) : State :=
  match s.issue with
  | some is =>
    if is.coach.fresh.isEmpty then s
    else { s with issue := some { is with coach := is.coach.mixFresh s.freeIx }, freeIx := s.freeIx + is.coach.fresh.length }
  | none => s

/-- Take the next slot into issue. -/
def State.beginSlot (s : State) : State := s.mixFresh.onIssue Issue.begin

/-- After a slot that began in `b`: what it did to registers of outstanding operations is noted (R46), and a hold that it asked for
takes the bundle out of issue (R47). -/
def State.afterSlot (b s : State) : State :=
  let s := s.onIssue fun is => match b.issue with
    | some old => (is.patchSnaps old.coach).onCoach (old.coach.noteSlot is.wrote)
    | none => is
  match s.issue with
  | some is => if is.hold == .none then s else s.holdBundle { is with hold := .none } is.hold
  | none => s

end Sys2Proof.Machine
end

