-- ==== Sys2Proof/Machine/LoadStore.lean ====
section
/-! DEFINITION. Loads, stores, atomics, fences and MSYS (R204 to R222): what a slot does when it issues, when its parts
may be performed (R219, R229 to R232), and what performing them does. -/

namespace Sys2Proof.Machine

/-! ### Checks at issue (R13, R206 to R209) -/

/-- What the checks of an access say. -/
inductive Chk where
  | ok (l : Loc)
  | park (code : Nat)
  | deny
deriving DecidableEq, Repr

/-- The checks of a global access of `n` bytes. `once`: not allowed in a restartable task (R13); `noHost`: not
allowed on host memory (R206). -/
def checkGlobal (s : State) (t : Task) (k : Acc) (scope : Nat) (once noHost : Bool) (va : Dword) (n : Nat) : Chk :=
  if once && !t.pinned then .park cNONIDEMPOTENT_OP
  else if !s.scopeOk t.vf scope then .park cSCOPE_DENIED
  else if va.toNat % n ≠ 0 then .park cMISALIGNED_ACCESS
  else match t.extent? k va.toNat n with
    | none => .park cWINDOW_VIOLATION
    | some e =>
      if noHost && e.host then .park cWINDOW_VIOLATION
      else
        let l := s.locate e va.toNat
        match s.routeOf false l with
        | .ok => .ok l
        | .denied => .deny
        | .unreachable => .park cUNREACHABLE

/-- The checks of a scratchpad access (R190, R207). -/
def checkScratch (t : Task) (a n : Nat) : Chk :=
  if a % n ≠ 0 then .park cMISALIGNED_ACCESS
  else if a + n ≤ t.shape.scratch then .ok (.scratch a) else .park cSCRATCH_BOUNDS

/-- Check the lanes of a mask in ascending order: a lane that fails parks, a denied access ends the task (R116, R208).
`f` gives a lane's recorded address, its check and the bytes it brings. -/
def Issue.checkLanes (now : Nat) (is : Issue) (m : Lanes) (f : Nat → Dword × Chk × List Byte) : Issue × List LaneOp :=
  (laneList m).foldl (fun (acc : Issue × List LaneOp) l =>
    let r := f l
    match r.2.1 with
    | .ok loc => (acc.1, acc.2 ++ [{ lane := l, va := r.1, loc, data := r.2.2 }])
    | .park code => (acc.1.park now l code r.1, acc.2)
    | .deny => ({ acc.1 with task := acc.1.task.terminate cREMOTE_DENIED r.1 }, acc.2)) (is, [])

/-- Put an operation into the coach's issue order; with no lane left it is done at once (R42). -/
def Issue.addOp (now : Nat) (is : Issue) (cls : Option Cls) (body : Body) (ls : List LaneOp) : Issue :=
  is.onCoach fun c =>
    let c := c.addOp { seq := 0, cls, site := is.site, body, lanes := ls, start := now, done := ls.isEmpty }
    { c with ops := pruneOps c.ops }

/-- A memory slot: check its enabled lanes and put the operation into issue order, unless it never takes effect
(R42, R211). -/
def memIssue (cls : Option Cls) (body : Body) (f : State → Issue → Nat → Dword × Chk × List Byte) (s : State) : Out :=
  .next (s.onIssue fun is =>
    if is.cur.pred = 0xF then is
    else
      let r := is.checkLanes s.clock is.enabled (f s is)
      r.1.addOp s.clock cls body r.2)

/-! ### LD, ST, LDS, STS, ATOM, ATOMS at issue (R214, R216) -/

/-- Bytes of the registers at `d`, least significant first. -/
def regBytes (c : Coach) (d l n : Nat) : List Byte :=
  ((List.range 4).flatMap fun i => leBytes 4 (c.vget (d + i) l).toNat).take n

/-- An absent extension word is one of zeros (R51). -/
def extOr (x : Option MemExt) : MemExt := x.getD { order := 0, scope := 0, policy := 0, ofs := 0 }

/-- LD vD, [gN, vM << s, ofs] (R214). -/
def execLd (size : BitVec 3) (d o : BitVec 7) (k : BitVec 5) (sc : BitVec 2) (x : Option MemExt) (s : State) : Out :=
  memIssue (some .l) (.load size d (extOr x))
    (fun s is l =>
      let va := gaddr is.snap k o sc (memDisp x) l
      (va, checkGlobal s is.task .read (extOr x).scope.toNat false false va (sizeBytes size), [])) s

/-- ST vD, [gN, vM << s, ofs] (R214). -/
def execSt (size : BitVec 3) (d o : BitVec 7) (k : BitVec 5) (sc : BitVec 2) (x : Option MemExt) (s : State) : Out :=
  memIssue (some .s) (.store size (extOr x))
    (fun s is l =>
      let va := gaddr is.snap k o sc (memDisp x) l
      (va, checkGlobal s is.task .write (extOr x).scope.toNat false false va (sizeBytes size),
        regBytes is.snap d.toNat l (sizeBytes size))) s

/-- LDS vD, [gN, vM << s, ofs] (R190, R214). -/
def execLds (size : BitVec 3) (d o : BitVec 7) (k : BitVec 5) (sc : BitVec 2) (x : Option MemExt) (s : State) : Out :=
  memIssue (some .l) (.load size d (extOr x))
    (fun _ is l =>
      let a := saddr is.snap k o sc (memDisp x) l
      (BitVec.ofNat 64 a, checkScratch is.task a (sizeBytes size), [])) s

/-- STS vD, [gN, vM << s, ofs] (R190, R214). -/
def execSts (size : BitVec 3) (d o : BitVec 7) (k : BitVec 5) (sc : BitVec 2) (x : Option MemExt) (s : State) : Out :=
  memIssue (some .s) (.store size (extOr x))
    (fun _ is l =>
      let a := saddr is.snap k o sc (memDisp x) l
      (BitVec.ofNat 64 a, checkScratch is.task a (sizeBytes size), regBytes is.snap d.toNat l (sizeBytes size))) s

/-- Signed 18-bit offset of an atomic (R50, R51). -/
def atomDisp (x : AtomExt) : Dword := x.ofs.signExtend 64

/-- Bytes of operand and comparison value of an atomic: x, then cmp (R216). -/
def atomData (c : Coach) (size : BitVec 3) (d l : Nat) : List Byte := regBytes c d l (2 * sizeBytes size)

/-- ATOM.op vD, [gN, vM << s, ofs] (R13, R216). -/
def execAtom (size : BitVec 3) (d o : BitVec 7) (k : BitVec 5) (sc : BitVec 2) (x : AtomExt) (s : State) : Out :=
  memIssue (some .l) (.atom size d x)
    (fun s is l =>
      let va := gaddr is.snap k o sc (atomDisp x) l
      (va, checkGlobal s is.task .atomic x.scope.toNat true true va (sizeBytes size), atomData is.snap size d.toNat l)) s

/-- ATOMS.op vD, [gN, vM << s, ofs] (R190, R216). -/
def execAtoms (size : BitVec 3) (d o : BitVec 7) (k : BitVec 5) (sc : BitVec 2) (x : AtomExt) (s : State) : Out :=
  memIssue (some .l) (.atom size d x)
    (fun _ is l =>
      let a := saddr is.snap k o sc (atomDisp x) l
      (BitVec.ofNat 64 a, checkScratch is.task a (sizeBytes size), atomData is.snap size d.toNat l)) s

/-! ### MSYS at issue (R217 to R222) -/

/-- Virtual address of an MSYS slot in a lane (R217). -/
def msysAddr (c : Coach) (a l : Nat) : Dword := c.vpair a l

/-- Whether the 32 segments of the sector of a pitch that holds `va` lie in one extent (R206). -/
def sectorInside (e : Extent) (off va pc : Nat) : Bool :=
  let back := off - secBase pc off
  back ≤ va && e.va ≤ va - back && va - back + 31 * pitchOf pc + 32 ≤ e.va + e.len

/-- The data extent that covers an access, grants it and holds the whole sector of its pitch: windows may overlap, and any that does
will do (R206). -/
def State.sectorExtent? (s : State) (t : Task) (k : Acc) (pc va n : Nat) : Option Extent :=
  t.extents.find? fun e => e.wid < 32 && permOk k e.perm && e.va ≤ va && va + n ≤ e.va + e.len &&
    (match s.locate e va with
     | .glob _ _ off _ _ => sectorInside e off va pc
     | _ => false)

/-- The checks of PIN and LDAXIS, which need the whole sector and no host memory (R206, R222). -/
def checkSector (s : State) (t : Task) (k : Acc) (pc w : Nat) (rows : Bool) (va : Dword) : Chk :=
  match checkGlobal s t k 0 false true va w with
  | .ok (.glob node ret off key wid) =>
    match s.sectorExtent? t k pc va.toNat w with
    | none => .park cWINDOW_VIOLATION
    | some _ =>
      if rows && (secRow pc off % 4 ≠ 0 || off % 32 % w ≠ 0) then .park cMISALIGNED_ACCESS
      else .ok (.glob node ret off key wid)
  | r => r

/-- FENCE[.ACQ|.REL].scope (R218, R219): once for the pass, when some lane is enabled. -/
def execFence (scope : BitVec 3) (kind : BitVec 2) (s : State) : Out :=
  .next (s.onIssue fun is =>
    if is.enabled = 0 then is
    else if !s.scopeOk is.task.vf scope.toNat then is.parkAll s.clock is.enabled cSCOPE_DENIED fun _ => 0
    else is.onCoach fun c =>
      c.addOp { seq := 0, cls := none, site := is.site, body := .fence scope.toNat kind.toNat, start := s.clock })

/-- PIN vD, vA, pitch (R204, R206, R221). -/
def execPin (d a : BitVec 7) (pitch : BitVec 4) (s : State) : Out :=
  memIssue (some .l) (.pin d pitch.toNat)
    (fun s is l =>
      let va := msysAddr is.snap a.toNat l
      (va, checkSector s is.task .any pitch.toNat 1 false va, [])) s

/-- LDAXIS vD, vA, pitch, w (R222). -/
def execLdaxis (d a : BitVec 7) (pitch : BitVec 4) (width : BitVec 2) (s : State) : Out :=
  memIssue (some .l) (.ldaxis d pitch.toNat (2 ^ width.toNat))
    (fun s is l =>
      let va := msysAddr is.snap a.toNat l
      (va, checkSector s is.task .read pitch.toNat (2 ^ width.toNat) true va, [])) s

/-- The lanes of UNPIN and PF that have an effect: those on device memory of the pod inside an extent (R206, R208). -/
def hintLanes (s : State) (is : Issue) (a : Nat) : List LaneOp :=
  (laneList is.enabled).filterMap fun l =>
    let va := msysAddr is.snap a l
    match is.task.extent? .any va.toNat 1 with
    | none => none
    | some e => match s.locate e va.toNat with
      | .glob node ret off key wid =>
        if s.routeOf false (.glob node ret off key wid) = .ok then some { lane := l, va, loc := .glob node ret off key wid } else none
      | _ => none

/-! ### When a part of an operation may be performed (R212, R219, R229 to R232) -/

/-- Whether two byte ranges meet. -/
def Loc.meets (a : Loc) (n : Nat) (b : Loc) (m : Nat) : Bool :=
  match a, b with
  | .glob nd r o _ _, .glob nd' r' o' _ _ => nd == nd' && r == r' && o < o' + m && o' < o + n
  | .host x _, .host y _ => x < y + m && y < x + n
  | .scratch x, .scratch y => x < y + m && y < x + n
  | _, _ => false

/-- Whether the range of `n` bytes at `a` lies inside that of `m` bytes at `b`. -/
def Loc.within (a : Loc) (n : Nat) (b : Loc) (m : Nat) : Bool :=
  match a, b with
  | .glob nd r o _ _, .glob nd' r' o' _ _ => nd == nd' && r == r' && o' ≤ o && o + n ≤ o' + m
  | .host x _, .host y _ => y ≤ x && x + n ≤ y + m
  | .scratch x, .scratch y => y ≤ x && x + n ≤ y + m
  | _, _ => false

/-- Distance in bytes of `a` from `b` in one space. -/
def Loc.offIn (a b : Loc) : Nat :=
  match a, b with
  | .glob _ _ o _ _, .glob _ _ o' _ _ => o - o'
  | .host x _, .host y _ => x - y
  | .scratch x, .scratch y => x - y
  | _, _ => 0

/-- The byte ranges that a lane's part touches. -/
def Body.ranges (b : Body) (x : LaneOp) : List (Loc × Nat) :=
  match b with
  | .load size _ _ => [(x.loc, sizeBytes size)]
  | .store size _ => [(x.loc, sizeBytes size)]
  | .atom size _ _ => [(x.loc, sizeBytes size)]
  | .ldaxis _ pc w => (List.range 4).map fun k => (x.loc.plus (k * pitchOf pc), w)
  | _ => []

/-- Whether a lane's part touches bytes of a part of another operation that has yet to be performed. -/
def touches (o : Op) (x : LaneOp) (p : Op) : Bool :=
  p.lanes.any fun y => (o.body.ranges x).any fun a => (p.body.ranges y).any fun b => a.1.meets a.2 b.1 b.2

/-- Whether every touched byte of a load lies in one part of a queued store (R212). -/
def coveredBy (o : Op) (x : LaneOp) (p : Op) : Bool :=
  p.lanes.all fun y => (o.body.ranges x).all fun a => (p.body.ranges y).all fun b =>
    !(a.1.meets a.2 b.1 b.2) || (o.isLoad && a.1.within a.2 b.1 b.2)

/-- Whether an older outstanding operation `p` keeps a lane's part of `o` from being performed. -/
def Op.waitsFor (o : Op) (x : LaneOp) (p : Op) : Bool :=
  p.isFence || p.acquires || (o.releases && p.isAccess) ||
    (if p.isStore && !o.isStore then (if o.isLoad then !coveredBy o x p else touches o x p)
     else if o.isStore && p.isStore then false
     else p.isAccess && touches o x p)

/-- Operations older than one that are outstanding. -/
def Coach.older (c : Coach) (o : Op) : List Op := c.ops.filter fun p => p.seq < o.seq && !p.done

/-- Whether the path to a place is in service (R352, R354). -/
def State.pathOk (s : State) (ret : Nat) (l : Loc) : Bool :=
  match l with
  | .glob node r _ _ _ => (node == 0xFFFF && r == ret) || s.reach ret node r
  | _ => true

/-- Whether nothing older keeps a lane's part from being performed (R212, R219, R231, R232, R242). -/
def Coach.inOrder (c : Coach) (o : Op) (x : LaneOp) : Bool := !o.never && (c.older o).all fun p => !o.waitsFor x p

/-- Whether a lane's part may be performed now. -/
def State.mayPerform (s : State) (t : Task) (c : Coach) (o : Op) (x : LaneOp) : Bool :=
  c.inOrder o x && s.pathOk t.ret x.loc

/-- Whether a place is on another wafer of the pod. -/
def Loc.isAway (l : Loc) : Bool :=
  match l with
  | .glob node .. => node != 0xFFFF
  | _ => false

/-- Whether a lower lane of the operation touches the same bytes and has yet to be performed (R211). -/
def Op.behindLane (o : Op) (m : Lanes) (x : LaneOp) : Bool :=
  !o.isLoad && o.lanes.any fun y => y.lane < x.lane && !m.getLsbD y.lane &&
    (o.body.ranges x).any fun a => (o.body.ranges y).any fun b => a.1.meets a.2 b.1 b.2

/-- The request of a lane's part to another home (R208). -/
def Body.request (b : Body) (x : LaneOp) : ReqKind :=
  match b with
  | .load size _ e => .read (sizeBytes size) e.policy.toNat
  | .store _ e => .write e.policy.toNat x.data
  | .atom size _ e => .atomic e.op (sizeBytes size) e.policy.toNat (BitVec.ofNat 64 (leNat (x.data.take (sizeBytes size))))
      (BitVec.ofNat 64 (leNat (x.data.drop (sizeBytes size))))
  | .ldaxis _ pc w => .axis pc w
  | .pin _ pc => .pin pc
  | .unpin pc => .unpin pc
  | .pf pc _ => .pf pc
  | _ => .read 0 0

/-- Whether a request of a function is refused where it arrives (R29, R356). -/
def State.refused (s : State) (t : Task) (l : Loc) : Bool :=
  match l with
  | .glob node ret off _ _ => node == 0xFFFF && ret != t.ret && !s.frameOk t.vf ret off
  | _ => false

/-! ### Performing a part -/

/-- A value loaded at a size: the words for vD upward (R214). -/
def loadWords (size : BitVec 3) (bs : List Byte) : List Word :=
  let w (i : Nat) : Word := BitVec.ofNat 32 (leNat ((bs.drop (4 * i)).take 4))
  match size.toNat with
  | 1 => [(BitVec.ofNat 8 (leNat (bs.take 1))).signExtend 32]
  | 3 => [(BitVec.ofNat 16 (leNat (bs.take 2))).signExtend 32]
  | 5 => [w 0, w 1]
  | 6 => [w 0, w 1, w 2, w 3]
  | _ => [w 0]

/-- Words for vd upward in a lane, by register key. -/
def laneWords (d l : Nat) (ws : List Word) : List (Nat × Word) := ws.zipIdx.map fun x => (vkey (d + x.2) l, x.1)

/-- An operation writes registers (R46). -/
def State.land (s : State) (t c : Nat) (o : Op) (xs : List (Nat × Word)) : State :=
  (s.modCoach t c fun co => co.landWords s.freeIx o xs).bumpFree xs.length

/-- Whether a place lies in a frame that has been retired (R203). -/
def State.retired (s : State) (l : Loc) : Bool :=
  match l with
  | .glob node ret off _ _ => node == 0xFFFF && s.root.retired.contains (devAddr ret off / 65536 * 65536)
  | _ => false

/-- The bytes that the coach's own queue holds for a load: the youngest store that covers it (R212). -/
def Coach.forwarded (c : Coach) (o : Op) (x : LaneOp) (n : Nat) : Option (List Byte) :=
  (c.older o).foldl (fun acc p =>
    if p.isStore then
      p.lanes.foldl (fun acc y => if x.loc.within n y.loc y.data.length
        then some ((y.data.drop (x.loc.offIn y.loc)).take n) else acc) acc
    else acc) none

/-- Read memory for a plain load of a task (R210, R215, R230). -/
def State.loadBytes (s : State) (t : Task) (x : LaneOp) (n : Nat) (e : MemExt) (remote : List Byte) : State × List Byte :=
  match x.loc with
  | .scratch a => (s, t.scrBytes a n)
  | .host a _ => (s, Memory.readN s.host a n)
  | .glob node ret off key _ =>
    if node ≠ 0xFFFF then (s, remote)
    else
      let hit := ret == t.ret && (s.rowLine? ret t.cu (off / 32 * 32)).isSome
      let s := if ret = t.ret then s.countCU t.ret t.cu (if hit then 0x006 else 0x007) t.vf 1 else s
      let r := s.cuRead { ret := t.ret, cu := t.cu } ret off key n e.policy.toNat (e.order == 4)
      let s := if e.policy = 2 then
          let s := if ret = t.ret then { r.1 with lines := r.1.lines.filter fun l => !l.isRow ret t.cu (off / 32 * 32) } else r.1
          s.dropSegment ret (off / 32 * 32)
        else r.1
      (s, r.2)

/-- The new value of an atomic (R216). -/
def atomNew (op : BitVec 4) (bytes : Nat) (old x cmp : Nat) : Nat :=
  let n := 8 * bytes
  let sg (v : Nat) : Int := (BitVec.ofNat n v).toInt
  let half (j : Nat) : Nat := (fBF16.add .rne false false 0 (old / 2 ^ (16 * j) % 2 ^ 16) (x / 2 ^ (16 * j) % 2 ^ 16)).code
  match op.toNat with
  | 0 => (old + x) % 2 ^ n
  | 1 => if sg x < sg old then x else old
  | 2 => if sg old < sg x then x else old
  | 3 => min old x
  | 4 => max old x
  | 5 => Nat.land old x
  | 6 => Nat.lor old x
  | 7 => Nat.xor old x
  | 8 => x
  | 9 => if old = cmp then x else old
  | 10 => (addRNE (BitVec.ofNat 32 old) (BitVec.ofNat 32 x)).toNat
  | _ => half 0 + 2 ^ 16 * half 1

/-- One atomic of a task at its home or scratchpad: the state, the task and the old bytes (R216). -/
def State.atomLane (s : State) (t : Task) (x : LaneOp) (op : BitVec 4) (n : Nat) (policy : Nat) (remote : List Byte) :
    State × List Byte :=
  let xv := leNat (x.data.take n)
  let cv := leNat (x.data.drop n)
  match x.loc with
  | .scratch a =>
    let old := t.scrBytes a n
    (s.modTask t.uid fun t => t.scrWrite a (leBytes n (atomNew op n (leNat old) xv cv)), old)
  | .glob node ret off key _ =>
    if node ≠ 0xFFFF then (s, remote)
    else
      let seg := off / 32 * 32
      let s := if ret = t.ret then s.flushLine ret t.cu seg else s
      let r := (s.homeTrip t.ret t.cu ret n).rowRead ret seg key policy none
      let old := (r.2.drop (off - seg)).take n
      (r.1.rowWrite ret off key (leBytes n (atomNew op n (leNat old) xv cv)) policy, old)
  | .host .. => (s, remote)

/-- Store the bytes of a lane (R194, R210, R212, R230). -/
def State.storeLane (s : State) (t : Task) (x : LaneOp) (e : MemExt) : State :=
  match x.loc with
  | .scratch a => s.modTask t.uid fun t => t.scrWrite a x.data
  | .host a _ => { s with host := Memory.writeN s.host a x.data }
  | .glob node ret off key _ =>
    if node ≠ 0xFFFF then s
    else s.cuWrite { ret := t.ret, cu := t.cu } ret off key x.data e.policy.toNat (e.order == 4)

/-- The bytes of an LDAXIS: 4 rows of w columns (R222), with the column lines it allocates in the L1. -/
def State.axisBytes (s : State) (t : Task) (x : LaneOp) (pc w : Nat) (remote : List Byte) : State × List Byte :=
  match x.loc with
  | .glob node ret off key _ =>
    if node ≠ 0xFFFF then (s, remote)
    else
      let base := secBase pc off
      let r := secRow pc off
      let j := off % 32
      let pack (cols : List (List Byte)) : List Byte :=
        (List.range 4).flatMap fun k => (List.range w).map fun i => ((cols.getD i []).getD (r + k) 0)
      let line (i : Nat) : Option L1Line := s.lines.find? fun l =>
        l.ret == ret && l.cu == t.cu && l.column && l.base == base && l.pc == pc && l.j == j + i
      if ret = t.ret && (List.range w).all fun i => (line i).isSome then
        (s.countCU t.ret t.cu 0x006 t.vf 1, pack ((List.range w).map fun i => ((line i).map (·.data)).getD []))
      else
        let local? := ret == t.ret
        let s := if local? then s.countCU t.ret t.cu 0x007 t.vf 1 else s
        let q := (s.homeTrip t.ret t.cu ret (4 * w)).columnRead ret base pc key j w (if local? then some t.cu else none)
        -- where the sector could not be allocated nothing is cached anew (R198)
        let s := if local? && (s.touchColumn ret base pc key).isSome then
            (q.2.zipIdx).foldl (fun s (d, i) =>
              s.addLine { ret, cu := t.cu, column := true, base, pc, j := j + i, key, data := d }) q.1
          else q.1
        (s, pack q.2)
  | _ => (s, remote)

/-- PIN of the sector that holds a place of this wafer: the state and the status (R204, R205, R221). DESIGN CHOICE (log 20): the
partition that owns the sector, and whose quota the pin takes, is the top-level partition that holds the home reticle, also for a frame
that MIGRATE has put there from another partition of the function (log 52). -/
def State.pinSector (s : State) (l : Loc) (pc : Nat) : State × Nat :=
  match l with
  | .glob _ ret off key _ =>
    let base := secBase pc off
    if (s.conflicts ret base pc).any (·.pinned) then (s, 3)
    else if (s.sector? ret base pc).any (·.pinned) then (s, 0)
    else
      let set := secSet base pc
      let inSet := s.sectors.filter fun x => x.ret == ret && x.pinned && secSet x.base x.pc == set
      if 15 ≤ inSet.length then (s, 2)
      else
        -- every frame of a reticle is of one top-level partition, whatever key it stands under (R28, R420)
        let used := (s.sectors.filter fun x => x.ret == ret && x.pinned).length
        if ((s.homePart ret).map (·.pinQuota)).getD 0 ≤ used then (s, 1)
        else match s.allocSector ret base pc key false true false with
          | none => (s, 2)
          | some s =>
            let s := (List.range 32).foldl (fun s i => s.fillRow ret base pc i) s
            (s.modSector ret base pc fun x => { x with pinned := true }, 0)
  | _ => (s, 3)

/-- UNPIN by a task of a top-level partition of the sector that holds a place: only of a pinned sector that the partition
owns (R205, R221). -/
def State.unpinSector (s : State) (part : Nat) (l : Loc) (pc : Nat) : State :=
  match l with
  | .glob _ ret off _ _ =>
    let base := secBase pc off
    if (s.sector? ret base pc).any (·.pinned) && ((s.homePart ret).map (·.num)) == some (s.topPart part)
    then s.modSector ret base pc fun x => { x with pinned := false } else s
  | _ => s

/-- PF of the sector that holds a place: the LLC's share (R221). -/
def State.prefetchLLC (s : State) (ret off key pc : Nat) : Option State :=
  let base := secBase pc off
  (s.allocSector ret base pc key false true false).map fun s => (List.range 32).foldl (fun s i => s.fillRow ret base pc i) s

/-- PF of the sector that holds a place; level 1 also fills the row line of a local segment into the L1 (R189, R221). -/
def State.prefetch (s : State) (t : Task) (l : Loc) (pc level : Nat) : State :=
  match l with
  | .glob _ ret off key _ =>
    match s.prefetchLLC ret off key pc with
    | none => s
    | some s =>
      if level = 1 && ret = t.ret && (s.rowLine? ret t.cu (off / 32 * 32)).isNone then
        let r := s.rowRead ret (off / 32 * 32) key 0 (some t.cu)
        r.1.addLine { ret, cu := t.cu, column := false, base := off / 32 * 32, key, data := r.2 }
      else s
  | _ => s

/-- One lane of UNPIN or PF: at its home here, or handed to the port engine (R208, R221). -/
def State.hint (s : State) (t : Task) (b : Body) (x : LaneOp) : State :=
  if x.loc.isAway then s.request .none t.ret t.vf (s.memTC t.vf) x.va x.loc (b.request x)
  else match b with
    | .unpin pc => s.unpinSector t.part x.loc pc
    | .pf pc level => s.prefetch t x.loc pc level
    | _ => s

/-! ### Completing operations -/

/-- Take the L1 action of an acquire or a release at a scope (R220). -/
def State.acquireAt (s : State) (t : Task) (scope : Nat) : State := if 2 ≤ scope then s.acquireL1 t.ret t.cu else s

def State.releaseAt (s : State) (t : Task) (scope : Nat) : State := if 2 ≤ scope then s.releaseL1 t.ret t.cu else s

/-- What completing an operation does besides its lanes: the L1 action of an acquire (R220). -/
def State.completeBody (s : State) (t : Task) (b : Body) : State :=
  match b with
  | .load _ _ x => if x.order = 1 then s.acquireAt t x.scope.toNat else s
  | .atom _ _ x => if x.order = 1 ∨ x.order = 3 then s.acquireAt t x.scope.toNat else s
  | _ => s

/-- Take a lane's part out of an operation; with none left the operation is done. -/
def State.dropLane (s : State) (t : Task) (c : Nat) (o : Op) (lane : Nat) : State :=
  let left := o.lanes.filter fun y => y.lane != lane
  let s := if left.isEmpty then s.completeBody t o.body else s
  s.modCoach t.uid c fun co => co.setOp o.seq fun p => { p with lanes := left, done := left.isEmpty }

/-- Perform one lane's part of an operation that counts on L or on S. -/
def State.performLane (s : State) (tu c seq lane : Nat) (remote : List Byte) : State :=
  match s.coach? tu c with
  | none => s
  | some (t, co) =>
    match (co.op? seq).bind fun o => (o.lanes.find? fun y => y.lane = lane).map fun x => (o, x) with
    | none => s
    | some (o, x) =>
      if s.refused t x.loc then
        -- the refusal returns and ends the task (R356)
        (s.modTask tu fun t => t.terminate cREMOTE_DENIED x.va).dropLane t c o lane
      else
        let s := s.dropReqs (.lane tu c seq lane)
        let write (s : State) (d : Nat) (ws : List Word) : State := s.land tu c o (laneWords d lane ws)
        -- a release on another wafer took its L1 action before it left (R232)
        let release (s : State) (scope : Nat) : State := if x.loc.isAway then s else s.releaseAt t scope
        match o.body with
        | .load size d e =>
          let n := sizeBytes size
          -- what the read does to the caches it does with a forwarded value too (R215, R230)
          let own := co.forwarded o x n
          let s := if x.loc.isAway && own.isSome && e.policy = 2 then
              s.request .none t.ret t.vf (s.memTC t.vf) x.va x.loc (o.body.request x) else s
          let r := s.loadBytes t x n e remote
          let bs := if s.retired x.loc then List.replicate n 0 else own.getD r.2
          (write r.1 d.toNat (loadWords size bs)).dropLane t c o lane
        | .store _ e =>
          let s := if e.order = 2 then release s e.scope.toNat else s
          (s.storeLane t x e).dropLane t c o lane
        | .atom size d e =>
          let n := sizeBytes size
          let s := if e.order = 2 ∨ e.order = 3 then release s e.scope.toNat else s
          let r := s.atomLane t x e.op n e.policy.toNat remote
          (write r.1 d.toNat (loadWords size r.2)).dropLane t c o lane
        | .ldaxis d pc w =>
          let r := s.axisBytes t x pc w remote
          let bs := if s.retired x.loc then List.replicate (4 * w) 0 else r.2
          let ws := if w = 4 then loadWords 6 bs else if w = 2 then loadWords 5 bs else loadWords 4 bs
          (write r.1 d.toNat ws).dropLane t c o lane
        | .pin d pc =>
          let r := if x.loc.isAway then (s, leNat remote) else s.pinSector x.loc pc
          (write r.1 d.toNat [BitVec.ofNat 32 r.2]).dropLane t c o lane
        | _ => s

/-- Perform UNPIN and PF slots once every earlier access of the coach has been performed (R221). -/
def State.drainHints (s : State) (tu c : Nat) : State :=
  match s.coach? tu c with
  | none => s
  | some (t, co) =>
    (co.ops.filter fun o => match o.body with
      | .unpin _ => true
      | .pf .. => true
      | _ => false).foldl (fun s o =>
        if (co.older o).any fun p => p.isAccess || p.isFence then s
        else
          let s := o.lanes.foldl (fun s x => s.hint t o.body x) s
          s.modCoach tu c fun co => co.setOp o.seq fun p => { p with lanes := [], done := true }) s

/-- Queue UNPIN or PF behind the coach's earlier accesses, or perform it now. -/
def hintIssue (a : BitVec 7) (body : Body) (s : State) : Out :=
  .next (match s.issue with
    | none => s
    | some is =>
      let ls := hintLanes s is a.toNat
      if is.coach.ops.any fun p => !p.done && (p.isAccess || p.isFence) then
        s.onIssue fun is => is.addOp s.clock none body ls
      else ls.foldl (fun s x => s.hint is.task body x) s)

/-- UNPIN vA, pitch (R221). -/
def execUnpin (a : BitVec 7) (pitch : BitVec 4) (s : State) : Out := hintIssue a (.unpin pitch.toNat) s

/-- PF[.L1] vA, pitch (R221). -/
def execPf (a : BitVec 7) (pitch : BitVec 4) (level : BitVec 2) (s : State) : Out :=
  hintIssue a (.pf pitch.toNat level.toNat) s

/-- The value that a load takes from its own coach's queue (R212). -/
def Coach.ownValue (c : Coach) (o : Op) (x : LaneOp) : Option (List Byte) :=
  match o.body with
  | .load size _ _ => c.forwarded o x (sizeBytes size)
  | _ => none

/-- What a lane's part has from another wafer: the answer of its home (R208), or nothing where a load takes its value from the
queue and needs none. -/
def State.laneAnswer (s : State) (t : Task) (c : Coach) (o : Op) (x : LaneOp) : Option (List Byte) :=
  if x.loc.isAway && !(c.inOrder o x && (c.ownValue o x).isSome) then s.answerOf (.lane t.uid c.num o.seq x.lane) else some []

/-- Whether the parts of an operation in the lanes of `m` may be performed together: each may now, or has been answered by its
home on another wafer, and where lanes touch the same bytes none jumps a lower lane (R211). -/
def State.partsReady (s : State) (t : Task) (c : Coach) (o : Op) (m : Lanes) : Bool :=
  let mine := o.lanes.filter fun x => m.getLsbD x.lane
  !mine.isEmpty && mine.all fun x =>
    (if x.loc.isAway then (s.laneAnswer t c o x).isSome else s.mayPerform t c o x) && !o.behindLane m x

/-- Find an outstanding operation. -/
def State.findOp (s : State) (t c seq : Nat) : Option (Task × Coach × Op) :=
  match s.coach? t c with
  | none => none
  | some (tk, co) => match co.op? seq with
    | some o => if o.done then none else some (tk, co, o)
    | none => none

/-- Perform the parts of the lanes of `m`, in ascending lane order. -/
def State.performLanes (s : State) (tk : Task) (co : Coach) (o : Op) (m : Lanes) : State :=
  ((o.lanes.filter fun x => m.getLsbD x.lane).foldl (fun s x =>
    s.performLane tk.uid co.num o.seq x.lane ((s.laneAnswer tk co o x).getD [])) s).drainHints tk.uid co.num

/-- What other wafers have answered for the lanes `m` of an operation, lane after lane. -/
def State.answersOf (s : State) (t : Task) (c : Coach) (o : Op) (m : Lanes) : List Byte :=
  (o.lanes.filter fun x => m.getLsbD x.lane).flatMap fun x => (s.laneAnswer t c o x).getD []

/-- LOAD_COMPLETE: parts of a load, atomic, LDAXIS or PIN are performed and write their destinations (R213). -/
def execLoadComplete (t c seq : Nat) (lanes : Lanes) (remote : List Byte) (s : State) : Out :=
  .next (match s.findOp t c seq with
    | some (tk, co, o) =>
      if o.onL && s.partsReady tk co o lanes && agrees remote (some (s.answersOf tk co o lanes)) then s.performLanes tk co o lanes else s
    | none => s)

/-- The entry at the head of the store queue. -/
def Coach.queueHead (c : Coach) : Option Op := c.queued.head?

/-- STORE_PERFORMED: bytes of the entry at the head of the store queue are accepted (R212). -/
def execStorePerformed (t c : Nat) (lanes : Lanes) (s : State) : Out :=
  .next (match s.coach? t c with
    | some (tk, co) => match co.queueHead with
      | some o => if s.partsReady tk co o lanes then s.performLanes tk co o lanes else s
      | none => s
    | none => s)

/-- Whether a fence may complete. -/
def Coach.fenceReady (c : Coach) (o : Op) : Bool :=
  match o.body with
  | .fence _ kind => !o.never && (c.older o).all fun p => !fenceWaits kind p
  | _ => false

/-- FENCE_COMPLETE: the L1 actions of the fence's kind (R219, R220). -/
def execFenceComplete (t c seq : Nat) (s : State) : Out :=
  .next (match s.findOp t c seq with
    | some (tk, co, o) =>
      match o.body with
      | .fence scope kind =>
        if co.fenceReady o then
          let s := if kind = 1 then s else s.releaseAt tk scope
          let s := if kind = 2 then s else s.acquireAt tk scope
          (s.modCoach t c fun co => co.setOp seq fun p => { p with done := true }).drainHints t c
        else s
      | _ => s
    | none => s)

/-! ### Refusals and timeouts (R354, R356, R242) -/

/-- Drop a lane's part whose request was lost (R242, R354). -/
def Coach.abandon (c : Coach) (o : Op) (lane : Nat) : Coach :=
  (c.lose o).setOp o.seq fun p =>
    { p with lanes := p.lanes.filter (fun y => y.lane != lane), done := (p.lanes.filter fun y => y.lane != lane).isEmpty }

/-- The undone operations of a coach that can never complete: those that wait for a lost acknowledgement, and those that wait for
them (R219, R232, R237, R242). -/
def Coach.hopeless (c : Coach) : List Op :=
  c.ops.foldl (fun (bad : List Op) o =>
    let waits (p : Op) : Bool := o.covers p ||
      (match o.body with
       | .batch _ cs _ => (p.isAccess || p.isFence) && cs.any fun x => x.next < x.chunks && p.seq < x.seq
       | _ => if o.isAccess then o.lanes.any fun x => o.waitsFor x p else p.isAccess || p.isFence)
    if !o.done && (o.never || bad.any waits) then bad ++ [o] else bad) []

end Sys2Proof.Machine
end

