-- ==== Sys2Proof/Machine/Copy.lean ====
section
/-! DEFINITION. The copy engine (R243 to R264): layout records and their checks, what a chunk of a copy reads, converts
and writes, batches and their status. -/

namespace Sys2Proof.Machine

/-! ### Layout records (R244, R246, R247) -/

/-- A layout record, with its base resolved at dispatch (R244). -/
abbrev Layout := BitVec 512

def Layout.base (r : Layout) : Nat := field r 0 64
def Layout.size (r : Layout) (d : Nat) : Nat := field r (64 + 32 * d) 32
def Layout.stride (r : Layout) (d : Nat) : Nat := field r (192 + 40 * d) 40
def Layout.box (r : Layout) (d : Nat) : Nat := field r (352 + 8 * d) 8 + 1
def Layout.sfmt (r : Layout) : Nat := field r 384 4
def Layout.tgt (r : Layout) : Nat := field r 388 3
def Layout.axis (r : Layout) : Bool := r.getLsbD 391
def Layout.store (r : Layout) : Bool := r.getLsbD 392
def Layout.sr (r : Layout) : Bool := r.getLsbD 393
def Layout.sat (r : Layout) : Bool := r.getLsbD 394
def Layout.gap (r : Layout) : Nat := field r 395 5
def Layout.valid (r : Layout) : Bool := r.getLsbD 400
def Layout.wrel (r : Layout) : Bool := r.getLsbD 401
def Layout.win (r : Layout) : Nat := field r 402 5
def Layout.exv (r : Layout) : Word := r.extractLsb' 416 32
def Layout.fill (r : Layout) : Word := r.extractLsb' 448 32
def Layout.seed (r : Layout) : Word := r.extractLsb' 480 32

/-- Storage blocks (R246). -/
def Layout.isRb (r : Layout) : Bool := 8 ≤ r.sfmt && r.sfmt ≤ 10

/-- RB format of the storage side: 1 RB4, 2 RB8, 3 RB16. -/
def Layout.srb (r : Layout) : Nat := r.sfmt - 7

/-- Whether the scratchpad side holds blocks. -/
def Layout.tgtRb (r : Layout) : Bool := 1 ≤ r.tgt && r.tgt ≤ 3

/-- Bytes of a storage element of formats 0 to 7, at least 1 (R246). -/
def Layout.esize (r : Layout) : Nat :=
  if r.sfmt = 0 then 4 else if r.sfmt = 1 ∨ r.sfmt = 2 then 2 else 1

/-- Alignment of the base and the strides (R247). -/
def Layout.align (r : Layout) : Nat := if r.isRb then 2 else if r.sfmt = 5 then 1 else r.esize

def Layout.strideAlign (r : Layout) : Nat := if r.isRb ∨ r.sfmt = 5 then 2 else r.esize

/-- Whether a record passes R247 for a first coordinate. -/
def Layout.ok (r : Layout) (c0 : Int) : Bool :=
  let sizes := [0, 1, 2, 3].all fun d => r.size d != 0
  let pair := r.tgt = 0 ∨ (¬ r.isRb ∧ r.tgt ≤ 4) ∨ (r.isRb ∧ (r.tgt = 4 ∨ r.tgt = r.srb))
  let axis0 := !(!r.axis && r.stride 0 != 0)
  let axis1 := !r.axis ||
    (!r.isRb && r.sfmt != 5 && (List.range 11).any (fun k => r.stride 0 == 64 * 2 ^ k) && r.stride 1 == r.esize)
  let strides := [1, 2, 3].all fun d => r.stride d % r.strideAlign == 0
  let run32 := !(r.tgtRb || r.isRb) || (r.box 0 % 32 == 0 && decide (c0 % 32 = 0))
  let pair2 := !(r.sfmt == 5 && r.tgt == 0) || (r.box 0 % 2 == 0 && decide (c0 % 2 = 0))
  r.valid && decide (r.sfmt ≤ 10) && decide (r.tgt ≤ 4) && field r 407 9 == 0 && decide pair && sizes && axis0 && axis1 &&
    strides && r.base % r.align == 0 && !r.wrel && run32 && pair2

/-! ### Units of a copy: elements, pairs of E2M1, or runs of 32 (R248, R249, R251) -/

/-- Elements of a unit. -/
def Layout.unitElems (r : Layout) : Nat :=
  if r.tgtRb ∨ r.isRb then 32 else if r.sfmt = 5 ∧ r.tgt = 0 then 2 else 1

/-- Scratchpad bytes of a unit (R249). -/
def Layout.unitBytes (r : Layout) : Nat :=
  if r.tgtRb then rbBytes r.tgt
  else if r.tgt = 4 then 4 * r.unitElems
  else if r.isRb then rbBytes r.srb
  else r.esize

/-- Units of a box row, and rows of the box. -/
def Layout.rowUnits (r : Layout) : Nat := r.box 0 / r.unitElems

def Layout.rows (r : Layout) : Nat := r.box 1 * r.box 2 * r.box 3

/-- The scratchpad extent of a copy in bytes (R249). -/
def Layout.extent (r : Layout) : Nat := r.unitBytes * r.rowUnits * r.rows

/-- An element's coordinates. -/
structure Coord where
  i0 : Int
  i1 : Int
  i2 : Int
  i3 : Int

/-- Element `k` of unit `g` of a box at (c0 .. c3) (R249). -/
def Layout.elemAt (r : Layout) (c : Coord) (g k : Nat) : Coord :=
  let row := g / r.rowUnits
  { i0 := c.i0 + ((g % r.rowUnits * r.unitElems + k : Nat) : Int)
    i1 := c.i1 + (row % r.box 1 : Nat)
    i2 := c.i2 + (row / r.box 1 % r.box 2 : Nat)
    i3 := c.i3 + (row / r.box 1 / r.box 2 : Nat) }

/-- Whether an element is in bounds (R248). -/
def Layout.inBounds (r : Layout) (x : Coord) : Bool :=
  decide (0 ≤ x.i0 ∧ x.i0 < r.size 0 ∧ 0 ≤ x.i1 ∧ x.i1 < r.size 1 ∧ 0 ≤ x.i2 ∧ x.i2 < r.size 2 ∧ 0 ≤ x.i3 ∧ x.i3 < r.size 3)

/-- Address of an element, or of the block that holds it (R248). -/
def Layout.addr (r : Layout) (x : Coord) : Nat :=
  let d0 : Int :=
    if r.isRb then x.i0 / 32 * (rbBytes r.srb : Int)
    else if r.axis then x.i0 * (r.stride 0 : Int)
    else if r.sfmt = 5 then x.i0 / 2 else x.i0 * (r.esize : Int)
  (((r.base : Int) + d0 + x.i1 * (r.stride 1 : Int) + x.i2 * (r.stride 2 : Int) + x.i3 * (r.stride 3 : Int)) % 2 ^ 64).toNat

/-- The memory spans of a unit: its block, or its elements that are in bounds, with the index in the unit. -/
def Layout.spans (r : Layout) (c : Coord) (g : Nat) : List (Nat × Nat × Nat) :=
  let es := (List.range r.unitElems).map fun k => (k, r.elemAt c g k)
  let inb := es.filter fun e => r.inBounds e.2
  if r.isRb then
    match inb with
    | [] => []
    | e :: _ => [(e.1, r.addr e.2, rbBytes r.srb)]
  else inb.map fun e => (e.1, r.addr e.2, r.esize)

/-- The generator state of an element of a stochastic copy (R250). -/
def Layout.srState (r : Layout) (x : Coord) : Word :=
  let n32 (i : Int) : Word := BitVec.ofInt 32 i
  let l : Word := ((n32 x.i3 * BitVec.ofNat 32 (r.size 2) + n32 x.i2) * BitVec.ofNat 32 (r.size 1) + n32 x.i1)
      * BitVec.ofNat 32 ((r.size 0 + 31) / 32) + n32 x.i0 / 32
  let x0 := r.seed ^^^ (l * 0x9E3779B9#32)
  let x0 := if x0 = 0 then 1 else x0
  (List.range ((x.i0 % 32).toNat + 1)).foldl (fun y _ => srStep y) x0

/-- Flags of CPSTAT gathered over a chunk (R259). -/
structure CpFlags where
  sat : Bool := false
  nan : Bool := false
  oob : Bool := false

/-- The value that an element in storage has, from its bytes (R246). -/
def Layout.elemCode (r : Layout) (x : Coord) (bs : List Byte) : Nat :=
  let v := leNat bs
  if r.sfmt = 5 then (if x.i0 % 2 = 0 then v % 16 else v / 16 % 16) else v

/-- A block formed by the copy (R83, R250). -/
def Layout.form (r : Layout) (rb : Nat) (c : Coord) (g : Nat) (src : List Fp) : RbBlock × Bool :=
  formBlock rb r.gap (if r.sr then some fun k => r.srState (r.elemAt c g k) else none) src

/-- The scratchpad bytes that a load writes for a unit, from the bytes of its spans (R251). -/
def Layout.loadUnit (r : Layout) (c : Coord) (g : Nat) (spans : List (Nat × List Byte)) : List Byte × CpFlags :=
  let es := (List.range r.unitElems).map fun k => (k, r.elemAt c g k)
  let oob := es.any fun e => !r.inBounds e.2
  let got (k : Nat) : Option (List Byte) := (spans.find? fun x => x.1 = k).map (·.2)
  let fillV := fFP32.decode r.fill.toNat
  if r.isRb then
    let block := (spans.head?.map (·.2))
    if r.tgt = 4 then
      let b := RbBlock.ofBytes r.srb (block.getD [])
      let ws := es.map fun e =>
        if r.inBounds e.2 && block.isSome then (b.value r.srb (b.elems.getD e.1 { neg := false, sel := false, m := 0 })).toF32
        else r.fill
      (ws.flatMap fun w => leBytes 4 w.toNat, { oob, nan := ws.any fun w => (fFP32.decode w.toNat).isNan })
    else
      match block with
      | some bs =>
        let b := RbBlock.ofBytes r.srb bs
        (bs, { oob, nan := r.tgt != 0 && b.elems.any fun x => (b.value r.srb x).isNan })
      | none =>
        let q := r.form r.srb c g (List.replicate 32 fillV)
        (q.1.bytes r.srb, { oob, sat := q.2, nan := r.tgt != 0 && q.1.e0 == 255 })
  else
    let value (e : Nat × Coord) : Fp := match got e.1 with
      | some bs => sfmtValue r.sfmt r.exv (r.elemCode e.2 bs)
      | none => fillV
    if r.tgtRb then
      let q := r.form r.tgt c g (es.map value)
      (q.1.bytes r.tgt, { oob, sat := q.2, nan := q.1.e0 == 255 })
    else if r.tgt = 4 then
      let w (e : Nat × Coord) : Word := match got e.1 with
        | some _ => (value e).toF32
        | none => r.fill
      let ws := es.map w
      (ws.flatMap fun w => leBytes 4 w.toNat, { oob, nan := ws.any fun w => (fFP32.decode w.toNat).isNan })
    else if r.sfmt = 5 then
      let nib (e : Nat × Coord) : Nat := match got e.1 with
        | some bs => r.elemCode e.2 bs
        | none => r.fill.toNat % 16
      ([BitVec.ofNat 8 (es.foldl (fun t e => t + nib e * 16 ^ e.1) 0)], { oob })
    else
      (es.flatMap fun e => (got e.1).getD (leBytes r.esize r.fill.toNat), { oob })

/-- What a store writes for a unit from its scratchpad bytes: for each span its bytes, with the flags. For E2M1 the
byte holds the nibble in both halves (R251). -/
def Layout.storeUnit (r : Layout) (c : Coord) (g : Nat) (bs : List Byte) : List (Nat × Nat × List Byte) × CpFlags :=
  let es := (List.range r.unitElems).map fun k => (k, r.elemAt c g k)
  let oob := es.any fun e => !r.inBounds e.2
  let word (k : Nat) : Word := BitVec.ofNat 32 (leNat ((bs.drop (4 * k)).take 4))
  let sp := r.spans c g
  if r.isRb then
    if r.tgt = 4 then
      let q := r.form r.srb c g ((List.range 32).map fun k => fFP32.decode (word k).toNat)
      (sp.map fun x => (x.1, x.2.1, q.1.bytes r.srb), { oob, sat := !sp.isEmpty && q.2, nan := !sp.isEmpty && q.1.e0 == 255 })
    else
      let b := RbBlock.ofBytes r.srb bs
      (sp.map fun x => (x.1, x.2.1, bs), { oob, nan := !sp.isEmpty && r.tgt != 0 && b.elems.any fun x => (b.value r.srb x).isNan })
  else if r.tgt = 0 then
    if r.sfmt = 5 then
      let v := leNat bs
      let nib (k : Nat) : Nat := v / 16 ^ k % 16
      (sp.map fun x => (x.1, x.2.1, [BitVec.ofNat 8 (nib x.1 * 17)]), { oob })
    else (sp.map fun x => (x.1, x.2.1, bs), { oob })
  else
    let b := RbBlock.ofBytes r.tgt bs
    let val (k : Nat) : Word :=
      if r.tgt = 4 then word k else (b.value r.tgt (b.elems.getD k { neg := false, sel := false, m := 0 })).toF32
    let packed := sp.map fun x =>
      let mode := if r.sr then RMode.sr else RMode.rne
      let y := if r.sr then r.srState (r.elemAt c g x.1) else 0
      (x, packElem r.sfmt r.sat r.exv mode y (val x.1))
    (packed.map fun q =>
        (q.1.1, q.1.2.1, if r.sfmt = 5 then [BitVec.ofNat 8 (q.2.code * 17)] else leBytes r.esize q.2.code),
      { oob, sat := packed.any (·.2.sat), nan := packed.any (·.2.nan) })

/-! ### Reading and writing spans (R206, R237, R252) -/

/-- Pitch code of a column copy (R195, R244). -/
def Layout.pitch (r : Layout) : Nat := Nat.log2 (r.stride 0 / 32)

/-- Read one place for the copy engine; bytes on other wafers come from `rem`. -/
def State.cpRead (s : State) (t : Task) (axis : Option Nat) (l : Loc) (n : Nat) (rem : List Byte) :
    State × List Byte × List Byte :=
  if l.isAway then (s, rem.take n, rem.drop n)
  else
    let p : At := { ret := t.ret, cu := t.cu }
    match axis, l with
    | some pc, .glob _ ret off key _ =>
      let s := s.cleanRange p l n
      let q := (s.homeTrip t.ret t.cu ret n).columnRead ret (secBase pc off) pc key (off % 32) n none
      (q.1, q.2.map fun col => col.getD (secRow pc off) 0, rem)
    | _, _ =>
      let q := s.engRead p l n
      (q.1, q.2, rem)

/-- Write one place of this wafer, host memory included, for the copy engine. -/
def State.cpWrite (s : State) (t : Task) (axis : Option Nat) (l : Loc) (bs : List Byte) : State :=
  let p : At := { ret := t.ret, cu := t.cu }
  match axis, l with
  | some pc, .glob _ ret off key _ =>
    let s := (s.cleanRange p l bs.length).homeTrip t.ret t.cu ret bs.length
    let s := (bs.zipIdx).foldl (fun s (b, i) => s.columnWrite ret (secBase pc off) pc key (off + i) b) s
    s.dropRange p l bs.length
  | _, _ => s.engWrite p l bs

/-- One write of an engine: its place and bytes, and the half where it writes one nibble of a byte (R251). -/
structure Wr where
  loc : Loc
  data : List Byte
  half : Option Bool := none

/-- A byte with one of its halves replaced. -/
def putHalf (odd : Bool) (old new : Nat) : Byte :=
  BitVec.ofNat 8 (if odd then old % 16 + 16 * (new % 16) else old / 16 * 16 + new % 16)

/-- Perform a write on this wafer. -/
def State.putWr (s : State) (t : Task) (axis : Option Nat) (w : Wr) : State :=
  match w.half with
  | none => s.cpWrite t axis w.loc w.data
  | some odd =>
    let old := s.cpRead t none w.loc 1 []
    old.1.cpWrite t none w.loc [putHalf odd (old.2.1.getD 0 0).toNat (w.data.getD 0 0).toNat]

/-- Hand a write for another wafer to the port engine (R208). -/
def State.askWr (s : State) (t : Task) (cl : Client) (va : Dword) (axis : Option Nat) (w : Wr) : State :=
  let tc := s.memTC t.vf
  match w.half, axis with
  | some odd, _ => s.request cl t.ret t.vf tc va w.loc (.nibble odd (w.data.getD 0 0))
  | none, some pc => s.request cl t.ret t.vf tc va w.loc (.colWrite pc w.data)
  | none, none => s.requestWrite cl t.ret t.vf tc va w.loc w.data (.write 0)

/-- Hand a read of another wafer to the port engine (R208). -/
def State.askRead (s : State) (t : Task) (cl : Client) (va : Dword) (axis : Option Nat) (l : Loc) (n : Nat)
    (tc? : Option Nat := none) : State :=
  let tc := tc?.getD (s.memTC t.vf)
  match axis with
  | some pc => s.request cl t.ret t.vf tc va l (.colRead n pc)
  | none => (blocks l n).foldl (fun s b => s.request cl t.ret t.vf tc va b.1 (.read b.2 0)) s

/-- Read a span through the extents that grant an access. -/
def State.spanReadAs (s : State) (t : Task) (k : Acc) (axis : Option Nat) (va n : Nat) (rem : List Byte) :
    State × List Byte × List Byte :=
  (s.spanLocs t k va n).foldl (fun acc x =>
    let q := acc.1.cpRead t axis x.1 x.2 acc.2.2
    (q.1, acc.2.1 ++ q.2.1, q.2.2)) (s, [], rem)

/-- Read a span. -/
def State.spanRead (s : State) (t : Task) (axis : Option Nat) (va n : Nat) (rem : List Byte) : State × List Byte × List Byte :=
  s.spanReadAs t .read axis va n rem

/-- The writes of bytes at a virtual address, place by place (R206). -/
def State.spanWrs (s : State) (t : Task) (va : Nat) (bs : List Byte) : List Wr :=
  ((s.spanLocs t .write va bs.length).foldl (fun (a : List Wr × List Byte) l =>
    (a.1 ++ [{ loc := l.1, data := a.2.take l.2 }], a.2.drop l.2)) ([], bs)).1

/-! ### Chunks (R263) -/

/-- Bytes of a copy on its scratchpad side. -/
def CopyKind.length (k : CopyKind) : Nat :=
  match k with
  | .box rec .. => Layout.extent rec
  | .linear _ _ len => len

def CopyKind.stores (k : CopyKind) : Bool :=
  match k with
  | .box rec .. => Layout.store rec
  | .linear st _ _ => st

/-- Units of a box that chunk `i` of the scratchpad extent touches. -/
def Layout.chunkUnits (r : Layout) (i : Nat) : List Nat :=
  let first := i * 1024 / r.unitBytes
  (List.range ((min (i * 1024 + 1024) r.extent + r.unitBytes - 1) / r.unitBytes - first)).map (· + first)

/-- Scratchpad byte of a unit at which element `k` stands: after the welt in a block (R81), else the unit's first. -/
def Layout.elemOff (r : Layout) (k : Nat) : Nat := if r.tgtRb then 2 + k * 2 ^ (r.tgt - 1) / 2 else 0

/-- The part of a span of unit `g` that belongs to chunk `i`: first byte and length. A load reads each span whole; a store
writes what comes from the chunk's bytes: of a block stored as it is those bytes, else the elements that stand there (R263). -/
def Layout.piece (r : Layout) (i g : Nat) (x : Nat × Nat × Nat) : Nat × Nat :=
  let lo := i * 1024
  let hi := min (lo + 1024) r.extent
  let at' := g * r.unitBytes
  if !r.store then (0, x.2.2)
  else if r.isRb && r.tgt != 4 then (max lo at' - at', min hi (at' + r.unitBytes) - max lo at')
  else if lo ≤ at' + r.elemOff x.1 && at' + r.elemOff x.1 < hi then (0, x.2.2) else (0, 0)

/-- The memory spans of chunk `i`: address and length. -/
def CopyKind.chunkSpans (k : CopyKind) (i : Nat) : List (Nat × Nat) :=
  match k with
  | .box rec c0 c1 c2 c3 =>
    (Layout.chunkUnits rec i).flatMap fun g =>
      (Layout.spans rec { i0 := c0, i1 := c1, i2 := c2, i3 := c3 } g).filterMap fun x =>
        let p := Layout.piece rec i g x
        if p.2 = 0 then none else some (x.2.1 + p.1, p.2)
  | .linear _ va len => if i * 1024 < len then [(va.toNat + i * 1024, min 1024 (len - i * 1024))] else []

/-- Every memory span of a copy. -/
def CopyKind.allSpans (k : CopyKind) : List (Nat × Nat) :=
  (List.range ((k.length + 1023) / 1024)).flatMap fun i => k.chunkSpans i

def CopyKind.axis (k : CopyKind) : Option Nat :=
  match k with
  | .box rec .. => if Layout.axis rec then some (Layout.pitch rec) else none
  | _ => none

def CpFlags.or (a b : CpFlags) : CpFlags := { sat := a.sat || b.sat, nan := a.nan || b.nan, oob := a.oob || b.oob }

/-- What chunk `i` of a storing copy writes, with its flags (R251, R263). -/
def State.chunkWrs (s : State) (t : Task) (x : Copy) (i : Nat) : List Wr × CpFlags :=
  match x.kind with
  | .linear _ va len =>
    let n := min 1024 (len - i * 1024)
    (s.spanWrs t (va.toNat + i * 1024) (t.scrBytes (x.s + i * 1024) n), {})
  | .box rec c0 c1 c2 c3 =>
    let r : Layout := rec
    let c : Coord := { i0 := c0, i1 := c1, i2 := c2, i3 := c3 }
    let ub := r.unitBytes
    (r.chunkUnits i).foldl (fun (acc : List Wr × CpFlags) g =>
      let u := r.storeUnit c g (t.scrBytes (x.s + g * ub) ub)
      let half (k : Nat) : Option Bool := if r.sfmt = 5 then some (decide ((r.elemAt c g k).i0 % 2 ≠ 0)) else none
      let ws := u.1.flatMap fun w =>
        let p := r.piece i g (w.1, w.2.1, w.2.2.length)
        (s.spanWrs t (w.2.1 + p.1) ((w.2.2.drop p.1).take p.2)).map fun y => { y with half := half w.1 }
      (acc.1 ++ ws, acc.2.or u.2)) ([], {})

/-- Write chunk `i` of a copy, as far as this wafer goes (R251, R263): the state and the flags. `rem` holds what a load reads on
other wafers. -/
def State.doChunk (s : State) (t : Task) (x : Copy) (i : Nat) (rem : List Byte) : State × CpFlags :=
  if x.kind.stores then
    let w := s.chunkWrs t x i
    ((w.1.filter fun y => !y.loc.isAway).foldl (fun s y => s.putWr t x.kind.axis y) s, w.2)
  else
    let lo := i * 1024
    let hi := min (lo + 1024) x.kind.length
    match x.kind with
    | .linear _ va _ =>
      let q := s.spanRead t none (va.toNat + lo) (hi - lo) rem
      (q.1.modTask t.uid fun t => t.scrWrite (x.s + lo) q.2.1, {})
    | .box rec c0 c1 c2 c3 =>
      let r : Layout := rec
      let c : Coord := { i0 := c0, i1 := c1, i2 := c2, i3 := c3 }
      let ub := r.unitBytes
      (r.chunkUnits i).foldl (fun (acc : (State × CpFlags) × List Byte) g =>
        let q := (r.spans c g).foldl (fun (a : State × List (Nat × List Byte) × List Byte) w =>
          let z := a.1.spanRead t x.kind.axis w.2.1 w.2.2 a.2.2
          (z.1, a.2.1 ++ [(w.1, z.2.1)], z.2.2)) (acc.1.1, [], acc.2)
        let u := r.loadUnit c g q.2.1
        -- only the bytes of this chunk
        let a := max lo (g * ub)
        let b := min hi ((g + 1) * ub)
        let s := q.1.modTask t.uid fun t => t.scrWrite (x.s + a) ((u.1.drop (a - g * ub)).take (b - a))
        ((s, acc.1.2.or u.2), q.2.2)) ((s, {}), rem) |>.1

/-- The places chunk `i` of a copy touches. -/
def State.chunkLocs (s : State) (t : Task) (x : Copy) (i : Nat) : List (Loc × Nat) :=
  (x.kind.chunkSpans i).flatMap fun p => s.spanLocs t (if x.kind.stores then .write else .read) p.1 p.2

/-- Hand what chunk `i` of a copy reads or writes on other wafers to the port engine (R208, R255). -/
def State.askChunk (s : State) (t : Task) (cl : Client) (x : Copy) (i : Nat) : State :=
  let va := BitVec.ofNat 64 (((x.kind.chunkSpans i).head?.map (·.1)).getD 0)
  if x.kind.stores then
    ((s.chunkWrs t x i).1.filter fun y => y.loc.isAway).foldl (fun s y => s.askWr t cl va x.kind.axis y) s
  else ((s.chunkLocs t x i).filter fun l => l.1.isAway).foldl (fun s l => s.askRead t cl va x.kind.axis l.1 l.2) s

/-! ### Issue (R254, R255) -/

/-- The first address of a list of spans whose bytes fail R206, counting bytes one by one. -/
def firstBad (t : Task) (k : Acc) (noHost : Bool) (sp : List (Nat × Nat)) : Option Nat :=
  let okAt (va n : Nat) : Bool := (t.extent? k va n).any fun e => !(noHost && e.host)
  sp.findSome? fun x =>
    if okAt x.1 x.2 then none else (List.range x.2).findSome? fun i => if okAt (x.1 + i) 1 then none else some (x.1 + i)

/-- What the checks of a copy say: the first failing step decides (R254). -/
inductive CpChk where
  | ok
  | park (code : Nat) (addr : Dword)
  | deny (addr : Dword)

/-- Checks over the bytes a copy touches (R206, R208, R254). -/
def checkSpans (s : State) (t : Task) (stores noHost : Bool) (sp : List (Nat × Nat)) : CpChk :=
  let k := if stores then Acc.write else Acc.read
  match firstBad t k noHost sp with
  | some va => .park cWINDOW_VIOLATION (BitVec.ofNat 64 va)
  | none =>
    let routes := sp.flatMap fun x => (s.spanLocs t k x.1 x.2).map fun l => (x.1, s.routeOf false l.1)
    match routes.find? fun r => r.2 = .denied with
    | some r => .deny (BitVec.ofNat 64 r.1)
    | none => match routes.find? fun r => r.2 = .unreachable with
      | some r => .park cUNREACHABLE (BitVec.ofNat 64 r.1)
      | none => .ok

/-- Put a checked copy into the open batch, sealing a full one first (R254). -/
def Issue.addCopy (now : Nat) (is : Issue) (l : Nat) (kind : CopyKind) (a : Nat) : Issue :=
  is.onCoach fun c =>
    let c := if 16 ≤ c.openBatch.length then c.seal is.site now else c
    -- after a copy has been cut short, later ones write nothing (R263)
    let chunks := if c.openErr.isSome then 0 else (kind.length + 1023) / 1024
    { c with openBatch := c.openBatch ++ [{ lane := l, site := is.site, kind, s := a, seq := c.seq, chunks }] }

/-- Act on the checks of one lane's copy. -/
def Issue.copyLane (now : Nat) (is : Issue) (l : Nat) (chk : CpChk) (kind : CopyKind) (a : Nat) : Issue :=
  match chk with
  | .ok => is.addCopy now l kind a
  | .park code addr => is.park now l code addr
  | .deny addr => { is with task := is.task.terminate cREMOTE_DENIED addr }

/-- CP.T n, vC, vS (R254). -/
def execCpT (n : BitVec 4) (c a : BitVec 7) (s : State) : Out :=
  .next (s.onIssue fun is =>
    (laneList is.enabled).foldl (fun js l =>
      let r : Layout := js.task.layouts.getD n.toNat 0
      let co (i : Nat) : Int := (is.snap.vget (c.toNat + i) l).toInt
      let kind := CopyKind.box r (co 0) (co 1) (co 2) (co 3)
      let sa := (is.snap.vget a.toNat l).toNat
      let chk :=
        if !r.ok (co 0) then CpChk.park cLAYOUT_INVALID 0
        else if sa % 16 ≠ 0 then .park cMISALIGNED_ACCESS (BitVec.ofNat 64 sa)
        else if js.task.shape.scratch < sa + r.extent then .park cSCRATCH_BOUNDS (BitVec.ofNat 64 sa)
        else checkSpans s js.task r.store r.axis kind.allSpans
      js.copyLane s.clock l chk kind sa) is)

/-- CP.L (R255). Several operands may be misaligned: DESIGN CHOICE (log 32): the scratchpad address is checked before the virtual
address and the length, and a record for a bad length names the virtual address, since the spec gives the record's ADDR for an
address only. -/
def copyLinear (st : Bool) (a sr : BitVec 7) (s : State) : Out :=
  .next (s.onIssue fun is =>
    (laneList is.enabled).foldl (fun js l =>
      let va := is.snap.vpair a.toNat l
      let sa := (is.snap.vget sr.toNat l).toNat
      let len := (is.snap.vget (sr.toNat + 1) l).toNat
      let kind := CopyKind.linear st va len
      let chk :=
        if sa % 4 ≠ 0 then CpChk.park cMISALIGNED_ACCESS (BitVec.ofNat 64 sa)
        else if va.toNat % 4 ≠ 0 ∨ len % 4 ≠ 0 then .park cMISALIGNED_ACCESS va
        else if js.task.shape.scratch < sa + len then .park cSCRATCH_BOUNDS (BitVec.ofNat 64 sa)
        else checkSpans s js.task st false kind.allSpans
      js.copyLane s.clock l chk kind sa) is)

/-- CP.L.LD vA, vS (R255). -/
def execCpLLd (a sr : BitVec 7) (s : State) : Out := copyLinear false a sr s

/-- CP.L.ST vA, vS (R255). -/
def execCpLSt (a sr : BitVec 7) (s : State) : Out := copyLinear true a sr s

/-- CP.SEAL gD (R256). -/
def execCpSeal (g : BitVec 6) (s : State) : Out :=
  .next (s.onIssue fun is =>
    if is.qon then
      is.onCoach fun c => (c.gput g.toNat (c.nextBatch.zeroExtend 32)).seal is.site s.clock
    else is)

/-- CP.QRY gD (R257). -/
def execCpQry (g : BitVec 6) (s : State) : Out :=
  .next (s.onIssue fun is =>
    if is.qon then
      is.onCoach fun c => c.gput g.toNat
        (BitVec.ofNat 32 (c.nextBatch.toNat + 2 ^ 16 * c.openBatch.length + 2 ^ 21 * c.count .c))
    else is)

/-! ### Chunks and batches (R258, R259, R263) -/

/-- The copies of a batch number: a sealed batch, or the open one. -/
def Coach.batch? (c : Coach) (num : Nat) : Option (Option Op × List Copy) :=
  match c.ops.find? fun o => match o.body with
    | .batch n _ _ => n == num && !o.done
    | _ => false with
  | some o => match o.body with
    | .batch _ cs _ => some (some o, cs)
    | _ => none
  | none => if num = c.nextBatch.toNat then some (none, c.openBatch) else none

/-- Change one copy of a batch. -/
def Coach.modCopy (c : Coach) (num idx : Nat) (f : Copy → Copy) : Coach :=
  let upd (cs : List Copy) : List Copy := (cs.zipIdx).map fun (x, i) => if i = idx then f x else x
  match c.batch? num with
  | some (some o, _) => c.setOp o.seq fun p => match p.body with
    | .batch n cs e => { p with body := .batch n (upd cs) e }
    | _ => p
  | some (none, _) => { c with openBatch := upd c.openBatch }
  | none => c

/-- A copy with nothing left to write. -/
def Copy.finished (x : Copy) : Bool := x.chunks ≤ x.next

/-- Outstanding copies of a coach in issue order: batch number, index, copy. -/
def Coach.copies (c : Coach) : List (Nat × Nat × Copy) :=
  let num (n : Nat) (cs : List Copy) := (cs.zipIdx).map fun (x, i) => (n, i, x)
  (c.ops.flatMap fun o => match o.body with
    | .batch n cs _ => if o.done then [] else num n cs
    | _ => []) ++ num c.nextBatch.toNat c.openBatch

/-- The places that a storing copy has yet to write. -/
def State.openWrites (s : State) (t : Task) (x : Copy) : List (Loc × Nat) :=
  if x.kind.stores then (List.range (x.chunks - x.next)).flatMap fun i => s.chunkLocs t x (x.next + i) else []

/-- Whether two copies may write the same byte (R260): scratchpad ranges, or places that meet. -/
def State.clashes (s : State) (t : Task) (a b : Copy) : Bool :=
  if a.kind.stores then (s.openWrites t a).any fun x => (s.openWrites t b).any fun y => x.1.meets x.2 y.1 y.2
  else !b.kind.stores && a.s < b.s + b.kind.length && b.s < a.s + a.kind.length

/-- Whether nothing keeps the next chunk of a copy from being written: earlier accesses of the coach are performed (R237),
and no older unfinished copy writes the same bytes (R260). -/
def State.chunkFree (s : State) (t : Task) (c : Coach) (num idx : Nat) (x : Copy) : Bool :=
  !x.finished && (c.ops.all fun o => o.done || x.seq ≤ o.seq || !(o.isAccess || o.isFence)) &&
    (c.copies.takeWhile fun y => !(y.1 == num && y.2.1 == idx)).all fun y => y.2.2.finished || !s.clashes t y.2.2 x

/-- Whether every place of this wafer that a list names has a path (R352). -/
def State.nearOk (s : State) (t : Task) (ls : List (Loc × Nat)) : Bool := ls.all fun l => l.1.isAway || s.pathOk t.ret l.1

/-- Whether the next chunk of a copy may be written: it is free, and its homes on this wafer are reached. -/
def State.chunkReady (s : State) (t : Task) (c : Coach) (num idx : Nat) (x : Copy) : Bool :=
  s.chunkFree t c num idx x && s.nearOk t (s.chunkLocs t x x.next)

/-- Find a copy. -/
def State.findCopy (s : State) (t c num idx : Nat) : Option (Task × Coach × Copy) :=
  match s.coach? t c with
  | none => none
  | some (tk, co) => match co.batch? num with
    | some (_, cs) => cs[idx]?.map fun x => (tk, co, x)
    | none => none

/-- The next chunk of a copy is written (R263). -/
def State.finishChunk (s : State) (tk : Task) (c num idx : Nat) (x : Copy) (rem : List Byte) : State :=
  let q := s.doChunk tk x x.next rem
  let s := q.1.countCU tk.ret tk.cu 0x00A tk.vf ((min 1024 (x.kind.length - x.next * 1024)) / 32)
  (s.dropReqs (.chunk tk.uid c num idx)).modCoach tk.uid c fun co => co.modCopy num idx fun y =>
    { y with next := y.next + 1, wait := false, satf := y.satf || q.2.sat, nanf := y.nanf || q.2.nan, oobf := y.oobf || q.2.oob }

/-- COPY_CHUNK_WRITE: the next chunk of copy `idx` of batch number `num` is written whole (R263), once other wafers have answered
for what it touches there. A home that refuses the request ends the task (R356). -/
def execCopyChunkWrite (t c num idx : Nat) (remote : List Byte) (s : State) : Out :=
  .next (match s.findCopy t c num idx with
    | some (tk, co, x) =>
      let cl : Client := .chunk t c num idx
      let ls := s.chunkLocs tk x x.next
      if !s.chunkReady tk co num idx x || !agrees remote (s.answerOf cl) then s
      else if ls.any fun l => s.refused tk l.1 then
        s.modTask t fun tk => tk.terminate cREMOTE_DENIED
          (BitVec.ofNat 64 (((x.kind.chunkSpans x.next).head?.map (·.1)).getD 0))
      else if !(ls.any fun l => l.1.isAway) then s.finishChunk tk c num idx x []
      else if !x.wait then
        (s.askChunk tk cl x x.next).modCoach t c fun co => co.modCopy num idx fun y => { y with wait := true }
      else match s.answerOf cl with
        | some rem => s.finishChunk tk c num idx x rem
        | none => s
    | none => s)

/-- CPSTAT of a batch (R259). -/
def batchStatus (num : Nat) (cs : List Copy) (err : Option (Nat × Nat × Nat)) : Word :=
  let e := err.getD (0, 0, 0)
  let flag (b : Bool) (i : Nat) : Nat := if b then 2 ^ i else 0
  BitVec.ofNat 32 (e.2.2 % 1024 + 2 ^ 10 * e.2.1 + 2 ^ 14 * e.1 + flag (cs.any (·.satf)) 16 + flag (cs.any (·.nanf)) 17
    + flag (cs.any (·.oobf)) 18 + 2 ^ 24 * (num % 256))

/-- The oldest sealed batch that has not completed (R258). -/
def Coach.oldestBatch (c : Coach) : Option (Op × Nat × List Copy × Option (Nat × Nat × Nat)) :=
  c.ops.findSome? fun o => match o.body with
    | .batch n cs e => if o.done then none else some (o, n, cs, e)
    | _ => none

/-- Whether a batch has nothing left to do; of one with an error the copies before the cut one are still performed (R263). -/
def batchOver (cs : List Copy) : Bool := cs.all Copy.finished

/-- BATCH_COMPLETE: the oldest sealed batch completes and CPSTAT takes its status (R258, R259, R263). -/
def execBatchComplete (t c : Nat) (s : State) : Out :=
  .next (match (s.coach? t c).bind fun x => x.2.oldestBatch with
    | some (o, num, cs, err) =>
      if batchOver cs then
        let st := batchStatus num cs err
        s.modTask t fun tk =>
          { tk.modCoach c (fun co => { co.setOp o.seq (fun p => { p with done := true }) with cpstat := st }) with
            badCpstat := if err.isSome ∧ tk.badCpstat = 0 then st else tk.badCpstat }
      else s
    | none => s)

/-- Cut a coach's copies short at its first unfinished copy that an event meets (R262, R263): that batch and every later
one complete with the error, and what was written stands. Copies issued before the cut one go on. -/
def Coach.cutCopies (c : Coach) (err : Nat) (hit : Copy → Bool) : Coach :=
  match c.copies.find? fun x => !x.2.2.finished && hit x.2.2 with
  | none => c
  | some (num, idx, x) =>
    let stop (cs : List Copy) : List Copy := (cs.zipIdx).map fun (y, i) => if idx ≤ i then { y with chunks := y.next } else y
    let kill (cs : List Copy) : List Copy := cs.map fun y => { y with chunks := y.next }
    let later := ((c.copies.dropWhile fun y => y.1 != num).filter fun y => y.1 != num).map (·.1)
    { c with
      ops := c.ops.map fun o => match o.body with
        | .batch n cs e =>
          if o.done then o
          else if n = num then { o with body := .batch n (stop cs) (some (e.getD (err, idx, x.next))) }
          else if later.contains n then { o with body := .batch n (kill cs) (some (e.getD (err, 0, 0))) }
          else o
        | _ => o
      openBatch := if num = c.nextBatch.toNat then stop c.openBatch else kill c.openBatch
      openErr := if c.openErr.isSome then c.openErr else if num = c.nextBatch.toNat then some (err, idx, x.next) else some (err, 0, 0) }

end Sys2Proof.Machine
end

