-- ==== Sys2Proof/Machine/Matrix.lean ====
section
/-! DEFINITION. The matrix engine (R266 to R290): the tag directory, the checks of each MX slot at issue, passes, and what a
part does when it is performed. -/

namespace Sys2Proof.Machine

/-! ### Slots, tags and accumulators (R266 to R270) -/

/-- RB code (1 RB4, 2 RB8, 3 RB16) of an FMT or AFMT field (R272, R274). -/
def rbOfFmt (f : Nat) : Nat := f + 1

/-- Positions that a tile of a format occupies (R266). -/
def posLen (f : Nat) : Nat := 2 ^ f

/-- Whether a first position is allowed for a format (R266). -/
def posOk (f p : Nat) : Bool := p % posLen f == 0

/-- Bytes of an A row or a B column: 8 blocks (R270). -/
def rowBytes (f : Nat) : Nat := 8 * rbBytes (rbOfFmt f)

/-- Bytes of a B tile: 128 columns (R270). -/
def bTileBytes (f : Nat) : Nat := 128 * rowBytes f

/-- Whether two directory entries share a position (R267). -/
def TagEntry.overlaps (a b : TagEntry) : Bool :=
  a.group == b.group && a.pos < b.pos + posLen b.fmt && b.pos < a.pos + posLen a.fmt

/-- Whether two entries name the same slot. -/
def TagEntry.sameSlot (a b : TagEntry) : Bool := a.group == b.group && a.pos == b.pos && a.fmt == b.fmt

/-- The directory entry of a tag (R267). -/
def Task.tag? (t : Task) (tag : Nat) : Option TagEntry := t.tags.find? fun e => e.tag = tag

/-- The directory after MLDB issues: overlapped entries and the tag's old entry go, the new one is loading (R275). -/
def Task.loadTag (t : Task) (e : TagEntry) : Task :=
  { t with tags := t.tags.filter (fun x => !x.overlaps e && x.tag != e.tag) ++ [{ e with ready := false }] }

/-- Key of byte `i` of the slot at a group and a first position. -/
def tileKey (group pos i : Nat) : Nat := (group * 4 + pos) * 131072 + i

/-- A tile's bytes placed in a slot (R275). -/
def Task.putTile (t : Task) (e : TagEntry) (bs : List Byte) : Task :=
  { t with tiles := (bs.zipIdx).foldl (fun m (b, i) => tput 0 m (tileKey e.group e.pos i) b) t.tiles }

/-- The bytes of column `c` of the tile in a slot (R270). -/
def Task.tileColumn (t : Task) (e : TagEntry) (c : Nat) : List Byte :=
  (List.range (rowBytes e.fmt)).map fun i => tget 0 t.tiles (tileKey e.group e.pos (c * rowBytes e.fmt + i))

/-- The 8 blocks of an A row or a B column (R270). -/
def blocksOf (f : Nat) (bs : List Byte) : List RbBlock :=
  let rb := rbOfFmt f
  (List.range 8).map fun q => RbBlock.ofBytes rb ((bs.drop (q * rbBytes rb)).take (rbBytes rb))

/-- Key of element (r, c) of accumulator `n` of an octet of a CU. -/
def accKey (ret cu octet n r c : Nat) : Nat := (((ret * 32 + cu) * 8 + octet) * 8 + n) * 1024 + r * 128 + c

/-- Element (r, c) of an accumulator. -/
def State.accGet (s : State) (ret cu octet n r c : Nat) : Word := tget 0 s.accs (accKey ret cu octet n r c)

/-- Write elements of an accumulator: those of the listed rows. -/
def State.accPutRows (s : State) (ret cu octet n : Nat) (rows : List Nat) (f : Nat → Nat → Word) : State :=
  { s with accs := rows.foldl (fun m r =>
      (List.range 128).foldl (fun m c => tput 0 m (accKey ret cu octet n r c) (f r c)) m) s.accs }

/-! ### Issue (R271 to R283) -/

/-- The octets of the pass in issue with at least one enabled lane: number, enabled lanes of it (R271). -/
def Issue.octets (is : Issue) : List (Nat × Lanes) :=
  (List.range is.coach.width).filterMap fun j =>
    let o := is.coach.octet0 + j
    let m := is.enabled &&& octetLanes o 1
    if m = 0 then none else some (o, m)

/-- Issue an operation of class T; one that never takes effect does not count (R42, R271). -/
def Issue.addT (now : Nat) (is : Issue) (body : Body) (empty : Bool) : Issue :=
  is.onCoach fun c =>
    let c := c.addOp { seq := 0, cls := some .t, site := is.site, body, start := now, done := empty }
    { c with ops := pruneOps c.ops }

/-- What an octet's checks say: a part, or the lanes that park alone and the part of the others, or a failure of all
enabled lanes of the octet, or a denied address. `denied` of a part ends the task as well. -/
inductive MxChk where
  | part (p : Part) (alone : List (Nat × Nat × Dword)) (denied : Option Dword := none)
  | park (code : Nat) (addr : Dword)
  | deny (addr : Dword)

/-- Form the parts of a pass, octet by octet in ascending order, and count the operation once on T (R271). -/
def Issue.formParts (now : Nat) (is : Issue) (f : Task → Nat → Lanes → MxChk) (body : List Part → Body) : Issue :=
  let r := is.octets.foldl (fun (acc : Issue × List Part) o =>
    match f acc.1.task o.1 o.2 with
    | .part p alone denied =>
      let js := alone.foldl (fun (js : Issue) x => js.park now x.1 x.2.1 x.2.2) acc.1
      let js := match denied with
        | some d => { js with task := js.task.terminate cREMOTE_DENIED d }
        | none => js
      if p.lanes = 0 then (js, acc.2) else (js, acc.2 ++ [p])
    | .park code addr => (acc.1.parkAll now o.2 code fun _ => addr, acc.2)
    | .deny addr => ({ acc.1 with task := acc.1.task.terminate cREMOTE_DENIED addr }, acc.2)) (is, [])
  r.1.addT now (body r.2) r.2.isEmpty

/-- An MX slot that forms parts. -/
def mxParts (f : State → Issue → Task → Nat → Lanes → MxChk) (body : List Part → Body) (s : State) : Out :=
  .next (s.onIssue fun is => if is.cur.pred = 0xF then is else is.formParts s.clock (f s is) body)

/-- A B descriptor (R274), if it breaks no rule. -/
def bDescriptor (d : Word) (span : Nat) : Option TagEntry :=
  let e : TagEntry := { tag := field d 0 16, group := field d 16 3, pos := field d 19 2, fmt := field d 21 2, ready := false }
  if e.group < span && e.fmt != 3 && posOk e.fmt e.pos && field d 23 9 == 0 then some e else none

/-- MLDB gD, gS (R275): once for the pass, when some lane is enabled. -/
def execMldb (gd gs : BitVec 6) (s : State) : Out :=
  .next (s.onIssue fun is =>
    if is.cur.pred = 0xF then is
    else
      let a := is.snap.gget gs.toNat
      let none' : Body := .mldb { tag := 0, group := 0, pos := 0, fmt := 0, ready := false } 0
      if is.enabled = 0 then is.addT s.clock none' true
      else match bDescriptor (is.snap.gget gd.toNat) is.task.span with
        | none => is.raise cILLEGAL_FIELD
        | some e =>
          if a.toNat % 16 ≠ 0 then
            (is.parkAll s.clock is.enabled cMISALIGNED_ACCESS fun _ => a.zeroExtend 64).addT s.clock none' true
          else if is.task.shape.scratch < a.toNat + bTileBytes e.fmt then
            (is.parkAll s.clock is.enabled cSCRATCH_BOUNDS fun _ => a.zeroExtend 64).addT s.clock none' true
          else ({ is with task := is.task.loadTag e }).addT s.clock (.mldb e a.toNat) false)

/-- The checks of MMA on an octet (R276). -/
def mmaCheck (c : Coach) (a tg : BitVec 7) (afmt : Nat) (t : Task) (o : Nat) (m : Lanes) (ac : Nat) : MxChk :=
  let l := lowLane m
  let x := (c.vget a.toNat l).toNat
  if x % 16 ≠ 0 then .park cMISALIGNED_ACCESS (BitVec.ofNat 64 x)
  else if t.shape.scratch < x + 8 * rowBytes afmt then .park cSCRATCH_BOUNDS (BitVec.ofNat 64 x)
  else match t.tag? (field (c.vget tg.toNat l) 0 16) with
    | none => .park cB_TAG_MISSING 0
    | some e =>
      .part { octet := o, lanes := m, ac, afmt, slot := some e
              rows := (List.range 8).map fun r => (r, BitVec.ofNat 64 (x + r * rowBytes afmt), .scratch (x + r * rowBytes afmt)) } []

/-- The checks of MMG on an octet: the base and the tag for the octet, then each enabled lane's row (R277). -/
def mmgCheck (c : Coach) (a tg : BitVec 7) (afmt : Nat) (t : Task) (o : Nat) (m : Lanes) (ac : Nat) : MxChk :=
  let l := lowLane m
  let p := (c.vget a.toNat l).toNat
  if p % 16 ≠ 0 then .park cMISALIGNED_ACCESS (BitVec.ofNat 64 p)
  else match t.tag? (field (c.vget tg.toNat l) 0 16) with
    | none => .park cB_TAG_MISSING 0
    | some e =>
      let rows := (laneList m).map fun i =>
        (i, (p + (c.vget (a.toNat + 1) i).toNat * rowBytes afmt) % 2 ^ 32)
      let bad := rows.filter fun x => t.shape.scratch < x.2 + rowBytes afmt
      let good := rows.filter fun x => !(t.shape.scratch < x.2 + rowBytes afmt)
      .part { octet := o, lanes := laneMask fun i => good.any fun x => x.1 == i, ac, afmt, slot := some e
              rows := good.map fun x => (x.1 % 8, BitVec.ofNat 64 x.2, .scratch x.2) }
        (bad.map fun x => (x.1, cSCRATCH_BOUNDS, BitVec.ofNat 64 x.2))

/-- MMA.fmt acN, vA, vT (R276). -/
def execMma (ac : BitVec 3) (a t : BitVec 7) (afmt : BitVec 2) (s : State) : Out :=
  mxParts (fun _ is tk o m => mmaCheck is.snap a t afmt.toNat tk o m ac.toNat) .mma s

/-- MMG.fmt acN, vA, vT (R277). -/
def execMmg (ac : BitVec 3) (a t : BitVec 7) (afmt : BitVec 2) (s : State) : Out :=
  mxParts (fun _ is tk o m => mmgCheck is.snap a t afmt.toNat tk o m ac.toNat) .mma s

/-- MZERO acN (R278). -/
def execMzero (ac : BitVec 3) (s : State) : Out :=
  mxParts (fun _ _ _ o m => .part { octet := o, lanes := m, ac := ac.toNat } []) .mzero s

/-- MRD vD, acN, c (R278). -/
def execMrd (ac : BitVec 3) (col : BitVec 4) (d : BitVec 7) (s : State) : Out :=
  mxParts (fun _ _ _ o m => .part { octet := o, lanes := m, ac := ac.toNat } []) (.mrd col.toNat d) s

/-! ### Write-out (R279 to R282) -/

def ctlFmt (w : Word) : Nat := field w 0 3
def ctlScratch (w : Word) : Bool := w.getLsbD 3
def ctlSat (w : Word) : Bool := w.getLsbD 4
def ctlGap (w : Word) : Nat := field w 5 5
def ctlAdd (w : Word) : Bool := w.getLsbD 10
def ctlRnd (w : Word) : Nat := field w 11 3
def ctlPitch (w : Word) : Nat := 16 * field w 16 16

/-- Bytes of a written row (R279). -/
def outRow (f : Nat) : Nat :=
  match f with
  | 0 => 512
  | 1 => 256
  | 2 => 256
  | 3 => 128
  | 4 => 128
  | _ => 4 * rbBytes (f - 4)

/-- Whether a write-out control word breaks no rule (R279). -/
def ctlOk (sc : Bool) (w : Word) : Bool :=
  let f := ctlFmt w
  let r := ctlRnd w
  (!ctlAdd w || (sc && f == 0 && !ctlScratch w)) &&
    (f == 0 || (if f ≤ 4 then 1 ≤ r && r ≤ 6 else r == 1 || r == 6)) &&
    field w 14 2 == 0 && decide (outRow f ≤ ctlPitch w)

/-- The rows of a part with their destinations (R280). -/
def outRows (c : Coach) (sc : Bool) (a : BitVec 7) (w : Word) (o : Nat) (m : Lanes) : List (Nat × Nat × Dword) :=
  let l := lowLane m
  let base := if ctlScratch w then (c.vget a.toNat l).toNat else (c.vpair a.toNat l).toNat
  let top := if ctlScratch w then 2 ^ 32 else 2 ^ 64
  let dest (r k : Nat) : Nat × Nat × Dword := (8 * o + r, r, BitVec.ofNat 64 ((base + k * ctlPitch w) % top))
  if sc then ((List.range 8).filter fun r => m.getLsbD (8 * o + r)).map fun r =>
      dest r (c.vget (a.toNat + 2) (8 * o + r)).toNat
  else (List.range 8).map fun r => dest r r

/-- What the checks of one destination row say (R282). -/
def rowCheck (s : State) (t : Task) (w : Word) (dest : Dword) : CpChk :=
  let n := outRow (ctlFmt w)
  if ctlScratch w then
    if t.shape.scratch < dest.toNat + n then .park cSCRATCH_BOUNDS dest else .ok
  else
    let k := if ctlAdd w then Acc.atomic else Acc.write
    match firstBad t k (ctlAdd w) [(dest.toNat, n)] with
    | some _ => .park cWINDOW_VIOLATION dest
    | none =>
      let routes := (s.spanLocs t k dest.toNat n).map fun l => s.routeOf false l.1
      if routes.any fun r => r == .denied then .deny dest
      else if routes.any fun r => r == .unreachable then .park cUNREACHABLE dest
      else .ok

/-- The place of a destination row. -/
def rowLoc (s : State) (t : Task) (w : Word) (dest : Dword) : Loc :=
  if ctlScratch w then .scratch dest.toNat
  else match s.spanLocs t .write dest.toNat 1 with
    | (l, _) :: _ => l
    | [] => .scratch dest.toNat

/-- The checks of a write-out part (R282). -/
def mstCheck (s : State) (c : Coach) (sc : Bool) (a : BitVec 7) (w : Word) (t : Task) (o : Nat) (m : Lanes) (ac : Nat) :
    MxChk :=
  let l := lowLane m
  let base := if ctlScratch w then (c.vget a.toNat l).zeroExtend 64 else c.vpair a.toNat l
  if ctlAdd w && !t.pinned then .park cNONIDEMPOTENT_OP base
  else if base.toNat % 16 ≠ 0 then .park cMISALIGNED_ACCESS base
  else
    let rows := outRows c sc a w o m
    let chk := rows.map fun x => (x, rowCheck s t w x.2.2)
    let denied := chk.findSome? fun x => match x.2 with
      | .deny d => some d
      | _ => none
    let parks := chk.filterMap fun x => match x.2 with
      | .park code d => some (x.1.1, code, d)
      | _ => none
    let keep (rows : List (Nat × Nat × Dword)) : List (Nat × Dword × Loc) :=
      rows.map fun x => (x.2.1, x.2.2, rowLoc s t w x.2.2)
    if sc then
      let good := (chk.filter fun x => match x.2 with
        | .ok => true
        | _ => false).map (·.1)
      .part { octet := o, lanes := m &&& laneMask (fun i => good.any fun y => y.1 == i), ac, rows := keep good } parks denied
    else
      -- in the order of R282's table, then a disabled reticle (R2)
      match parks.find? fun x => x.2.1 != cUNREACHABLE, denied, parks with
      | some (_, code, d), _, _ => .park code d
      | none, some d, _ => .deny d
      | none, none, (_, code, d) :: _ => .park code d
      | none, none, [] => .part { octet := o, lanes := m, ac, rows := keep rows } []

/-- MST and MST.SC at issue; a bad control word is found where some lane is enabled. -/
def mstIssue (sc : Bool) (ac : BitVec 3) (a : BitVec 7) (gc : BitVec 6) (s : State) : Out :=
  .next (s.onIssue fun is =>
    if is.cur.pred = 0xF then is
    else
      let w := is.snap.gget gc.toNat
      if is.enabled != 0 && !ctlOk sc w then is.raise cILLEGAL_FIELD
      else is.formParts s.clock (fun t o m => mstCheck s is.snap sc a w t o m ac.toNat)
        (.mst sc w (is.snap.gget (gc.toNat + 1))))

/-- MST acN, vA, gC (R280). -/
def execMst (ac : BitVec 3) (a : BitVec 7) (gc : BitVec 6) (s : State) : Out := mstIssue false ac a gc s

/-- MST.SC acN, vA, gC (R280). -/
def execMstSc (ac : BitVec 3) (a : BitVec 7) (gc : BitVec 6) (s : State) : Out := mstIssue true ac a gc s

/-- The generator state for the element in column `k` of a run that starts at `dest` (R281). -/
def outSr (seed : Word) (dest : Nat) (k : Nat) : Word :=
  let x0 := seed ^^^ (BitVec.ofNat 32 dest * 0x9E3779B9#32)
  let x0 := if x0 = 0 then 1 else x0
  (List.range (k + 1)).foldl (fun y _ => srStep y) x0

/-- Bytes, saturation and NaN of one row written out (R281). -/
def convertRow (w seed : Word) (dest : Nat) (acc : Nat → Word) : List Byte × Bool × Bool :=
  let f := ctlFmt w
  let mode := rmodeOf (ctlRnd w)
  if f ≤ 4 then
    let es := if f = 0 then 4 else if f ≤ 2 then 2 else 1
    let ps := (List.range 128).map fun c =>
      packElem f (ctlSat w) 0 mode (if mode = .sr then outSr seed (dest + c / 32 * 32 * es) (c % 32) else 0) (acc c)
    (ps.flatMap fun p => leBytes es p.code, ps.any (·.sat), ps.any (·.nan))
  else
    let rb := f - 4
    let bs := (List.range 4).map fun q =>
      formBlock rb (ctlGap w) (if mode = .sr then some (outSr seed (dest + q * rbBytes rb)) else none)
        ((List.range 32).map fun k => fFP32.decode (acc (32 * q + k)).toNat)
    (bs.flatMap fun b => b.1.bytes rb, bs.any (·.2), bs.any fun b => b.1.e0 == 255)

/-! ### When a part may be performed (R237, R275, R284, R287) -/

/-- The parts of a matrix operation. -/
def Body.parts (b : Body) : List Part :=
  match b with
  | .mma ps => ps
  | .mzero ps => ps
  | .mrd _ _ ps => ps
  | .mst _ _ _ ps => ps
  | _ => []

def Body.setParts (b : Body) (ps : List Part) : Body :=
  match b with
  | .mma _ => .mma ps
  | .mzero _ => .mzero ps
  | .mrd c d _ => .mrd c d ps
  | .mst sc w x _ => .mst sc w x ps
  | b => b

def Op.isMma (o : Op) : Bool :=
  match o.body with
  | .mma _ => true
  | _ => false

def Op.isMst (o : Op) : Bool :=
  match o.body with
  | .mst .. => true
  | _ => false

/-- Whether an operation reads or writes memory or scratchpad and so follows the coach's earlier accesses (R237). -/
def Op.afterAccesses (o : Op) : Bool :=
  match o.body with
  | .mma _ => true
  | .mldb .. => true
  | .mst .. => true
  | _ => false

/-- Whether two parts name the same accumulator (R287). -/
def Part.sameAcc (a b : Part) : Bool := a.octet == b.octet && a.ac == b.ac

/-- The byte ranges that a write-out part writes. -/
def State.partSpans (s : State) (t : Task) (w : Word) (p : Part) : List (Loc × Nat) :=
  p.rows.flatMap fun x =>
    if ctlScratch w then [(x.2.2, outRow (ctlFmt w))] else s.spanLocs t .write x.2.1.toNat (outRow (ctlFmt w))

/-- The write-outs of an operation that are not performed: spans of each part. -/
def State.openSpans (s : State) (t : Task) (o : Op) : List (Loc × Nat) :=
  match o.body with
  | .mst _ w _ ps => (ps.filter fun p => !p.done).flatMap fun p => s.partSpans t w p
  | _ => []

/-- A write-out part of which some rows have gone and others have not: it still reads its accumulator (R287). -/
def Part.halfOut (p : Part) : Bool := !p.done && !p.gone.isEmpty && p.rows.any fun x => !p.gone.contains x.1

/-- Whether a part may be performed, apart from its pass: the coach's earlier accesses performed (R237), earlier parts on
the accumulator done, no write-out of another coach in the middle of it, and the younger of two write-outs of one byte last
(R237, R287). -/
def State.partReady (s : State) (t : Task) (c : Coach) (o : Op) (p : Part) : Bool :=
  let older := c.older o
  !p.done && (!o.afterAccesses || older.all fun q => !(q.isAccess || q.isFence)) &&
    older.all (fun q => q.body.parts.all fun x => x.done || !x.sameAcc p) &&
    t.coaches.all (fun d => d.num == c.num || d.ops.all fun q => q.body.parts.all fun x => !(x.sameAcc p && x.halfOut)) &&
    (match o.body with
     | .mst _ w _ _ =>
       let mine := s.partSpans t w p
       older.all fun q => (s.openSpans t q).all fun x => mine.all fun y => !(x.1.meets x.2 y.1 y.2)
     | _ => true)

/-- A queued part of MMA or MMG with what it belongs to. -/
structure Queued where
  coach : Coach
  op : Op
  part : Part

/-- Where a part stands in its group's queue: cycle, coach, issue order, octet (R284). -/
def Queued.before (a b : Queued) : Bool :=
  if a.op.start ≠ b.op.start then a.op.start < b.op.start
  else if a.coach.num ≠ b.coach.num then a.coach.num < b.coach.num
  else if a.op.seq ≠ b.op.seq then a.op.seq < b.op.seq
  else a.part.octet < b.part.octet

def insertQueued (xs : List Queued) (b : Queued) : List Queued :=
  match xs with
  | [] => [b]
  | a :: rest => if b.before a then b :: a :: rest else a :: insertQueued rest b

/-- The undone parts of a group of a task, in queue order (R284). -/
def Task.groupQueue (t : Task) (group : Nat) : List Queued :=
  (t.coaches.flatMap fun c => c.ops.flatMap fun o =>
    if o.isMma && !o.done then
      (o.body.parts.filter fun p => !p.done && (p.slot.map (·.group)) == some group).map fun p => { coach := c, op := o, part := p }
    else []).foldl insertQueued []

/-- Whether the tile a part is bound to is in its slot: no MLDB issued before the part still loads those positions
(R275, R276). -/
def Task.tileReady (t : Task) (x : Queued) : Bool :=
  match x.part.slot with
  | none => false
  | some e => t.coaches.all fun c => c.ops.all fun o =>
      match o.body with
      | .mldb f _ => o.done || !f.overlaps e || x.op.start < o.start || (x.op.start = o.start && x.coach.num < c.num) ||
          (c.num = x.coach.num && x.op.seq < o.seq)
      | _ => true

/-- Whether two queued parts would read one tile: the same tag bound to the same slot, and no MLDB into its positions issued
between them (R275, R285, R287). -/
def Task.sameTile (t : Task) (h x : Queued) : Bool :=
  match h.part.slot, x.part.slot with
  | some e, some f => e.tag == f.tag && e.sameSlot f && t.coaches.all fun c => c.ops.all fun o =>
      match o.body with
      | .mldb g _ => o.done || !g.overlaps e || !(h.before { x with coach := c, op := o } && Queued.before { h with coach := c, op := o } x)
      | _ => true
  | _, _ => false

/-- Whether a part may join a pass whose first part is `h`, `before` being the parts of this pass and of those ahead of it: its
tile is the pass's, the first part reached the group at most 64 cycles earlier, and no queued operation of its coach on the
same accumulator is left behind (R285). -/
def Task.joins (t : Task) (h : Queued) (before : List Queued) (x : Queued) : Bool :=
  t.sameTile h x && x.op.start ≤ h.op.start + 64 &&
    (x.coach.older x.op).all fun q => q.body.parts.all fun p => p.done || !p.sameAcc x.part ||
      before.any fun y => y.coach.num == x.coach.num && y.op.seq == q.seq && y.part.octet == p.octet

/-- Put a part into the first pass of a queue that it may join, else behind them all (R284, R285). -/
def Task.enqueue (t : Task) (ahead : List Queued) (passes : List (List Queued)) (x : Queued) : List (List Queued) :=
  match passes with
  | [] => [[x]]
  | p :: rest =>
    if p.head?.any fun h => t.joins h (ahead ++ p) x then (p ++ [x]) :: rest
    else p :: t.enqueue (ahead ++ p) rest x

/-- The passes of a group that have not started, in queue order. -/
def Task.passes (t : Task) (group : Nat) : List (List Queued) :=
  ((t.groupQueue group).filter fun x => !x.part.started).foldl (t.enqueue []) []

/-- The parts that a pass started now streams: those of the first queued pass, once no other pass of the group runs, its tile is
in the slot and its first part may be performed (R284, R285). -/
def Task.passParts (s : State) (t : Task) (group : Nat) : List Queued :=
  if (t.groupQueue group).any fun x => x.part.started then []
  else match t.passes group with
    | (h :: rest) :: _ => if t.tileReady h && s.partReady t h.coach h.op h.part then h :: rest else []
    | _ => []

/-- Change one part of an operation; with every part done the operation is done (R271). -/
def Coach.modPart (c : Coach) (seq octet : Nat) (f : Part → Part) : Coach :=
  c.setOp seq fun o =>
    let ps := o.body.parts.map fun p => if p.octet = octet then f p else p
    { o with body := o.body.setParts ps, done := o.done || ps.all (·.done) }

/-- MATRIX_PASS_START: a group begins a pass over the slot at the head of its queue (R284, R285). -/
def execMatrixPassStart (t group : Nat) (s : State) : Out :=
  .next (match s.task? t with
    | none => s
    | some tk =>
      (tk.passParts s group).zipIdx.foldl (fun s (x, i) =>
        s.modCoach t x.coach.num fun c => c.modPart x.op.seq x.part.octet fun p => { p with started := true, turn := i }) s)

/-! ### Performing (R276 to R281) -/

/-- The rows of an accumulator after a part of MMA or MMG (R276, R277). -/
def State.mmaPart (s : State) (t : Task) (p : Part) : State :=
  match p.slot with
  | none => s
  | some e =>
    let cols := (List.range 128).map fun c => blocksOf e.fmt (t.tileColumn e c)
    let arow (r : Nat) : List RbBlock :=
      match p.rows.find? fun x => x.1 = r with
      | some x => blocksOf p.afmt (t.scrBytes x.2.1.toNat (rowBytes p.afmt))
      | none => []
    let na := rbN (rbOfFmt p.afmt)
    let nb := rbN (rbOfFmt e.fmt)
    let old (r c : Nat) : Word := s.accGet t.ret t.cu p.octet p.ac r c
    let rows := (p.rows.map (·.1)).map fun r =>
      let a := arow r
      (r, (cols.zipIdx).map fun (b, c) => mmaElem na nb (old r c) a b)
    let new (r c : Nat) : Word := match rows.find? fun x => x.1 = r with
      | some x => x.2.getD c 0
      | none => old r c
    ((s.countCU t.ret t.cu 0x008 t.vf 1).countCU t.ret t.cu 0x009 t.vf (8 * na)).accPutRows t.ret t.cu p.octet p.ac (p.rows.map (·.1)) new

/-- What MRD of one octet writes to a coach's registers (R278). -/
def State.mrdPart (s : State) (t : Task) (p : Part) (col : Nat) (d : BitVec 7) : List (Nat × Word) :=
  (laneList p.lanes).flatMap fun l => (List.range 8).map fun k =>
    (vkey (d.toNat + k) l, s.accGet t.ret t.cu p.octet p.ac (l % 8) (8 * col + k))

/-- Whether it is the turn of a part in its pass (R285). -/
def Task.onTurn (t : Task) (p : Part) : Bool :=
  match p.slot with
  | none => false
  | some e => (t.groupQueue e.group).all fun x => !x.part.started || p.turn ≤ x.part.turn

/-- A started part of MMA or MMG that may be performed. -/
def State.mmaReady (s : State) (t : Task) (c : Coach) (o : Op) (p : Part) : Bool :=
  p.started && t.onTurn p && s.partReady t c o p

/-- MATRIX_PART_COMPLETE: a part of MMA, MMG, MZERO or MRD is performed (R276 to R278, R284). -/
def execMatrixPartComplete (t c seq octet : Nat) (s : State) : Out :=
  .next (match s.findOp t c seq with
    | none => s
    | some (tk, co, o) =>
      match o.body.parts.find? fun p => p.octet = octet with
      | none => s
      | some p =>
        let fin (s : State) : State := s.modCoach t c fun co => co.modPart seq octet fun p => { p with done := true }
        match o.body with
        | .mma _ => if s.mmaReady tk co o p then fin (s.mmaPart tk p) else s
        | .mzero _ =>
          if s.partReady tk co o p then fin (s.accPutRows tk.ret tk.cu octet p.ac (List.range 8) fun _ _ => 0) else s
        | .mrd col d _ =>
          if s.partReady tk co o p then fin (s.land t c o (s.mrdPart tk p col d)) else s
        | _ => s)

/-- Whether an MLDB may be performed: the coach's earlier accesses, every part issued before it that uses the positions,
and every earlier load into them (R237, R275). -/
def State.mldbReady (t : Task) (c : Coach) (o : Op) (e : TagEntry) : Bool :=
  (c.older o).all (fun q => !(q.isAccess || q.isFence)) &&
    t.coaches.all fun d => d.ops.all fun q =>
      let earlier := q.start < o.start || (q.start = o.start && d.num < c.num) || (d.num = c.num && q.seq < o.seq)
      q.done || !earlier ||
        (match q.body with
         | .mma ps => ps.all fun p => p.done || !(p.slot.any fun f => f.overlaps e)
         | .mldb f _ => !f.overlaps e
         | _ => true)

/-- MLDB_COMPLETE: the tile is in the slot and its entry, if it still stands, becomes ready (R275). -/
def execMldbComplete (t c seq : Nat) (s : State) : Out :=
  .next (match s.findOp t c seq with
    | none => s
    | some (tk, co, o) =>
      match o.body with
      | .mldb e a =>
        if State.mldbReady tk co o e then
          s.modTask t fun tk =>
            let tk := tk.putTile e (tk.scrBytes a (bTileBytes e.fmt))
            let newer := tk.coaches.any fun d => d.ops.any fun q =>
              match q.body with
              | .mldb f _ => !q.done && f.tag == e.tag && f.sameSlot e && !(d.num == c && q.seq == seq)
              | _ => false
            let tags := tk.tags.map fun x =>
              if x.tag = e.tag ∧ x.sameSlot e ∧ newer = false then { x with ready := true } else x
            { tk with tags := tags }.modCoach c fun co => co.setOp seq fun p => { p with done := true }
        else s
      | _ => s)

/-- Add an FP32 value to the element at a list of places of this wafer: one read-modify-write at the home (R280). -/
def State.addElem (s : State) (t : Task) (ls : List (Loc × Nat)) (x : Word) : State :=
  let p : At := { ret := t.ret, cu := t.cu }
  let q := ls.foldl (fun (acc : State × List Byte) l =>
    let r := acc.1.engRead p l.1 l.2
    (r.1, acc.2 ++ r.2)) (s, [])
  let new := leBytes 4 (addRNE (BitVec.ofNat 32 (leNat q.2)) x).toNat
  (ls.foldl (fun (acc : State × List Byte) l => (acc.1.engWrite p l.1 (acc.2.take l.2), acc.2.drop l.2)) (q.1, new)).1

/-- One row of a write-out: what this wafer takes is performed, the rest goes to the port engine (R280, R282). -/
def State.mstRow (s : State) (t : Task) (cl : Client) (w : Word) (dest : Dword) (bs : List Byte) (acc : Nat → Word) : State :=
  if ctlScratch w then s.modTask t.uid fun tk => tk.scrWrite dest.toNat bs
  else if ctlAdd w then
    (List.range 128).foldl (fun s c =>
      match s.spanLocs t .atomic (dest.toNat + 4 * c) 4 with
      | [] => s
      | l :: ls =>
        if l.1.isAway then s.request cl t.ret t.vf (s.memTC t.vf) dest l.1 (.atomic 10 4 0 ((acc c).zeroExtend 64) 0)
        else s.addElem t (l :: ls) (acc c)) s
  else (s.spanWrs t dest.toNat bs).foldl (fun s y => if y.loc.isAway then s.askWr t cl dest none y else s.putWr t none y) s

/-- The places of one row of a write-out. -/
def State.rowLocs (s : State) (t : Task) (w : Word) (dest : Dword) : List (Loc × Nat) :=
  if ctlScratch w then [] else s.spanLocs t .write dest.toNat (outRow (ctlFmt w))

/-- The rows of a write-out part that may go now: not gone, with a path to every home on this wafer, and behind no lower row that
stays and shares a byte with it (R280). -/
def State.rowsReady (s : State) (t : Task) (w : Word) (p : Part) : List (Nat × Dword × Loc) :=
  ((p.rows.filter fun x => !p.gone.contains x.1).foldl (fun (a : List (Nat × Dword × Loc) × List (Loc × Nat)) x =>
    let ls := s.rowLocs t w x.2.1
    if s.nearOk t ls && ls.all fun y => a.2.all fun z => !(y.1.meets y.2 z.1 z.2) then (a.1 ++ [x], a.2) else (a.1, a.2 ++ ls)) ([], [])).1

/-- Rows of a write-out part in ascending order, and the sticky bits (R280, R281). -/
def State.mstRows (s : State) (t : Task) (c : Coach) (seq : Nat) (w seed : Word) (p : Part) (rows : List (Nat × Dword × Loc)) : State :=
  rows.foldl (fun s x =>
    let acc (k : Nat) : Word := s.accGet t.ret t.cu p.octet p.ac x.1 k
    let r := convertRow w seed x.2.1.toNat acc
    let s := s.mstRow t (.part t.uid c.num seq p.octet) w x.2.1 r.1 acc
    s.modCoach t.uid c.num fun co => { co with mxSat := co.mxSat || r.2.1, mxNan := co.mxNan || r.2.2 }) s

/-- A write-out part has nothing left to write and every home has answered (R280, R282). -/
def State.partWritten (s : State) (t c seq : Nat) (p : Part) : Bool :=
  (p.rows.all fun x => p.gone.contains x.1) && (s.reqsOf (.part t c seq p.octet)).all fun q => match q.answer with
    | some (.data _) => true
    | _ => false

/-- A write-out part whose rows are all performed is done. -/
def State.settlePart (s : State) (t c seq octet : Nat) : State :=
  match s.findOp t c seq with
  | none => s
  | some (_, _, o) =>
    match o.body.parts.find? fun p => p.octet = octet with
    | some p =>
      if s.partWritten t c seq p then
        (s.dropReqs (.part t c seq octet)).modCoach t c fun co => co.modPart seq octet fun p => { p with done := true }
      else s
    | none => s

/-- MST_PART_COMPLETE: the rows of a write-out part that have a path are performed or handed to the port engine; with every row
performed at its home the part is done (R280, R282). A home that refuses a row ends the task (R356). -/
def execMstPartComplete (t c seq octet : Nat) (s : State) : Out :=
  .next (match s.findOp t c seq with
    | none => s
    | some (tk, co, o) =>
      match o.body, o.body.parts.find? fun p => p.octet = octet with
      | .mst _ w seed _, some p =>
        if !s.partReady tk co o p then s
        else
          let rows := s.rowsReady tk w p
          let no := rows.filter fun x => (s.rowLocs tk w x.2.1).any fun l => s.refused tk l.1
          let s := match no with
            | x :: _ => s.modTask t fun tk => tk.terminate cREMOTE_DENIED x.2.1
            | [] => s
          let s := s.mstRows tk co seq w seed p (rows.filter fun x => !(no.any fun y => y.1 == x.1))
          let s := s.modCoach t c fun co => co.modPart seq octet fun p => { p with gone := p.gone ++ rows.map (·.1) }
          s.settlePart t c seq octet
      | _, _ => s)

/-! ### MQRY (R283) -/

/-- What MQRY reads. -/
def mqryWord (t : Task) (c : Coach) (tag : Nat) : Word :=
  let e := t.tag? tag
  let st := match e with
    | none => 0
    | some x => if x.ready then 2 else 1
  let get (f : TagEntry → Nat) : Nat := (e.map f).getD 0
  BitVec.ofNat 32 (st + 4 * get (·.group) + 2 ^ 5 * get (·.pos) + 2 ^ 7 * get (·.fmt) +
    (if c.mxSat then 2 ^ 9 else 0) + (if c.mxNan then 2 ^ 10 else 0) + 2 ^ 16 * c.count .t)

/-- MQRY[.CLR] gD, gT (R283). -/
def execMqry (gd gt : BitVec 6) (clr : Bool) (s : State) : Out :=
  .next (s.onIssue fun is =>
    if is.qon then
      let w := mqryWord is.task is.coach (field (is.snap.gget gt.toNat) 0 16)
      is.onCoach fun c =>
        let c := c.gput gd.toNat w
        if clr then { c with mxSat := false, mxNan := false } else c
    else is)

end Sys2Proof.Machine
end

