-- ==== Sys2Proof/Machine/Post.lean ====
section
/-! DEFINITION. Posts (R361 to R369), requests from other wafers (R356), refusals and class timeouts (R354). -/

namespace Sys2Proof.Machine

/-! ### Issue (R363) -/

/-- The scratchpad operands of a post: address and bytes. -/
def PostKind.operands (k : PostKind) : List (Nat × Nat) :=
  match k with
  | .words src len => [(src, len)]
  | .signal _ => []
  | .quant xa n ra _ => [(xa, 4 * n), (ra, 4 * n)]

/-- Bytes that a post writes at its destination. -/
def PostKind.bytes (k : PostKind) : Nat :=
  match k with
  | .words _ len => len
  | .signal _ => 8
  | .quant _ n _ _ => n

/-- The alignment of a destination (R365, R366, R368). -/
def PostKind.align (k : PostKind) : Nat :=
  match k with
  | .words .. => 4
  | .signal _ => 8
  | .quant .. => 1

def PostKind.acc (k : PostKind) : Acc :=
  match k with
  | .signal _ => .atomic
  | _ => .write

/-- The first scratchpad operand that is misaligned; a bad length goes with its source (R363, R365, R368). -/
def PostKind.badOperand (k : PostKind) : Option Nat :=
  match k with
  | .words src len => if src % 4 ≠ 0 ∨ len % 4 ≠ 0 ∨ 65536 < len then some src else none
  | .signal _ => none
  | .quant xa n ra _ => if xa % 4 ≠ 0 ∨ 16384 < n then some xa else if ra % 4 ≠ 0 then some ra else none

/-- Checks after translation of the places of a destination (R2, R26, R29, R363). -/
def State.destCheck (s : State) (ls : List (Loc × Nat)) (va : Dword) : CpChk :=
  let rs := ls.map fun l => s.routeOf true l.1
  if rs.any fun r => r == .denied then .deny va
  else if rs.any fun r => r == .unreachable then .park cUNREACHABLE va
  else .ok

/-- A counter needs one extent that covers its 8 bytes, as its add is one access (R206, R366). -/
def PostKind.counterOk (k : PostKind) (t : Task) (va : Nat) : Bool :=
  match k with
  | .signal _ => (t.extent? .atomic va 8).isSome
  | _ => true

/-- The checks of a post, in the order of R363. -/
def postCheck (s : State) (t : Task) (scope : Nat) (k : PostKind) (dst : Dword) : CpChk :=
  if !t.pinned then .park cNONIDEMPOTENT_OP 0
  else if !s.scopeOk t.vf scope then .park cSCOPE_DENIED 0
  else match k.badOperand with
    | some a => .park cMISALIGNED_ACCESS (BitVec.ofNat 64 a)
    | none => match k.operands.find? fun x => t.shape.scratch < x.1 + x.2 with
      | some x => .park cSCRATCH_BOUNDS (BitVec.ofNat 64 x.1)
      | none =>
        if dst.toNat % k.align ≠ 0 then .park cMISALIGNED_ACCESS dst
        else if !k.counterOk t dst.toNat then .park cWINDOW_VIOLATION dst
        else match firstBad t k.acc true (if k.bytes = 0 then [] else [(dst.toNat, k.bytes)]) with
          | some _ => .park cWINDOW_VIOLATION dst
          | none => s.destCheck (s.spanLocs t k.acc dst.toNat k.bytes) dst

/-- A post slot: each enabled lane's post in ascending lane order; the pass counts once on N (R363). `f` gives a lane's
kind; `a` names the destination pair. -/
def postIssue (scope tc : Nat) (a : BitVec 7) (f : Coach → Nat → PostKind) (s : State) : Out :=
  .next (s.onIssue fun is =>
    if is.cur.pred = 0xF then is
    else
      let r := (laneList is.enabled).foldl (fun (acc : Issue × List Post) l =>
        let k := f is.snap l
        let dst := is.snap.vpair a.toNat l
        match postCheck s acc.1.task scope k dst with
        | .ok => (acc.1, if k.bytes = 0 then acc.2 else acc.2 ++ [{ lane := l, kind := k, dst }])
        | .park code addr => (acc.1.park s.clock l code addr, acc.2)
        | .deny addr => ({ acc.1 with task := acc.1.task.terminate cREMOTE_DENIED addr }, acc.2)) (is, [])
      r.1.onCoach fun c =>
        let c := c.addOp { seq := 0, cls := some .n, site := is.site, body := .post scope tc r.2, start := s.clock,
                           done := r.2.isEmpty }
        { c with ops := pruneOps c.ops })

/-- POST.W vA, vS (R365). -/
def execPostW (a r : BitVec 7) (scope : BitVec 3) (tc : BitVec 2) (s : State) : Out :=
  postIssue scope.toNat tc.toNat a
    (fun c l => .words (c.vget r.toNat l).toNat (c.vget (r.toNat + 1) l).toNat) s

/-- POST.S vA, vI (R366). -/
def execPostS (a i : BitVec 7) (scope : BitVec 3) (tc : BitVec 2) (s : State) : Out :=
  postIssue scope.toNat tc.toNat a (fun c l => .signal (c.vpair i.toNat l)) s

/-- POST.Q vA, vS (R368). -/
def execPostQ (a r : BitVec 7) (scope : BitVec 3) (tc : BitVec 2) (fmt : Bool) (s : State) : Out :=
  postIssue scope.toNat tc.toNat a
    (fun c l => .quant (c.vget r.toNat l).toNat (c.vget (r.toNat + 1) l).toNat (c.vget (r.toNat + 2) l).toNat fmt) s

/-! ### Acceptance (R364, R368, R369) -/

/-- One element of POST.Q: its FP8 code and its residual (R368). -/
def quantElem (e5m2 : Bool) (x e : Word) : Nat × Word :=
  let f := if e5m2 then fE5M2 else fE4M3
  let sum := addRNE x e
  let v := fFP32.decode sum.toNat
  if v.isNan then (f.nan, 0)
  else if v.isInf then (f.signed (sum.getLsbD 31) f.maxFin, 0)
  else
    let q := (narrow f .rne false true 0 sum.toNat).code
    (q, BitVec.ofNat 32 (fFP32.sub .rne false false 0 sum.toNat (widen f false q).code).code)

/-- Quantise in ascending order, writing each residual before the next element is read (R368, R369). -/
def Task.quantise (t : Task) (xa n ra : Nat) (e5m2 : Bool) : Task × List Byte :=
  (List.range n).foldl (fun (acc : Task × List Byte) i =>
    let w (a : Nat) : Word := BitVec.ofNat 32 (leNat (acc.1.scrBytes (a + 4 * i) 4))
    let q := quantElem e5m2 (w xa) (w ra)
    (acc.1.scrWrite (ra + 4 * i) (leBytes 4 q.2.toNat), acc.2 ++ [BitVec.ofNat 8 q.1])) (t, [])

/-- Cut bytes at `va` into packets: at most 64 bytes of one aligned 64-byte block and of one place (R364). -/
def packetsOf (s : State) (t : Task) (k : Acc) (va : Nat) (bs : List Byte) : List Packet :=
  let n := (va + bs.length + 63) / 64 - va / 64
  (List.range n).flatMap fun i =>
    let lo := max va ((va / 64 + i) * 64)
    let hi := min (va + bs.length) ((va / 64 + i + 1) * 64)
    let part := (bs.drop (lo - va)).take (hi - lo)
    ((s.spanLocs t k lo (hi - lo)).foldl (fun (acc : List Packet × Nat) l =>
      (acc.1 ++ [{ va := lo + acc.2, loc := l.1, data := (part.drop acc.2).take l.2 }], acc.2 + l.2)) ([], 0)).1

/-- The port engine accepts a post: it reads the sources and writes the residuals, and forms the packets (R364, R369). -/
def State.acceptPost (s : State) (tu : Nat) (scope : Nat) (p : Post) : State × Post :=
  match s.task? tu with
  | none => (s, p)
  | some t =>
    match p.kind with
    | .words src len => (s, { p with accepted := true, packets := packetsOf s t .write p.dst.toNat (t.scrBytes src len) })
    | .signal inc =>
      let s := s.releaseAt t scope
      (s, { p with accepted := true, packets := packetsOf s t .atomic p.dst.toNat (leBytes 8 inc.toNat) })
    | .quant xa n ra e5m2 =>
      let q := t.quantise xa n ra e5m2
      (s.modTask tu fun _ => q.1, { p with accepted := true, packets := packetsOf s t .write p.dst.toNat q.2 })

/-- The places a post writes. -/
def State.postLocs (s : State) (t : Task) (p : Post) : List (Loc × Nat) :=
  if p.accepted then p.packets.map fun x => (x.loc, x.data.length) else s.spanLocs t p.kind.acc p.dst.toNat p.kind.bytes

/-- The places that an operation of class N writes and that have not been acknowledged. -/
def State.nSpans (s : State) (t : Task) (o : Op) : List (Loc × Nat) :=
  match o.body with
  | .post _ _ ps => ps.flatMap fun p => s.postLocs t p
  | .coll _ _ ps => (ps.filter fun p => !p.done).flatMap fun p => s.spanLocs t .write p.dst.toNat p.dstLen
  | _ => []

/-- Scratchpad bytes whose residuals a post writes when it is accepted (R369). -/
def PostKind.residual (k : PostKind) : List (Nat × Nat) :=
  match k with
  | .quant _ n ra _ => [(ra, 4 * n)]
  | _ => []

/-- Whether a post that has yet to be accepted would write residuals that the other reads or writes, or read what it writes: the
younger follows the older (R237, R369). -/
def PostKind.shares (a b : PostKind) : Bool :=
  let meet (xs ys : List (Nat × Nat)) : Bool := xs.any fun x => ys.any fun y => x.1 < y.1 + y.2 && y.1 < x.1 + x.2
  meet a.residual b.operands || meet a.operands b.residual

/-- Whether two lists of places share a byte. -/
def locsMeet (xs ys : List (Loc × Nat)) : Bool := xs.any fun x => ys.any fun y => x.1.meets x.2 y.1 y.2

/-- The posts that come before a post of an operation: those of older operations and of lower lanes. -/
def Coach.earlierPosts (c : Coach) (o : Op) (p : Post) : List Post :=
  ((c.older o) ++ [o]).flatMap fun q => match q.body with
    | .post _ _ ps => if q.seq = o.seq then ps.takeWhile fun x => x.lane != p.lane else ps
    | _ => []

/-- Whether a post may be performed: the coach's earlier accesses performed (R237), for POST.S every earlier operation of
class N acknowledged (R239, R241), else those that write the same bytes (R241), and those accepted whose residuals it shares
(R369). -/
def State.postReady (s : State) (t : Task) (c : Coach) (o : Op) (p : Post) : Bool :=
  let older := c.older o
  let posts := c.earlierPosts o p
  !o.never && older.all (fun q => !(q.isAccess || q.isFence)) &&
    posts.all (fun q => q.accepted || !q.kind.shares p.kind) &&
    (match p.kind with
     | .signal _ => older.all fun q => q.cls != some .n
     | _ =>
       let mine := s.postLocs t p
       older.all (fun q => !locsMeet (s.nSpans t q) mine) && posts.all fun q => !locsMeet (s.postLocs t q) mine)

/-- Accept the posts of an operation that are ready. -/
def State.acceptPosts (s : State) (t : Task) (c : Coach) (o : Op) (scope : Nat) (ps : List Post) : State × List Post :=
  ps.foldl (fun (acc : State × List Post) p =>
    if !p.accepted && acc.1.postReady t ((acc.1.coach? t.uid c.num).map (·.2) |>.getD c) o p then
      let r := acc.1.acceptPost t.uid scope p
      (r.1, acc.2 ++ [r.2])
    else (acc.1, acc.2 ++ [p])) (s, [])

/-! ### Performing packets (R356, R364 to R366) -/

/-- The place that stands for one in a retired frame of this wafer: the same byte of its spare (R28, R381). -/
def State.standIn (s : State) (l : Loc) : Loc :=
  match l with
  | .glob node ret off key wid =>
    if node ≠ 0xFFFF then l
    else match s.root.spareOf.find? fun x => x.1 = devAddr ret off / 65536 * 65536 with
      | some x => .glob node (x.2 / 2 ^ 42) (x.2 % 2 ^ 42 + off % 65536) key wid
      | none => l
  | l => l

/-- One packet at its home on this wafer. -/
def State.postPacket (s : State) (t : Task) (k : PostKind) (x : Packet) : State :=
  let p : At := { ret := t.ret, cu := t.cu }
  let l := s.standIn x.loc
  match k with
  | .signal inc =>
    let r := s.engRead p l 8
    r.1.engWrite p l (leBytes 8 (leNat r.2 + inc.toNat))
  | _ => s.engWrite p l x.data

/-- The request of a packet to another wafer (R364, R382). -/
def PostKind.request (k : PostKind) (x : Packet) : ReqKind :=
  match k with
  | .signal inc => .signal inc
  | .words .. => .post 4 x.data
  | .quant .. => .post 6 x.data

/-- The client of a packet. -/
def Packet.client (x : Packet) (t c seq lane : Nat) : Client := .packet t c seq lane x.va

/-- Send the packets of an accepted post (R364): those for this wafer that have a path are performed, those for others go to the
port engine, and those that have been acknowledged are gone. A refusal completes the post and ends the task (R356). -/
def State.sendPost (s : State) (t : Task) (c seq tc : Nat) (p : Post) : State × Post :=
  if !p.accepted then (s, p)
  else
    let go := p.packets.filter fun x => !x.loc.isAway && s.pathOk t.ret x.loc
    let cl (x : Packet) : Client := x.client t.uid c seq p.lane
    let acked := p.packets.filter fun x => x.loc.isAway && (s.answerOf (cl x)).isSome
    let new := p.packets.filter fun x => x.loc.isAway && !x.asked
    let no := go.any fun x => s.refused t x.loc
    let s := (go.filter fun x => !s.refused t x.loc).foldl (fun s x => s.postPacket t p.kind x) s
    let s := (go ++ acked).foldl (fun s x => s.dropReqs (cl x)) s
    if no then
      let s := p.packets.foldl (fun s x => s.dropReqs (cl x)) s
      (s.modTask t.uid fun t => t.terminate cREMOTE_DENIED p.dst, { p with packets := [] })
    else
      let s := new.foldl (fun s x => s.request (cl x) t.ret t.vf tc p.dst x.loc (p.kind.request x)) s
      let left := p.packets.filter fun x => !(go.contains x || acked.contains x)
      (s, { p with packets := left.map fun x => if x.loc.isAway then { x with asked := true } else x })

/-- Put the posts of an operation back, dropping those that have completed; with none left it is done (R363). -/
def Coach.setPosts (c : Coach) (seq scope tc : Nat) (ps : List Post) : Coach :=
  let left := ps.filter fun p => !p.accepted || !p.packets.isEmpty
  c.setOp seq fun o => { o with body := .post scope tc left, done := left.isEmpty }

/-- POST_COMPLETE: the posts of a pass are accepted and sent, and end as their packets are acknowledged (R363, R364). -/
def execPostComplete (t c seq : Nat) (s : State) : Out :=
  .next (match s.findOp t c seq with
    | none => s
    | some (tk, co, o) =>
      match o.body with
      | .post scope tc ps =>
        let r := s.acceptPosts tk co o scope ps
        let q := r.2.foldl (fun (acc : State × List Post) p =>
          let z := acc.1.sendPost tk c seq tc p
          (z.1, acc.2 ++ [z.2])) (r.1, [])
        q.1.modCoach t c fun co => co.setPosts seq scope tc q.2
      | _ => s)

/-! ### Requests from other wafers (R356, R391) -/

/-- Whether a request from another wafer is accepted: the owning tenant's policy names the issuing function's binding as
a post peer (R356, R416). -/
def State.peerOk (s : State) (node vf ret off : Nat) : Bool :=
  offOk off && (match s.homePart ret with
    | none => false
    | some p => match s.vf? p.vf with
      | none => false
      | some o => s.root.bindings.any fun b => b.1 == node && b.2.1 == vf && o.policy.peers.contains b.2.2)

/-- The bytes of an LDAXIS request: 4 rows of `w` columns (R222), read by column without an L1 (R200). -/
def State.axisRead (s : State) (ret off key pc w : Nat) : State × List Byte :=
  let q := s.columnRead ret (secBase pc off) pc key (off % 32) w none
  (q.1, (List.range 4).flatMap fun k => (List.range w).map fun i => ((q.2.getD i []).getD (secRow pc off + k) 0))

/-- Perform a request at its home LLC: the state and the bytes of the answer (R200, R208, R252). UNPIN does nothing, since a sector
here is owned by no partition of another wafer (R221). -/
def State.serve (s : State) (ret off key : Nat) (k : ReqKind) : State × List Byte :=
  match k with
  | .read n pol =>
    let r := s.homeReadAux (n + 1) ret off key n pol
    (if pol = 2 then r.1.dropSegment ret (off / 32 * 32) else r.1, r.2)
  | .colRead n pc =>
    let q := s.columnRead ret (secBase pc off) pc key (off % 32) n none
    (q.1, q.2.map fun col => col.getD (secRow pc off) 0)
  | .axis pc w => s.axisRead ret off key pc w
  | .pin pc =>
    let r := s.pinSector (.glob 0xFFFF ret off key 0) pc
    (r.1, leBytes 4 r.2)
  | .unpin _ => (s, [])
  | .pf pc => ((s.prefetchLLC ret off key pc).getD s, [])
  | .write pol bs => (s.homeWrite ret off key bs pol, [])
  | .colWrite pc bs => ((bs.zipIdx).foldl (fun s (b, i) => s.columnWrite ret (secBase pc off) pc key (off + i) b) s, [])
  | .nibble odd b =>
    let r := s.homeReadAux 2 ret off key 1 0
    (r.1.homeWrite ret off key [putHalf odd (r.2.getD 0 0).toNat b.toNat], [])
  | .atomic op n pol x cmp =>
    let r := s.homeReadAux (n + 1) ret off key n pol
    (r.1.homeWrite ret off key (leBytes n (atomNew op n (leNat r.2) x.toNat cmp.toNat)) pol, r.2)
  | .post _ bs => (s.homeWrite ret off key bs, [])
  | .signal inc =>
    let r := s.homeReadAux 9 ret off key 8 0
    (r.1.homeWrite ret off key (leBytes 8 (leNat r.2 + inc.toNat)), [])

/-- Answer a request: a read response where it brings bytes back, else an acknowledgement, or a refusal (R356, R382). -/
def State.answerReq (s : State) (ret : Nat) (req : RemoteReq) (ok : Bool) (bs : List Byte) : State :=
  s.outgo ret { kind := if !ok then 9 else if bs.isEmpty then 8 else 1, tc := req.tc, vf := req.vf, tid := req.tid,
                dest := globAddr req.srcNode req.srcRet 0, bytes := bs.length, payload := bs }

/-- The record of a request that this one repeats (R391): of one with the same SRCNODE, SRCRET and TID whose answer has not been
acknowledged on its way. After that acknowledgement the source may use the TID again: a request that differs from the recorded one is
then a new one, and of one that equals it the target cannot tell, so that it is free (log 80). -/
def State.repeats (s : State) (req : RemoteReq) : Option Applied :=
  s.port.applied.find? fun x => x.req.srcNode == req.srcNode && x.req.srcRet == req.srcRet && x.req.tid == req.tid &&
    (!x.acked || (x.req == req && Config.freeBool s.freeIx))

/-- Record a request that is applied, in place of an older one under its TID (R391). -/
def State.noteApplied (s : State) (x : Applied) : State :=
  { s with port := { s.port with applied := (s.port.applied.filter fun y =>
      !(y.req.srcNode == x.req.srcNode && y.req.srcRet == x.req.srcRet && y.req.tid == x.req.tid)) ++ [x] } }

/-- REMOTE_REQUEST_ARRIVE: a request reaches its port engine; it is applied once, on the spare where its frame is retired, or
refused (R241, R356, R381, R391). -/
def execRemoteRequestArrive (ret : Nat) (req : RemoteReq) (s : State) : Out :=
  .next (
    let off := field req.dest 0 42
    if !s.live ret then s
    else match s.repeats req with
    | some x => (s.bumpFree 1).answerReq ret req true x.data
    | none =>
      if field req.dest 42 6 = ret && s.peerOk req.srcNode req.vf ret off then
        match s.standIn (.glob 0xFFFF ret off 0 0) with
        | .glob _ r o _ _ =>
          let q := s.serve r o (s.keyNow r o (((s.homePart ret).map (·.key)).getD 0)) req.kind
          ((q.1.noteApplied { req, data := q.2 }).bumpFree 1).answerReq ret req true q.2
        | _ => s
      else s.answerReq ret req false [])

/-! ### Requests that end without their effect (R354, R356) -/

/-- The operation that a client belongs to, by coach and issue place; a copy of the open batch stands under the number that its
batch will get. -/
def Coach.placeOf (c : Coach) (t : Nat) (cl : Client) : Option Nat :=
  let own (t' c' seq : Nat) : Option Nat := if t' = t ∧ c' = c.num then some seq else none
  match cl with
  | .lane t' c' seq _ => own t' c' seq
  | .packet t' c' seq _ _ => own t' c' seq
  | .part t' c' seq _ => own t' c' seq
  | .source t' c' seq _ => own t' c' seq
  | .result t' c' seq _ => own t' c' seq
  | .chunk t' c' num _ => own t' c' (match c.batch? num with
      | some (some o, _) => o.seq
      | _ => c.seq)
  | _ => none

/-- The requests of an operation that `sel` picks, one for each client. -/
def State.opReqs (s : State) (t : Nat) (c : Coach) (seq : Nat) (sel : PortReq → Bool) : List PortReq :=
  (s.port.reqs.filter fun q => c.placeOf t q.client == some seq && sel q).foldl (fun (a : List PortReq) q =>
    if a.any fun x => x.client == q.client then a else a ++ [q]) []

/-- The posts of one lane end. -/
def Coach.endPost (c : Coach) (seq lane : Nat) : Coach :=
  c.setOp seq fun o => match o.body with
    | .post sc tc ps =>
      let left := ps.filter fun p => p.lane != lane
      { o with body := .post sc tc left, done := left.isEmpty }
    | _ => o

/-- What waits for a client's answer ends without it: the lane's part, the post, the write-out part, the copy or the
participation. -/
def Coach.endClient (c : Coach) (cl : Client) : Coach :=
  match cl with
  | .lane _ _ seq lane => c.setOp seq fun p =>
      { p with lanes := p.lanes.filter (fun y => y.lane != lane), done := (p.lanes.filter fun y => y.lane != lane).isEmpty }
  | .packet _ _ seq lane _ => c.endPost seq lane
  | .part _ _ seq octet => c.modPart seq octet fun p => { p with done := true }
  | .chunk _ _ num idx => c.modCopy num idx fun y => { y with chunks := y.next }
  | .source _ _ seq lane => c.setOp seq fun o =>
      let ps := o.body.particips.map fun p => if p.lane = lane then { p with done := true } else p
      { o with body := o.body.setParticips ps, done := ps.all (·.done) }
  | .result _ _ seq lane => c.setOp seq fun o =>
      let ps := o.body.particips.map fun p => if p.lane = lane then { p with done := true } else p
      { o with body := o.body.setParticips ps, done := ps.all (·.done) }
  | _ => c

/-- REMOTE_REFUSAL: refusals of other wafers have returned for an operation, and the task ends with REMOTE_DENIED (R356). -/
def execRemoteRefusal (t c seq : Nat) (s : State) : Out :=
  .next (match s.coach? t c with
    | some (_, co) =>
      (s.opReqs t co seq fun q => q.answer == some .refused).foldl (fun s q =>
        (s.modTask t fun tk => (tk.terminate cREMOTE_DENIED q.va).modCoach c fun co => co.endClient q.client).dropReqs q.client) s
    | none => s)

/-! ### Class timeouts (R242, R262, R282, R354) -/

/-- Park lanes of a coach for an operation that timed out. -/
def Task.parkMask (t : Task) (now c : Nat) (x : Site) (m : Lanes) (addr : Dword) : Task :=
  (laneList m).foldl (fun t l => t.parkLane now c x l cUNREACHABLE addr) t

/-- Whether a request has stood at its port engine, held or without an answer, for the timeout of its class (R352, R354). -/
def State.overdue (s : State) (q : PortReq) : Bool :=
  q.answer.isNone && q.since + q.timeout ≤ s.clock

/-- Whether a member of a participation's group cannot be reached (R377). -/
def State.memberLost (s : State) (ret : Nat) (p : Particip) : Bool :=
  match s.group? p.vf p.grp with
  | some g => g.members.any fun m => !s.reach ret (if s.isHere m.1 then 0xFFFF else m.1) m.2
  | none => false

/-- Whether what a request is for still waits. -/
def State.waits (s : State) (cl : Client) : Bool :=
  match cl with
  | .lane t c seq lane => (s.findOp t c seq).any fun x => x.2.2.lanes.any fun y => y.lane == lane
  | .packet t c seq lane va => (s.findOp t c seq).any fun x => match x.2.2.body with
      | .post _ _ ps => ps.any fun p => p.lane == lane && p.packets.any fun y => y.va == va
      | _ => false
  | .part t c seq octet => (s.findOp t c seq).any fun x => x.2.2.body.parts.any fun p => p.octet == octet && !p.done
  | .chunk t c num idx => (s.findCopy t c num idx).any fun x => !x.2.2.finished
  | .source t c seq lane => (s.findOp t c seq).any fun x => x.2.2.body.particips.any fun p => p.lane == lane && !p.done
  | .result t c seq lane => (s.findOp t c seq).any fun x => x.2.2.body.particips.any fun p => p.lane == lane && !p.done
  | .node t => (s.task? t).any fun x => x.copyOf.isSome && x.phase == .translated
  | .record l _ => (s.launch? l).isSome
  | .none => true

/-- A lane's part of an access ends without its answer; the last of an acquire still takes its L1 action, which later accesses wait for
(R220, R232). -/
def State.endLane (s : State) (t c seq lane : Nat) : State :=
  match s.findOp t c seq with
  | some (tk, _, o) => if o.lanes.all fun y => y.lane == lane then s.completeBody tk o.body else s
  | none => s

/-- What a client's class timeout does: the issuing lanes park with UNREACHABLE, and what waits ends. A copy is cut short, and
what waits for the lost acknowledgement never completes (R242, R262, R282). -/
def State.timeoutClient (s : State) (t c : Nat) (q : PortReq) : State :=
  match s.coach? t c with
  | none => s
  | some (_, co) =>
    let park (x : Site) (m : Lanes) (tk : Task) : Task := tk.parkMask s.clock c x m q.va
    let lose (o : Op) (tk : Task) : Task := tk.modCoach c fun co => (co.lose o).endClient q.client
    -- a client that has ended meanwhile, with another packet of its post, has nothing left to park (R364)
    let s := if !s.waits q.client then s else match q.client with
      | .lane _ _ seq lane => match co.op? seq with
        | some o => (s.endLane t c seq lane).modTask t fun tk => lose o (park o.site (laneBit lane) tk)
        | none => s
      | .packet _ _ seq lane _ => match co.op? seq with
        | some o => s.modTask t fun tk => lose o (park o.site (laneBit lane) tk)
        | none => s
      | .part _ _ seq octet => match (co.op? seq).bind fun (o : Op) => (o.body.parts.find? fun (p : Part) => p.octet = octet).map fun (p : Part) => (o, p) with
        | some (o, p) => s.modTask t fun tk => (park o.site p.lanes tk).modCoach c fun co => co.endClient q.client
        | none => s
      | .chunk _ _ num idx => match (co.batch? num).bind fun b => b.2[idx]? with
        | some x => s.modTask t fun tk => (park x.site (laneBit x.lane) tk).modCoach c fun co => co.cutCopies 3 fun y => y == x
        | none => s
      | _ => s
    s.dropReqs q.client

/-- Fail the instances of a participation that waits for lost homes, or whose member has been out of reach for the class timeout
(R377). -/
def State.timeoutColls (s : State) (t c seq : Nat) : State :=
  match s.findOp t c seq with
  | some (_, co, o) =>
    match o.body with
    | .coll _ _ ps =>
      let late (p : Particip) : Bool := !p.done && (
        (p.lostAt.any fun x => x + p.timeout ≤ s.clock) ||
        (s.opReqs t co seq s.overdue).any fun q => match q.client with
          | .source _ _ _ lane => lane == p.lane
          | .result _ _ _ lane => lane == p.lane
          | _ => false)
      (ps.filter late).foldl (fun s p => s.failInst true p.vf p.grp p.inst) s
    | _ => s
  | none => s

/-- CLASS_TIMEOUT: what an operation has held at the port engine for its class timeout parks its lanes with UNREACHABLE, or fails
its collective instance (R354, R377). -/
def execClassTimeout (t c seq : Nat) (s : State) : Out :=
  .next (match s.coach? t c with
    | some (_, co) =>
      let s := s.timeoutColls t c seq
      (s.opReqs t co seq s.overdue).foldl (fun s q => s.timeoutClient t c q) s
    | none => s)

end Sys2Proof.Machine
end

