-- ==== Sys2Proof/Machine/Coll.lean ====
section
/-! DEFINITION. Collectives and NXQRY (R370 to R380): the checks of COLL, the reduction tree, and the life of an instance. -/

namespace Sys2Proof.Machine

/-! ### Descriptors (R371, R372) -/

/-- A COLL descriptor of 32 bytes (R371). -/
abbrev CollDesc := BitVec 256

def CollDesc.src (d : CollDesc) : Dword := d.extractLsb' 0 64
def CollDesc.dst (d : CollDesc) : Dword := d.extractLsb' 64 64
def CollDesc.count (d : CollDesc) : Nat := field d 128 32
def CollDesc.op (d : CollDesc) : Nat := field d 160 2
def CollDesc.dtype (d : CollDesc) : Nat := field d 162 2
def CollDesc.rop (d : CollDesc) : Nat := field d 164 3
def CollDesc.root (d : CollDesc) : Nat := field d 167 10

/-- Whether a descriptor breaks no rule (R371, R373). -/
def CollDesc.ok (d : CollDesc) : Bool :=
  field d 177 79 == 0 && d.dtype != 3 && decide (d.rop ≤ 2) && (decide (d.op < 2) || d.rop == 0) &&
    decide (1 ≤ d.count ∧ d.count ≤ 2 ^ 24) && (d.op == 3 || d.root == 0)

/-- Element size (R372). -/
def elemSize (dtype : Nat) : Nat := if dtype = 1 then 2 else 4

/-- Bytes of a member's source, 0 where it is not read (R372, R373). -/
def CollDesc.srcLen (d : CollDesc) (p : Nat) (isRoot : Bool) : Nat :=
  if d.op = 1 then p * d.count * elemSize d.dtype
  else if d.op = 3 && !isRoot then 0 else d.count * elemSize d.dtype

/-- Bytes of a member's destination (R372). -/
def CollDesc.dstLen (d : CollDesc) (p : Nat) : Nat :=
  (if d.op = 2 then p else 1) * d.count * elemSize d.dtype

/-- Scratchpad bytes as the coach's earlier accesses leave them: its stores and atomics that are still queued count
(R237). -/
def Coach.scratchView (c : Coach) (t : Task) (a n : Nat) : List Byte :=
  let merge (bs : List Byte) (at' : Nat) (new : List Byte) : List Byte :=
    (bs.zipIdx).map fun (b, i) => if at' ≤ a + i ∧ a + i < at' + new.length then new.getD (a + i - at') b else b
  c.ops.foldl (fun bs o =>
    if o.done then bs
    else o.lanes.foldl (fun bs x =>
      match x.loc, o.body with
      | .scratch sa, .store _ _ => merge bs sa x.data
      | .scratch sa, .atom size _ e =>
        let k := sizeBytes size
        if a ≤ sa && sa + k ≤ a + n then
          merge bs sa (leBytes k (atomNew e.op k (leNat ((bs.drop (sa - a)).take k)) (leNat (x.data.take k)) (leNat (x.data.drop k))))
        else bs
      | _, _ => bs) bs) (t.scrBytes a n)

/-! ### COLL at issue (R373, R374, R376) -/

/-- What the checks of one lane's participation say. -/
inductive CollChk where
  | join (d : CollDesc) (m : Nat) (p : Nat)
  | park (code : Nat) (addr : Dword)
  | illegal
  | failed

/-- The checks of R373 for one lane. `bytes` are the descriptor's. -/
def collCheck (s : State) (t : Task) (scope grp a : Nat) (bytes : List Byte) : CollChk :=
  if !t.pinned then .park cNONIDEMPOTENT_OP 0
  else if !s.scopeOk t.vf scope then .park cSCOPE_DENIED 0
  else if 63 < grp then .illegal
  else if a % 32 ≠ 0 then .park cMISALIGNED_ACCESS (BitVec.ofNat 64 a)
  else if t.shape.scratch < a + 32 then .park cSCRATCH_BOUNDS (BitVec.ofNat 64 a)
  else
    let d : CollDesc := BitVec.ofNat 256 (leNat bytes)
    if !d.ok then .illegal
    else
      let g := s.group? t.vf grp
      let p := (g.map fun g => g.members.length).getD 1
      let m := g.bind fun g => s.memberOf g t.ret
      let isRoot := m == some d.root
      let z := elemSize d.dtype
      let srcBad := d.src.toNat % z ≠ 0 ∧ ¬ (d.op = 3 ∧ isRoot = false)
      let bad (k : Acc) (va : Dword) (n : Nat) : Bool := (firstBad t k true (if n = 0 then [] else [(va.toNat, n)])).isSome
      if srcBad then .park cMISALIGNED_ACCESS d.src
      else if d.dst.toNat % z ≠ 0 then .park cMISALIGNED_ACCESS d.dst
      else if bad .read d.src (d.srcLen p isRoot) then .park cWINDOW_VIOLATION d.src
      else if bad .write d.dst (d.dstLen p) then .park cWINDOW_VIOLATION d.dst
      else match m with
        | none => .failed
        | some m => if d.op = 3 && p ≤ d.root then .failed else .join d m p

/-- Count a participation at a reticle: its instance number, and the state after (R374). -/
def State.joinColl (s : State) (vf grp ret : Nat) : State × Nat :=
  match s.vf? vf with
  | none => (s, 0)
  | some v =>
    let x := v.collAt grp ret
    let started := if x.failed.contains x.joined then x.started else x.started ++ [(x.joined, s.clock)]
    (s.modVf vf fun v => v.setColl { x with joined := x.joined + 1, started }, x.joined)

/-- COLL vS, gG (R373, R374). Where the coach holds a parked lane the participation is withdrawn as the bundle ends. -/
def execColl (r : BitVec 7) (g : BitVec 6) (scope : BitVec 3) (tc : BitVec 2) (s : State) : Out :=
  .next (match s.issue with
    | none => s
    | some is =>
      if is.cur.pred = 0xF then s
      else
        let grp := (is.snap.gget g.toNat).toNat
        let z := (laneList is.enabled).foldl (fun (acc : State × Issue × List Particip) l =>
          let js := acc.2.1
          let a := (is.snap.vget r.toNat l).toNat
          match collCheck acc.1 js.task scope.toNat grp a (js.coach.scratchView js.task a 32) with
          | .park code addr => (acc.1, js.park s.clock l code addr, acc.2.2)
          | .illegal => (acc.1, js.raise cILLEGAL_FIELD, acc.2.2)
          | .failed => (acc.1, { js with task := js.task.terminate cCOLL_FAILED 0 }, acc.2.2)
          | .join d m p =>
            let q := acc.1.joinColl js.task.vf grp js.task.ret
            let x : Particip :=
              { lane := l, vf := js.task.vf, grp, inst := q.2, src := d.src, dst := d.dst
                join := { member := m, op := d.op, dtype := d.dtype, rop := d.rop, count := d.count, root := d.root, data := [] }
                srcLen := d.srcLen p (m == d.root), dstLen := d.dstLen p
                timeout := s.classTimeout js.task.vf tc.toNat }
            (q.1, js, acc.2.2 ++ [x])) (s, is, [])
        let js := z.2.1.onCoach fun c =>
          let c := c.addOp { seq := 0, cls := some .n, site := is.site, body := .coll scope.toNat tc.toNat z.2.2,
                             start := s.clock, done := z.2.2.isEmpty }
          { c with ops := pruneOps c.ops }
        { z.1 with issue := some js })

/-! ### The reduction (R372, R375) -/

/-- One combine of the tree (R375). -/
def combine (dtype rop : Nat) (a b : Nat) : Nat :=
  if dtype = 2 then
    let sa := (BitVec.ofNat 32 a).toInt
    let sb := (BitVec.ofNat 32 b).toInt
    if rop = 0 then (a + b) % 2 ^ 32 else if rop = 1 then (if sb < sa then b else a) else (if sa < sb then b else a)
  else
    let f := if dtype = 1 then fBF16 else fFP32
    if rop = 0 then (f.add .rne false false 0 a b).code else (f.minmax false (rop == 2) false a b).code

/-- One stage of the tree: each listed value takes its partner `2^s` further on (R375). -/
def foldStage (dtype rop step : Nat) (xs : List Nat) : List Nat :=
  (xs.zipIdx).map fun (x, i) =>
    if i % (2 * step) = 0 ∧ i + step < xs.length then combine dtype rop x (xs.getD (i + step) 0) else x

/-- The stages of the tree. -/
def foldStages (fuel dtype rop step : Nat) (xs : List Nat) : List Nat :=
  match fuel with
  | 0 => xs
  | fuel + 1 => if step < xs.length then foldStages fuel dtype rop (2 * step) (foldStage dtype rop step xs) else xs

/-- The value that every member receives at one position (R375). -/
def foldTree (dtype rop : Nat) (xs : List Nat) : Nat := (foldStages 11 dtype rop 1 xs).headD 0

/-- Element `i` of a member's bytes. -/
def elemAt (z : Nat) (bs : List Byte) (i : Nat) : Nat := leNat ((bs.drop (i * z)).take z)

/-- Reduce positions `lo` to `lo + n - 1` of every member's bytes. -/
def reduceRange (dtype rop : Nat) (srcs : List (List Byte)) (lo n : Nat) : List Byte :=
  let z := elemSize dtype
  (List.range n).flatMap fun i => leBytes z (foldTree dtype rop (srcs.map fun b => elemAt z b (lo + i)))

/-- What member `m` receives, from the joins of all members in member order (R372). -/
def collResult (js : List CollJoin) (m : Nat) : List Byte :=
  match js with
  | [] => []
  | j :: _ =>
    let srcs := js.map (·.data)
    match j.op with
    | 0 => reduceRange j.dtype j.rop srcs 0 j.count
    | 1 => reduceRange j.dtype j.rop srcs (m * j.count) j.count
    | 2 => srcs.flatMap fun b => b
    | _ => srcs.getD j.root []

/-! ### Proceeding and completing (R374, R376) -/

/-- A participation with where it stands. -/
structure Joined where
  task : Task
  coach : Coach
  op : Op
  part : Particip

/-- The participations of this wafer in an instance that have not yet a result. -/
def State.joinedAt (s : State) (vf grp k : Nat) : List Joined :=
  s.tasks.flatMap fun t => t.coaches.flatMap fun c => c.ops.flatMap fun o =>
    (o.body.particips.filter fun p => p.inInst vf grp k && p.result.isNone).map fun p =>
      { task := t, coach := c, op := o, part := p }

/-- Whether a participation's earlier accesses have been performed (R376). -/
def Joined.ready (j : Joined) : Bool := (j.coach.older j.op).all fun q => !(q.isAccess || q.isFence)

/-- What two members must agree on (R374). -/
def sameJoin (a b : CollJoin) : Bool :=
  a.op == b.op && a.dtype == b.dtype && a.rop == b.rop && a.count == b.count && a.root == b.root

/-- The scope of a collective operation. -/
def Body.collScope (b : Body) : Nat :=
  match b with
  | .coll sc _ _ => sc
  | _ => 0

/-- The joins of a group's members in member order: those of this wafer whose sources have been read, the others as the event
brought them; none while a member has not joined, is not ready, or cannot be reached (R374). -/
def State.allJoins (s : State) (g : Group) (here : List Joined) (remote : List CollJoin) : Option (List CollJoin) :=
  (g.members.zipIdx).foldl (fun acc m =>
    match acc with
    | none => none
    | some js =>
      if s.isHere m.1.1 then
        match here.find? fun j => j.part.join.member = m.2 with
        | none => none
        | some j => if j.part.told && !s.memberLost m.1.2 j.part then some (js ++ [j.part.join]) else none
      else match remote.find? fun r => r.member = m.2 with
        | none => none
        | some r => some (js ++ [r])) (some [])

/-- Change one participation of an operation. -/
def State.modParticip (s : State) (t c seq lane : Nat) (f : Particip → Particip) : State :=
  s.modCoach t c fun co => co.setOp seq fun o =>
    { o with body := o.body.setParticips (o.body.particips.map fun p => if p.lane = lane then f p else p) }

/-- The collective data of a member to the members on other wafers, one flit for each 64 bytes (R360, R364, R382); what the payload
says beside them is the model's (log 40). -/
def State.tellData (s : State) (g : Group) (ret tc : Nat) (p : Particip) (bs : List Byte) : State :=
  (g.members.filter fun m => !s.isHere m.1).foldl (fun s m =>
    (List.range ((bs.length + 63) / 64)).foldl (fun s i =>
      let d := (bs.drop (64 * i)).take 64
      s.outgo ret { kind := 7, tc, vf := p.vf, dest := globAddr m.1 m.2 (64 * i), bytes := d.length, payload := d }) s) s

/-- The class of a collective operation (R357). -/
def Body.collTC (b : Body) : Nat :=
  match b with
  | .coll _ tc _ => tc
  | _ => 0

/-- A ready member's source is read, after the release of its participation; what lies on other wafers is asked for first
(R208, R237, R376), and a home that refuses ends the task (R356). The data then leave for the other wafers. -/
def State.takeSource (s : State) (g : Group) (j : Joined) : State :=
  if j.part.told || !j.ready then s
  else
    let t := j.task.uid
    let cl : Client := .source t j.coach.num j.op.seq j.part.lane
    let ls := s.spanLocs j.task .read j.part.src.toNat j.part.srcLen
    let away := ls.filter fun l => l.1.isAway
    if !s.nearOk j.task ls then s
    else if ls.any fun l => s.refused j.task l.1 then s.modTask t fun tk => tk.terminate cREMOTE_DENIED j.part.src
    else if !away.isEmpty && !j.part.wait then
      (away.foldl (fun s l => s.askRead j.task cl j.part.src none l.1 l.2 (some j.op.body.collTC)) s).modParticip t j.coach.num j.op.seq j.part.lane
        fun p => { p with wait := true }
    else
      match if away.isEmpty then some [] else s.answerOf cl with
      | none => s
      | some rem =>
        let s := (s.dropReqs cl).releaseAt j.task j.op.body.collScope
        let q := s.spanRead j.task none j.part.src.toNat j.part.srcLen rem
        (q.1.tellData g j.task.ret j.op.body.collTC j.part q.2.1).modParticip t j.coach.num j.op.seq j.part.lane fun p =>
          { p with join := { p.join with data := q.2.1 }, told := true, wait := false }

/-- The positions of member `m`'s block of an all-reduce: of P blocks of ⌈C / P⌉ consecutive positions, the last shorter or empty: first
position and count (R403). -/
def blockOf (count p m : Nat) : Nat × Nat :=
  let k := (count + p - 1) / p
  (m * k, min count ((m + 1) * k) - min count (m * k))

/-- The owner of a block of an all-reduce forms its final result and sends it to every other member: those on other wafers get it in
flits (R403, log 40). -/
def State.tellBlock (s : State) (g : Group) (js : List CollJoin) (j : Joined) : State :=
  let x := j.part.join
  let b := blockOf x.count g.members.length x.member
  if x.op = 0 then s.tellData g j.task.ret j.op.body.collTC j.part (reduceRange x.dtype x.rop (js.map (·.data)) b.1 b.2) else s

/-- COLL_INSTANCE_PROCEED: the sources of ready members are read; once all members have joined and are ready the instance proceeds,
or fails where the descriptors differ (R374). `remote` holds the joins of members on other wafers. -/
def execCollInstanceProceed (vf grp k : Nat) (remote : List CollJoin) (s : State) : Out :=
  .next (match s.group? vf grp with
    | none => s
    | some g =>
      let s := (s.joinedAt vf grp k).foldl (fun s j => s.takeSource g j) s
      let here := s.joinedAt vf grp k
      match if here.isEmpty then none else s.allJoins g here remote with
      | none => s
      | some js =>
        if js.all fun a => js.all fun b => sameJoin a b then
          let give (p : Particip) : Particip := { p with result := some (collResult js p.join.member) }
          let s := here.foldl (fun s j => s.tellBlock g js j) s
          { s with tasks := s.tasks.map fun t =>
              { t with coaches := t.coaches.map fun c => c.modParticips (fun p => p.inInst vf grp k) give } }
        else s.failInst true vf grp k)

/-- The participations that come before one of an operation: those of lower lanes. -/
def Body.earlierParticips (b : Body) (p : Particip) : List Particip :=
  (b.particips.takeWhile fun x => x.lane != p.lane).filter fun x => !x.done

/-- Whether a participation's result may be written: it is known, every home of its destination on this wafer has a path, and
nothing older of class N has yet to write the same bytes (R237, R241). -/
def State.particReady (s : State) (t : Task) (c : Coach) (o : Op) (p : Particip) : Bool :=
  let mine := s.spanLocs t .write p.dst.toNat p.dstLen
  !p.done && p.result.isSome && s.nearOk t mine && (c.older o).all (fun q => !locsMeet (s.nSpans t q) mine) &&
    (o.body.earlierParticips p).all fun x => !locsMeet (s.spanLocs t .write x.dst.toNat x.dstLen) mine

/-- A participation ends with its destination written: the acquire of the scope is taken (R376). The first join of its instance is
forgotten only when no member of this wafer is still in it (R377). -/
def State.endColl (s : State) (tk : Task) (c scope : Nat) (p : Particip) : State :=
  let s := (s.acquireAt tk scope).modCoach tk.uid c fun co => co.modParticips (fun q => q == p) fun q => { q with done := true }
  if s.tasks.any fun t => !(t.particips fun q => q.inInst p.vf p.grp p.inst).isEmpty then s
  else s.modVf p.vf fun v =>
    { v with colls := v.colls.map fun x => if x.grp = p.grp then { x with started := x.started.filter fun y => y.1 != p.inst } else x }

/-- One step towards the end of a participation: its result is written here and handed to the port engine for other wafers; with
their acknowledgements it ends (R376). A home that refuses ends the task (R356). -/
def State.finishColl (s : State) (tk : Task) (c seq scope tc : Nat) (p : Particip) : State :=
  let cl : Client := .result tk.uid c seq p.lane
  let bs := p.result.getD []
  let locs := s.spanLocs tk .write p.dst.toNat bs.length
  if locs.any fun l => s.refused tk l.1 then
    (s.modTask tk.uid fun tk => tk.terminate cREMOTE_DENIED p.dst).endColl tk c scope p
  else if p.wait then
    if (s.answerOf cl).isSome then (s.dropReqs cl).endColl tk c scope p else s
  else
    let ws := s.spanWrs tk p.dst.toNat bs
    let s := ws.foldl (fun s w =>
      if w.loc.isAway then s.requestWrite cl tk.ret tk.vf tc p.dst w.loc w.data (.write 0) else s.putWr tk none w) s
    if ws.any fun w => w.loc.isAway then s.modParticip tk.uid c seq p.lane fun p => { p with wait := true }
    else s.endColl tk c scope p

/-- COLL_COMPLETE: the member's destination holds the whole result, and the participation counts on N (R376). -/
def execCollComplete (t c seq : Nat) (s : State) : Out :=
  .next (match s.findOp t c seq with
    | none => s
    | some (tk, co, o) =>
      match o.body with
      | .coll scope tc ps => (ps.filter fun p => s.particReady tk co o p).foldl (fun s p => s.finishColl tk c seq scope tc p) s
      | _ => s)

/-- The collective timeout of a group in cycles (R370). -/
def Group.cycles (g : Group) : Nat := toCycles (10 * g.timeout)

/-- The first join of an instance on this wafer (R377). -/
def Vf.firstJoin (v : Vf) (grp k : Nat) : Option Nat :=
  minList ((v.colls.filter fun c => c.grp = grp).flatMap fun c => (c.started.filter fun x => x.1 = k).map (·.2))

/-- COLL_TIMEOUT: an instance that is not complete within its group's timeout fails (R377). -/
def execCollTimeout (vf grp k : Nat) (s : State) : Out :=
  .next (match s.group? vf grp, (s.vf? vf).bind fun v => v.firstJoin grp k with
    | some g, some t0 =>
      if t0 + g.cycles ≤ s.clock && s.tasks.any fun t => !(t.particips fun p => p.inInst vf grp k).isEmpty then
        s.failInst true vf grp k
      else s
    | _, _ => s)

/-- COLL_WITHDRAW_MSG: a withdraw message of another wafer's member (R377). -/
def execCollWithdrawMsg (vf grp k : Nat) (s : State) : Out := .next (s.failInst false vf grp k)

/-! ### NXQRY (R380) -/

/-- What NXQRY reads. -/
def State.nxqryWord (s : State) (t : Task) (c : Coach) (sel grp : Nat) : Word :=
  let g := s.group? t.vf grp
  match sel with
  | 0 => BitVec.ofNat 32 (c.count .n + 2 ^ 16 * (s.port.version.toNat % 2 ^ 16))
  | 1 => s.port.version
  | 2 =>
    if 63 < grp then 0
    else BitVec.ofNat 32 (((g.map fun g => g.members.length).getD 0) % 1024 +
      2 ^ 10 * ((g.bind fun g => s.memberOf g t.ret).getD 0x3FF))
  | _ =>
    if 63 < grp then 0
    else match s.vf? t.vf with
      | some v => if g.isSome then BitVec.ofNat 32 (v.collAt grp t.ret).joined else 0
      | none => 0

/-- NXQRY gD, gG, sel (R380). -/
def execNxqry (gd gg : BitVec 6) (sel : BitVec 2) (s : State) : Out :=
  .next (s.onIssue fun is =>
    if is.qon then
      is.onCoach fun c => c.gput gd.toNat (s.nxqryWord is.task c sel.toNat (is.snap.gget gg.toNat).toNat)
    else is)

end Sys2Proof.Machine
end

