-- ==== Sys2Proof/Machine/Records.lean ====
section
/-! DEFINITION. Stage-1 and stage-2 translation (R326 to R330), reads and writes of tenant memory by the dispatcher and the
root, the error ring (R338), completion records (R337) and the journal (R423, R424). -/

namespace Sys2Proof.Machine

/-! ### Stage 2 (R329, R330) -/

/-- The range that holds an intermediate address (R329). -/
def Vf.range? (v : Vf) (ia : Nat) : Option Range := v.ranges.find? fun (r : Range) => r.ia ≤ ia && ia < r.ia + r.nfr * 65536

/-- Whether a global address names a retired frame of this wafer (R28, R339). -/
def State.isRetired (s : State) (pa : Dword) : Bool :=
  s.isHere (field pa 48 16) && s.root.retired.contains (devAddr (field pa 42 6) (field pa 0 42) / 65536 * 65536)

/-- Stage 2: the global address and key slot of an intermediate address; none is a miss. Overrides come before ranges
(R329, R330). -/
def State.stage2 (s : State) (v : Vf) (ia : Nat) (w : Bool) : Option (Dword × Nat) :=
  let r := v.range? ia
  let hit := match v.overrides.find? fun (o : Override) => o.frame = ia / 65536 with
    | some o => some (o.pa + BitVec.ofNat 64 (ia % 65536), o.key)
    | none => r.map fun (r : Range) => (r.pa + BitVec.ofNat 64 (ia - r.ia), r.key)
  match hit with
  | none => none
  | some h =>
    if (w && (r.map (fun (r : Range) => r.w)) == some false) || s.isRetired h.1 then none
    else some (h.1, if s.isHere (field h.1 48 16) then s.keyNow (field h.1 42 6) (field h.1 0 42) h.2 else h.2)

/-- Bytes at an intermediate address, inside one frame. -/
def State.iaBytes (s : State) (v : Vf) (ia n : Nat) : Option (List Byte) :=
  (s.stage2 v ia false).map fun h => s.locBytes (s.globLoc h.1 h.2 0) n

/-- The site of the policy root (R20). -/
def lodge : Nat := 24

/-- Write bytes of the root's at an intermediate address, inside one frame. -/
def State.iaWrite (s : State) (v : Vf) (ia : Nat) (bs : List Byte) : Option State :=
  (s.stage2 v ia true).map fun h => s.putLoc lodge v.num (s.globLoc h.1 h.2 0) bs

/-! ### Stage 1 (R326, R327) -/

/-- What a walk ends with: a leaf (intermediate address, log of the page size, W, X, H), a stage-2 miss of a node, or a
translation fault. -/
inductive Walk where
  | leaf (ia sh : Nat) (w x h : Bool)
  | miss (ia : Nat)
  | fault
deriving DecidableEq, Repr

/-- Whether a stage-1 entry breaks a rule of its level (R326, R327). -/
def badEntry (lv : Nat) (e : Dword) : Bool :=
  let leaf := e.getLsbD 1
  let h := e.getLsbD 3
  let addr := field e 9 39 * 512
  !e.getLsbD 0 || field e 5 4 != 0 || field e 48 16 != 0 || (leaf && lv < 2) || (!leaf && lv == 5) ||
    (h && (!leaf || addr != 0)) || (leaf && addr % 2 ^ (46 - 6 * lv) != 0)

/-- Walk from a node of level `lv`. -/
def State.walkAux (fuel : Nat) (s : State) (v : Vf) (lv node va : Nat) : Walk :=
  match fuel with
  | 0 => .fault
  | fuel + 1 =>
    let sh := 46 - 6 * lv
    match s.iaBytes v (node + 8 * (va / 2 ^ sh % 64)) 8 with
    | none => .miss node
    | some bs =>
      let e : Dword := BitVec.ofNat 64 (leNat bs)
      if badEntry lv e then .fault
      else
        let addr := field e 9 39 * 512
        if e.getLsbD 1 then .leaf (addr + va % 2 ^ sh) sh (e.getLsbD 2) (e.getLsbD 4) (e.getLsbD 3)
        else State.walkAux fuel s v (lv + 1) addr va

/-- The walk of a virtual address below 2^52 (R326). -/
def State.walk (s : State) (v : Vf) (va : Nat) : Walk := if 2 ^ 52 ≤ va then .fault else s.walkAux 6 v 0 v.s1root va

/-- The device place of a virtual address; none where it is not mapped, is host memory, or may not be written. DESIGN CHOICE (log 85): a
descriptor that lies in host memory (H = 1) counts as one that cannot be read. -/
def State.vaPlace (s : State) (v : Vf) (va : Nat) (w : Bool) : Option (Dword × Nat) :=
  match s.walk v va with
  | .leaf ia _ lw _ h => if h || (w && !lw) then none else s.stage2 v ia w
  | _ => none

/-- Read tenant memory by virtual address, frame by frame. -/
def State.readVAAux (fuel : Nat) (s : State) (v : Vf) (va n : Nat) : Option (List Byte) :=
  match fuel with
  | 0 => some []
  | fuel + 1 =>
    if n = 0 then some []
    else
      let k := min n (65536 - va % 65536)
      match s.vaPlace v va false, State.readVAAux fuel s v (va + k) (n - k) with
      | some h, some rest => some (s.locBytes (s.globLoc h.1 h.2 0) k ++ rest)
      | _, _ => none

def State.readVA (s : State) (v : Vf) (va n : Nat) : Option (List Byte) := s.readVAAux (n / 65536 + 2) v va n

/-- Write tenant memory inside one frame by virtual address, for the dispatcher of reticle `r` and a client. -/
def State.writeVA (s : State) (r : Nat) (v : Vf) (va : Nat) (bs : List Byte) (cl : Client := .none) : Option State :=
  (s.vaPlace v va true).map fun h => s.putLoc r v.num (s.globLoc h.1 h.2 0) bs cl

/-- Whether every page of a range has a writable device mapping (R323). -/
def State.writableVA (fuel : Nat) (s : State) (v : Vf) (va n : Nat) : Bool :=
  match fuel with
  | 0 => true
  | fuel + 1 =>
    n == 0 || ((s.vaPlace v va true).isSome &&
      (let k := min n (65536 - va % 65536)
       State.writableVA fuel s v (va + k) (n - k)))

/-! ### The error ring (R120, R338) -/

/-- A fault record's 256 bits (R120). -/
def FaultRec.bits (r : FaultRec) : Nat :=
  r.code % 256 + r.sev % 4 * 2 ^ 8 + (if r.lost then 2 ^ 10 else 0) + r.lane % 64 * 2 ^ 16 + r.plane % 8 * 2 ^ 24 +
    r.pi % 8 * 2 ^ 28 + r.coach % 16 * 2 ^ 32 + r.slot % 4 * 2 ^ 36 + r.fseq % 256 * 2 ^ 40 + r.off.toNat * 2 ^ 64 +
    r.hdr.toNat * 2 ^ 128 + r.addr.toNat * 2 ^ 192

/-- Whom an entry of the error ring concerns. -/
structure ErrWho where
  task : Nat
  ret : Nat
  cu : Nat
  desc : Nat

/-- The 64 bytes of an error-ring entry (R338). -/
def errEntry (r : FaultRec) (seq : Nat) (x : ErrWho) : List Byte :=
  leBytes 64 (r.bits + seq % 2 ^ 64 * 2 ^ 256 + x.task % 2 ^ 32 * 2 ^ 320 + x.ret % 64 * 2 ^ 352 + x.cu % 32 * 2 ^ 358 +
    (if r.auxk then 2 ^ 363 else 0) + x.desc % 2 ^ 64 * 2 ^ 384 + r.aux % 2 ^ 64 * 2 ^ 448)

/-- Append entries to a function's error ring and signal its vector once (R338). -/
def State.errorRing (s : State) (vf : Nat) (rs : List (FaultRec × ErrWho)) : State :=
  if rs.isEmpty then s
  else
    let s := rs.foldl (fun (s : State) r =>
      match s.vf? vf with
      | none => s
      | some v =>
        let seq := v.errSeq + 1
        let ia := v.policy.errBase + 64 * ((seq - 1) % 2 ^ v.policy.errK)
        let s := (s.iaWrite v ia (errEntry r.1 seq r.2)).getD s
        s.modVf vf fun v => { v with errSeq := seq }) s
    match s.vf? vf with
    | some v => s.send (.interrupt (some vf) (field v.mailbox.mbctl 12 5))
    | none => s

/-! ### Completion records (R15, R337) -/

/-- How a task ends: its fate, or what its fault queue says (R121, R316). -/
def Task.ending (t : Task) : Ending :=
  match t.fate with
  | some (.cancelled l) => .cancelled l
  | some e => match t.faults with
    | r :: _ => .terminated r.code
    | [] => e
  | none => match t.faults with
    | r :: _ => .terminated r.code
    | [] => .completed

def Ending.kind (e : Ending) : Nat :=
  match e with
  | .completed => 0
  | .terminated _ => 2
  | .cancelled _ => 3

/-- A completion record (R337). `errSeq` is 0 without fault records. -/
def Task.record256 (t : Task) (errSeq : Nat) : BitVec 256 :=
  let e := t.ending
  let again := t.retries != 0
  let code := match e with
    | .terminated c => c
    | _ => 0
  let level := match e with
    | .cancelled l => l
    | _ => 0
  let w0 := 1 + (if again then 1 else e.kind) * 2 + (if again then e.kind else 0) * 2 ^ 3 + t.cause % 8 * 2 ^ 5 + code % 256 * 2 ^ 8
    + level % 8 * 2 ^ 16 + (if t.ran then 2 ^ 19 else 0)
  let w1 := min t.retries 65535 + (if t.ran then t.runRet % 64 * 2 ^ 16 + t.cu % 32 * 2 ^ 22 else 0)
  BitVec.ofNat 256 (w0 + w1 * 2 ^ 32 + t.index % 2 ^ 32 * 2 ^ 64 + t.badCpstat.toNat * 2 ^ 96 + t.faults.length % 128 * 2 ^ 128 +
    (if t.lost then 2 ^ 135 else 0) + errSeq % 2 ^ 64 * 2 ^ 192)

/-- The reticle and CU that a record concerns: those of its run, or the reticle whose dispatcher translated it (R337, R338). -/
def recordPlace (ret : Nat) (r : BitVec 256) : Nat × Nat := if r.getLsbD 19 then (field r 48 6, field r 54 5) else (ret, 0)

/-- Address of the completion record of an index (R337). -/
def Launch.recordVA (l : Launch) (index : Nat) : Nat := l.recbase.toNat + 32 * index

/-- The error-ring entry of a record that cannot be written (R323, R337). -/
def State.lostRecord (s : State) (l : Launch) (index : Nat) (place : Nat × Nat) (code : Nat) : State :=
  s.errorRing l.vf [({ code, sev := 3, addr := BitVec.ofNat 64 (l.recordVA index) },
    { task := index, ret := place.1, cu := place.2, desc := l.desc.toNat })]

/-- Write a completion record through the translation as it stands, from distributor `ret`; where it does not translate, the root
appends an error-ring entry instead (R323, R337). A record on another wafer is performed once its home has acknowledged it. -/
def State.writeRecord (s : State) (l : Launch) (index ret : Nat) (r : BitVec 256) : State :=
  match s.vf? l.vf with
  | none => s
  | some v =>
    match s.writeVA ret v (l.recordVA index) (leBytes 32 r.toNat) (.record l.id index) with
    | some s => s
    | none => s.lostRecord l index (recordPlace ret r) cTRANSLATION_FAULT

/-- Whether a record has been handed to the port engine and is not performed yet (R337). -/
def State.recordOut (s : State) (l index : Nat) : Bool := !(s.reqsOf (.record l index)).isEmpty

/-! ### The journal (R414, R423, R424) -/

/-- Entries that the ring holds (R423). -/
def journalSize : Nat := 65536

/-- Drop the oldest entry that is done or failed. -/
def dropEnded (es : List JEntry) : List JEntry :=
  match es with
  | [] => []
  | e :: rest => if 2 ≤ e.state then rest else e :: dropEnded rest

/-- Append an entry under the next sequence number; a full ring overwrites its oldest ended entry, and refuses when there
is none (R424). The number is none where the entry was refused. -/
def State.journalAdd (s : State) (e : JEntry) : State × Option Nat :=
  let j := if s.root.journal.length < journalSize then s.root.journal else dropEnded s.root.journal
  if j.length < journalSize then
    let q := s.root.nextSeq
    ({ s with root := { s.root with journal := j ++ [{ e with seq := q }], nextSeq := q + 1 } }, some q)
  else (s, none)

/-- Change the entry of a sequence number. -/
def State.journalSet (s : State) (seq : Nat) (f : JEntry → JEntry) : State :=
  { s with root := { s.root with journal := s.root.journal.map fun e => if e.seq = seq then f e else e } }

/-- The command of a waiting state-changing step (R414). -/
def cmdOf (i : Instr) : Option Cmd :=
  match i with
  | .createVf c => some c
  | .assign c => some c
  | .loadPolicy c => some c
  | .pause c => some c
  | .resume c => some c
  | .evict c => some c
  | .rekey c => some c
  | .migrate c => some c
  | _ => none

/-- The sequence number of a waiting step. -/
def cmdSeq (i : Instr) : Option Nat := (cmdOf i).map (·.seq)

/-- A state-changing command of a function has ended: the function's next one starts (R414). -/
def State.nextCmd (s : State) (vf seq : Nat) : State :=
  match s.vf? vf with
  | none => s
  | some v =>
    match v.waiting with
    | [] => s
    | i :: rest =>
      if cmdSeq i = some seq then
        (s.modVf vf fun v => { v with waiting := rest }).pushFront (rest.take 1)
      else s

/-- The function's next state-changing command starts once this one has ended. -/
def State.startNext (s : State) (seq : Nat) : State := s.vfs.foldl (fun (s : State) (v : Vf) => s.nextCmd v.num seq) s

/-- Invalidations that a command still waits for (R334, R335). -/
def State.invalsOf (s : State) (seq : Nat) : Bool := s.root.invals.any fun x => x.seq == seq

/-- A command is done once none of its invalidations is left (R334, R335). -/
def State.finishCmd (s : State) (seq : Nat) : State :=
  if seq = 0 || s.invalsOf seq then s else (s.journalSet seq fun e => { e with state := 2, code := 0 }).startNext seq

/-- A command reaches done or failed (R414, R424). -/
def State.endCmd (s : State) (vf seq code : Nat) : State :=
  (s.journalSet seq fun e => { e with state := if code = 0 then 2 else 3, code }).nextCmd vf seq

end Sys2Proof.Machine
end

