-- ==== Sys2Proof/Machine/Translate.lean ====
section
/-! DEFINITION. Translation before dispatch (R321 to R325, R331, R332): the ranges of a task, their pages, ATS and PRI, and
the extents. -/

namespace Sys2Proof.Machine

/-! ### What a task needs (R322, R323) -/

/-- Insert a range by window id. -/
def insertWid (xs : List Extent) (b : Extent) : List Extent :=
  match xs with
  | [] => [b]
  | a :: rest => if a.wid ≤ b.wid then a :: insertWid rest b else b :: a :: rest

/-- Whether any window of a launch is pinned (R300). -/
def Launch.pinned (l : Launch) : Bool := l.windows.any fun w => w.pinned

/-- Base of a window for the task of index `i` (R300, R322). -/
def Window.baseOf (w : Window) (i : Nat) : Nat := (w.base.toNat + i * w.stride.toNat) % 2 ^ 64

/-- The ranges of a task: its windows in ascending id, then its code region under id 32 (R322). -/
def Launch.wants (l : Launch) (i : Nat) : List Extent :=
  (l.windows.map fun w => { va := w.baseOf i, len := w.len, pa := 0, perm := w.perm, host := false, pin := l.pinned,
                            wid := w.wid, key := 0 : Extent }).foldl insertWid [] ++
    [{ va := l.code, len := 4096 * l.codeLen, pa := 0, perm := 0, host := false, pin := l.pinned, wid := 32, key := 0 }]

/-- The first address of a range with any of bits 63..52 set (R322). -/
def Extent.beyond (e : Extent) : Option Nat := if e.va + e.len ≤ 2 ^ 52 then none else some (max e.va (2 ^ 52))

def meets (a n b m : Nat) : Bool := decide (a < b + m) && decide (b < a + n)

/-- Whether an out range of a restartable task meets an in range or the code region by virtual address (R13, R323); the first address at
which it does. -/
def vaClash (es : List Extent) : Option Nat :=
  es.findSome? fun (o : Extent) => if o.perm = 1 then
    es.findSome? fun (e : Extent) => if e.perm = 0 ∧ meets o.va o.len e.va e.len then some (max o.va e.va) else none
  else none

/-- A global address with this wafer's own number written 0xFFFF (R25). -/
def State.normPA (s : State) (pa : Dword) : Nat :=
  if s.isHere (field pa 48 16) then 0xFFFF * 2 ^ 48 + field pa 0 48 else pa.toNat

/-- Whether they meet by any translated byte (R323). -/
def State.paClash (s : State) (es : List Extent) : Option Nat :=
  let at' (e : Extent) : Nat := if e.host then e.pa.toNat else s.normPA e.pa
  es.findSome? fun (o : Extent) => if o.perm = 1 then
    es.findSome? fun (e : Extent) => if e.perm = 0 ∧ e.host = o.host ∧ meets (at' o) o.len (at' e) e.len then
        some (o.va + (at' e - at' o))
      else none
  else none

/-! ### Pages -/

/-- What translating one page gives. -/
inductive Page where
  | dev (e : Extent)
  | host (e : Extent)
  | bad (code addr aux : Nat) (data : Bool)
deriving DecidableEq, Repr

/-- Translate a range inside one 64 KiB frame (R327, R330). `aux` of a stage-2 miss is the missing intermediate address;
`data` says that it was the final page. -/
def State.page (s : State) (v : Vf) (e : Extent) : Page :=
  let w := e.perm != 0
  match s.walk v e.va with
  | .fault => .bad cTRANSLATION_FAULT e.va 0 false
  | .miss ia => .bad cSTAGE2_FAULT e.va ia false
  | .leaf ia _ lw lx lh =>
    if (w && !lw) || (e.wid == 32 && (!lx || lh)) then .bad cTRANSLATION_FAULT e.va 0 false
    else if lh then .host { e with host := true }
    else match s.stage2 v ia w with
      | some h => .dev { e with pa := h.1, key := h.2 }
      | none => .bad cSTAGE2_FAULT e.va ia true

/-- Cut a range at multiples of `g`. -/
def cutRange (fuel g : Nat) (e : Extent) : List Extent :=
  match fuel with
  | 0 => []
  | fuel + 1 =>
    if e.len = 0 then []
    else
      let k := min e.len (g - e.va % g)
      { e with len := k } :: cutRange fuel g { e with va := e.va + k, len := e.len - k }

/-- What translating ranges has given so far: translated pages, host pages, or the first failure. -/
structure Trans where
  done : List Extent := []
  waits : List Extent := []
  bad : Option Page := none

def State.transPage (s : State) (v : Vf) (x : Trans) (e : Extent) : Trans :=
  match x.bad with
  | some _ => x
  | none =>
    match s.page v e with
    | .dev e => { x with done := x.done ++ [e] }
    | .host e => { x with waits := x.waits ++ cutRange (e.len / 4096 + 2) 4096 e }
    | b => { x with bad := some b }

def State.transAll (s : State) (v : Vf) (es : List Extent) : Trans :=
  es.foldl (fun x e => (cutRange (e.len / 65536 + 2) 65536 e).foldl (s.transPage v) x) {}

/-! ### Extents (R324) -/

/-- Insert a translated page by window id, then by virtual address. -/
def insertPage (xs : List Extent) (b : Extent) : List Extent :=
  match xs with
  | [] => [b]
  | a :: rest =>
    if a.wid < b.wid || (a.wid == b.wid && a.va ≤ b.va) then a :: insertPage rest b else b :: a :: rest

/-- Merge neighbouring pages of a sorted list (R324). -/
def mergePages (es : List Extent) : List Extent :=
  es.foldr (fun a acc =>
    match acc with
    | b :: rest =>
      if a.wid = b.wid ∧ a.perm = b.perm ∧ a.host = b.host ∧ a.key = b.key ∧ a.pin = b.pin ∧ a.va + a.len = b.va ∧
          a.pa.toNat + a.len = b.pa.toNat then { a with len := a.len + b.len } :: rest
      else a :: acc
    | [] => [a]) []

/-- A task fault that ends a translation (R122, R330). -/
def Task.failTranslation (t : Task) (code addr aux : Nat) (data : Bool) : Task :=
  if t.fate.isSome then t
  else { t.endBy { code, sev := 3, addr := BitVec.ofNat 64 addr, aux, auxk := data } with waits := [], done := [] }

/-- With no page outstanding, the translation is complete: the checks of R323 and R324, then the extents. -/
def State.endTranslation (s : State) (t : Task) : Task :=
  if t.waits.isEmpty && t.fate.isNone then
    let es := mergePages (t.done.foldl insertPage [])
    let groups := if t.copyOf.isSome then [es.filter fun e => e.wid == 0, es.filter fun e => e.wid == 1] else [es]
    match if t.pinned then none else s.paClash es, groups.findSome? fun g => g[64]? with
    | some a, _ => t.failTranslation cILLEGAL_FIELD a 0 false
    | none, some e => t.failTranslation cWINDOW_FRAGMENTED e.va 0 false
    | none, none => { t with extents := es, done := [], phase := .translated }
  else t

/-- Start the translation of a task (R321 to R323). -/
def State.startTranslation (s : State) (v : Vf) (es : List Extent) (t : Task) : Task :=
  match es.findSome? Extent.beyond with
  | some a => t.failTranslation cTRANSLATION_FAULT a 0 false
  | none =>
    match if t.pinned then none else vaClash es with
    | some a => t.failTranslation cILLEGAL_FIELD a 0 false
    | none =>
      let x := s.transAll v es
      match x.bad with
      | some (.bad code addr aux data) => t.failTranslation code addr aux data
      | _ => s.endTranslation { t with phase := .translating, done := x.done, waits := x.waits, extents := [] }

/-- The ranges that a task's translation covers; those of a copy node are its source and destination (R307, R322). -/
def State.wantsOf (s : State) (t : Task) : Option (List Extent) :=
  match t.copyOf with
  | none => (s.launch? t.launch).map fun l => l.wants t.index
  | some (g, n) =>
    match (s.graph? g).bind fun g => (g.nodes[n]?).bind (·.copy) with
    | some (src, dst, len) => some [{ va := src, len, pa := 0, perm := 0, host := false, pin := false, wid := 0, key := 0 },
        { va := dst, len, pa := 0, perm := 1, host := false, pin := false, wid := 1, key := 0 }]
    | none => none

/-! ### Queues (R309, R321) -/

/-- A task that waits in its queue. -/
def Task.waiting (t : Task) : Bool :=
  t.copyOf.isNone && (t.phase == .queued || t.phase == .translating || t.phase == .translated)

/-- The queue of a task: reticle, partition and queue number (R309). -/
def State.queueOf (s : State) (t : Task) : Nat × Nat × Nat := (t.ret, t.part, ((s.launch? t.launch).map (·.queue)).getD 0)

/-- Tasks that wait in a queue, in queue order. -/
def State.inQueue (s : State) (q : Nat × Nat × Nat) : List Task := s.tasks.filter fun t => t.waiting && s.queueOf t == q

def Task.coop (s : State) (t : Task) : Bool := (s.launch? t.launch).any fun l => l.coop

/-- Whether a task has only tasks of its own launch before it in its queue. -/
def State.atHead (s : State) (t : Task) : Bool :=
  ((s.inQueue (s.queueOf t)).takeWhile fun u => u.uid != t.uid).all fun u => u.launch == t.launch

/-- Tasks of a queue that are translated ahead of placement (R321). -/
def aheadLimit : Nat := 8

/-- Whether a queue translates a task ahead: one of its first 8, or a task of the cooperative launch at its head (R321). -/
def State.inAhead (s : State) (t : Task) : Bool :=
  if t.coop s then s.atHead t
  else (((s.inQueue (s.queueOf t)).filter fun u => !u.coop s).take aheadLimit).any fun u => u.uid == t.uid

/-- Whether a task's translation may start: it is queued among those that its queue translates ahead, and no invalidation holds it
back (R321, R334). -/
def State.mayTranslate (s : State) (t : Task) : Bool :=
  t.phase == .queued && t.fate.isNone && t.hits.isEmpty && (t.copyOf.isSome || s.inAhead t)

/-- An event handle for the host, which says nothing of what happened; its number is free (R330). -/
def State.tellEvent (s : State) : State := (s.bumpFree 1).send (.eventHandle (Config.freeNat s.freeIx))

/-- The extents of a task: loaded, translated so far, and host pages on their way. -/
def Task.allExtents (t : Task) : List Extent := t.extents ++ t.done ++ t.waits.map fun e => { e with host := true }

/-- Whether an invalidation names bytes of an extent. Causes 1 and 2 name virtual addresses of a function, 1 those of host
memory; causes 3 and 4 name device-physical addresses, a change of one function's ranges only for that function. -/
def State.invalHits (s : State) (x : Inval) (vf : Nat) (e : Extent) : Bool :=
  if x.cause = 1 then e.host && vf == x.vf && meets e.va e.len x.lo (x.hi - x.lo)
  else if x.cause = 2 then vf == x.vf && meets e.va e.len x.lo (x.hi - x.lo)
  else !e.host && (if x.node = 0xFFFF then s.isHere (field e.pa 48 16) else field e.pa 48 16 == x.node) && (x.cause == 4 || x.move.isSome || vf == x.vf) &&
    (meets (field e.pa 0 48) e.len x.lo (x.hi - x.lo) || x.frames.any fun a => meets (field e.pa 0 48) e.len a 65536)

/-- Whether a translation that could be made now uses a frame that a MIGRATE is moving: it waits until the frame has its new place, and holds
up its queue (R321, R333). A migration that a pinned task still defers has not begun. -/
def State.overMoving (s : State) (t : Task) : Bool :=
  s.root.invals.any fun x => x.move.isSome && x.applied && t.allExtents.any fun e => s.invalHits x t.vf e

/-- A stage-2 miss has ended a task's translation (R330). -/
def Task.missed (t : Task) : Bool := t.fate == some (.terminated cSTAGE2_FAULT)

/-- TASK_TRANSLATE (R321 to R332). -/
def execTaskTranslate (t : Nat) (s : State) : Out :=
  .next (match s.task? t with
    | none => s
    | some tk =>
      match s.vf? tk.vf, s.wantsOf tk with
      | some v, some es =>
        if s.mayTranslate tk && !s.overMoving (s.startTranslation v es tk) then
          let tk := s.startTranslation v es tk
          let s := if tk.missed then s.tellEvent else s
          let asks := tk.waits.map fun e => OutMsg.atsRequest tk.vf e.va (e.perm != 0)
          { s.modTask t (fun _ => tk) with outbox := s.outbox ++ asks }
        else s
      | _, _ => s)

/-! ### ATS and PRI (R331, R332). In `waits`, `key` 0 marks an ATS request that is out, 1 a page request, 2 a page request that waits
for one of the 1,024 that may be out (R331). -/

/-- Page requests that may be outstanding in the package (R331). -/
def pageCapacity : Nat := 1024

/-- The first page request that waits for a place goes out (R331). -/
def State.nextPage (s : State) : State :=
  if s.pages.length < pageCapacity then
    match s.tasks.findSome? fun t => (t.waits.find? fun e => e.key = 2).map fun e => (t, e) with
    | some (t, e) =>
      let go (x : Extent) : Extent := if x = e then { x with key := 1 } else x
      let s := { s with pages := s.pages ++ [(t.uid, e.va / 4096)] }
      (s.modTask t.uid fun t => { t with waits := t.waits.map go }).send (.pageRequest t.vf e.va (e.perm != 0))
    | none => s
  else s

/-- Page requests go out as places come free. -/
def State.settlePages (s : State) : State :=
  ((s.tasks.map fun t => (t.waits.filter fun e => e.key = 2).length).sum |> List.range).foldl (fun s _ => s.nextPage) s

/-- Change the first page at an address that waits in a way, if there is one. -/
def Task.modWait (t : Task) (va : Nat) (asked : Nat) (f : Extent → Option Extent) : Task :=
  match t.waits.find? fun e => e.va / 4096 = va / 4096 ∧ e.key = asked with
  | none => t
  | some e => { t with waits := t.waits.filterMap fun x => if x = e then f e else some x }

def Task.waitsAt (t : Task) (va asked : Nat) : Option Extent :=
  if t.phase = .translating ∧ t.fate = none then t.waits.find? fun e => e.va / 4096 = va / 4096 ∧ e.key = asked else none

/-- ATS_TRANSLATION_COMPLETION (R331, R332): `pa` is the translated address of the 4 KiB page that holds `va`. -/
def execAtsTranslationCompletion (t : Nat) (va pa : Dword) (r w : Bool) (s : State) : Out :=
  .next (match s.task? t with
    | none => s
    | some tk =>
      match tk.waitsAt va.toNat 0 with
      | none => s
      | some e =>
        if r && (w || e.perm == 0) then
          let got : Extent := { e with pa := BitVec.ofNat 64 (pa.toNat / 4096 * 4096 + e.va % 4096) }
          let tk := tk.modWait e.va 0 fun _ => none
          s.modTask t fun _ => s.endTranslation { tk with done := tk.done ++ [got] }
        else
          (s.modTask t fun tk => tk.modWait e.va 0 fun e => some { e with key := 2 }).settlePages)

/-- PRG_RESPONSE (R331, R332): the request has its place no longer, whether its task still waits or has withdrawn. Code 0 is Success; every
other code ends the task. -/
def execPrgResponse (t : Nat) (va : Dword) (code : Nat) (s : State) : Out :=
  let s := { s with pages := s.pages.erase (t, va.toNat / 4096) }
  .next (match s.task? t with
    | none => s
    | some tk =>
      match tk.waitsAt va.toNat 1 with
      | none => s
      | some e =>
        if code = 0 then
          (s.modTask t fun tk => tk.modWait e.va 1 fun e => some { e with key := 0 }).send (.atsRequest tk.vf e.va (e.perm != 0))
        else s.modTask t fun tk => tk.failTranslation cTRANSLATION_FAULT e.va 0 false)

end Sys2Proof.Machine
end

