-- ==== Sys2Proof/Machine/Graph.lean ====
section
/-! DEFINITION. Jobs, graphs, nodes and launches (R9 to R12, R295 to R307, R313, R314): reading and checking descriptors,
launching, failing and cancelling nodes, ending tasks, graphs and jobs. -/

namespace Sys2Proof.Machine

/-! ### Shapes (R87, R88) -/

/-- The width of a task's span (R87). -/
def Shape.span (x : Shape) : Nat :=
  let n := min 8 (x.coaches * x.width)
  if n ≤ 1 then 1 else if n ≤ 2 then 2 else if n ≤ 4 then 4 else 8

/-- The octet of the span at which coach `i` starts (R87). -/
def Shape.octetOf (x : Shape) (i : Nat) : Nat := i * x.width % x.span

/-- Coaches on one octet of the span (R88). -/
def Shape.onOctet (x : Shape) (o : Nat) : Nat :=
  ((List.range x.coaches).filter fun i => x.octetOf i ≤ o && o < x.octetOf i + x.width).length

/-- The limits of R88 that hold for each octet. -/
def Shape.octetsOk (x : Shape) : Bool :=
  (List.range x.span).all fun o => x.onOctet o ≤ 16 && x.onOctet o * x.regs ≤ 2048

/-- Scratchpad bytes of a CU under a split code (R188). -/
def splitBytes (split : Nat) : Nat := split * 131072

/-- Whether an empty CU could hold the shape (R88). -/
def Shape.fitsEmpty (x : Shape) (split : Nat) : Bool := x.octetsOk && x.scratch ≤ splitBytes split && x.barriers ≤ 256

/-- Tasks of a shape that an empty CU holds at once. -/
def Shape.perCU (x : Shape) (split : Nat) : Nat :=
  let a := 8 / x.span
  let b := if x.scratch = 0 then a else min a (splitBytes split / x.scratch)
  if x.barriers = 0 then b else min b (256 / x.barriers)

/-- Bays that a partition holds on a reticle (R308). -/
def Partition.bays (p : Partition) (ret : Nat) : BitVec 8 := ((p.rets.find? fun x => x.1 = ret).map (·.2)).getD 0

/-- CUs of a partition on a reticle: four in each bay (R23, R308). -/
def Partition.cus (p : Partition) (ret : Nat) : List Nat := (List.range 32).filter fun c => (p.bays ret).getLsbD (c / 4)

/-- Live reticles of a partition, ascending. -/
def State.liveRets (s : State) (p : Partition) : List Nat :=
  (List.range 49).filter fun r => s.live r && p.rets.any fun x => x.1 == r

/-! ### Launch descriptors (R299 to R302, R323) -/

/-- Size of a reticle's share (R314). -/
def shareSize (total n k : Nat) : Nat := total / n + (if k < total % n then 1 else 0)

def shareFirst (total n k : Nat) : Nat := (List.range k).foldl (fun a j => a + shareSize total n j) 0

/-- Chunks of 64 of a list of indices (R314). -/
def chunksOf (fuel : Nat) (xs : List Nat) : List (List Nat) :=
  match fuel with
  | 0 => []
  | fuel + 1 => if xs.isEmpty then [] else xs.take 64 :: chunksOf fuel (xs.drop 64)

/-- A window entry (R300); none when a reserved bit is set or LEN is out of range. DESIGN CHOICE (log 86): a LEN of 0 or above 2^52 refuses
the launch with ILLEGAL_FIELD, though R301 lists no check of LEN. -/
def Window.ofBits (x : BitVec 256) : Option Window :=
  let len := field x 128 64
  if field x 200 56 = 0 ∧ 1 ≤ len ∧ len ≤ 2 ^ 52 then
    some { base := x.extractLsb' 0 64, stride := x.extractLsb' 64 64, len, perm := field x 192 2,
           pinned := x.getLsbD 194, wid := field x 195 5 }
  else none

/-- Items of `n` bytes cut from a list. -/
def bytesAt (bs : List Byte) (o n : Nat) : Nat := leNat ((bs.drop o).take n)

/-- The bytes of a launch descriptor: its fixed part, and the entries that this counts (R299, R301). -/
def State.readDesc (s : State) (v : Vf) (va : Nat) : Option (List Byte) :=
  (s.readVA v va 64).bind fun fixed =>
    let x : BitVec 512 := BitVec.ofNat 512 (leNat fixed)
    s.readVA v va (64 + 32 * field x 288 6 + 64 * field x 294 5 + 4 * field x 299 6)

/-- Read and check a launch descriptor in the order of R301, then R323: the launch with no tasks yet, or the code with
which it is refused. `deflt` is the reticle that RETSET = 0 names (R299). DESIGN CHOICE (log 86): a descriptor that is not at a multiple
of 64 is refused with ILLEGAL_FIELD, for which R301 lists no code. -/
def State.readLaunch (s : State) (v : Vf) (p : Partition) (va : Dword) (deflt : Option Nat) : Except Nat Launch :=
  match s.readDesc v va.toNat with
  | none => .error cTRANSLATION_FAULT
  | some bs =>
    let x : BitVec 512 := BitVec.ofNat 512 (leNat (bs.take 64))
    let nw := field x 288 6
    let nl := field x 294 5
    let ng := field x 299 6
    let code := field x 64 64
    let codeLen := field x 128 32
    let dims := (field x 160 32, field x 192 32, field x 224 32)
    let total := dims.1 * dims.2.1 * dims.2.2
    let shape : Shape := { coaches := field x 256 4 + 1, width := 2 ^ field x 260 2, regs := 8 * (field x 262 4 + 1),
                           scratch := 4096 * field x 266 8, barriers := field x 274 9 }
    if va.toNat % 64 ≠ 0 ∨ field x 283 5 ≠ 0 ∨ field x 314 6 ≠ 0 ∨ field x 448 64 ≠ 0 ∨ code % 4096 ≠ 0 ∨ total = 0 ∨
        2 ^ 32 < total ∨ 224 < field x 266 8 ∨ 256 < shape.barriers ∨ 32 < nw ∨ 16 < nl ∨ 32 < ng ∨ codeLen = 0 then
      .error cILLEGAL_FIELD
    else
      let ws := (List.range nw).filterMap fun i => Window.ofBits (BitVec.ofNat 256 (bytesAt bs (64 + 32 * i) 32))
      let wids := ws.map fun w => w.wid
      let lays := (List.range nl).map fun i => BitVec.ofNat 512 (bytesAt bs (64 + 32 * nw + 64 * i) 64)
      let gvals := (List.range ng).map fun i => BitVec.ofNat 32 (bytesAt bs (64 + 32 * nw + 64 * nl + 4 * i) 4)
      let entry := field x 0 64
      let ctx := if entry % 16 = 0 ∧ code ≤ entry ∧ entry + 16 ≤ code + 4096 * codeLen then
          (s.readVA v entry 16).bind (FnCtx.ofHeader (BitVec.ofNat 64 entry)) else none
      let prio := min (field x 305 2) p.prioMax
      let coop := x.getLsbD 307
      let queue := field x 308 6
      let retset := field x 320 64
      let live := s.liveRets p
      let rets := if retset = 0 then (match deflt with
          | some r => [r]
          | none => live.take 1) else (List.range 64).filter fun r => retset.testBit r
      let recbase := field x 384 64
      match ctx with
      | none => .error cILLEGAL_FIELD
      | some ctx =>
        if ws.length ≠ nw ∨ wids.eraseDups.length ≠ nw ∨ p.queues ≤ queue ∨ rets.isEmpty ∨
            rets.any (fun r => !live.contains r) then .error cILLEGAL_FIELD
        else if !shape.fitsEmpty p.sramSplit || !(rets.any fun r => !(p.cus r).isEmpty) then .error cLAUNCH_TOO_LARGE
        else if coop && (rets.zipIdx).any (fun r =>
            shape.perCU p.sramSplit * (p.cus r.1).length < shareSize total rets.length r.2) then .error cLAUNCH_TOO_LARGE
        else if !(ws.any fun w => w.pinned) && ws.any (fun w => 1 < w.perm) then .error cILLEGAL_FIELD
        else if recbase % 32 ≠ 0 ∨ !s.writableVA (32 * total / 65536 + 2) v recbase (32 * total) then .error cILLEGAL_FIELD
        else .ok { desc := va, vf := v.num, part := p.num, entry := ctx, code, codeLen, dims, shape, windows := ws,
                   layouts := lays, gvals, prio, coop, queue, rets, recbase := BitVec.ofNat 64 recbase, counter := total,
                   spanned := decide (1 < rets.length), master := rets.headD 0 }

/-- Give a launch its indices, share by share, and the chunks of a spanned one (R296, R314). -/
def Launch.fill (l : Launch) : Launch :=
  let share (r : Nat × Nat) : List Nat :=
    (List.range (shareSize l.counter l.rets.length r.2)).map fun i => shareFirst l.counter l.rets.length r.2 + i
  { l with
    pend := l.rets.zipIdx.flatMap fun r => (share r).map fun i => { ret := r.1, idx := i : Pend }
    chunks := if l.spanned then l.rets.zipIdx.flatMap fun r =>
        (chunksOf (l.counter / 64 + 1) (share r)).map fun c => { ret := r.1, indices := c : Chunk } else [] }

/-- Add a launch to a graph node. -/
def State.addLaunch (s : State) (l : Launch) (g n depth home : Nat) : State :=
  let l := { l.fill with id := s.nextUid + 1, graph := g, node := n, depth, home }
  { s with launches := s.launches ++ [l], nextUid := s.nextUid + 1 }

/-! ### Records of ended tasks (R15, R314, R337) -/

/-- The record of an index of a launch goes to memory, or to its chunk until the chunk is reported; the counter of a
launch that is not spanned decrements once the record is performed (R295, R314, R337). -/
def State.recordIndex (s : State) (lid index ret : Nat) (began : Bool) (r : BitVec 256) : State :=
  match s.launch? lid with
  | none => s
  | some l =>
    if l.spanned then
      s.modLaunch lid fun l => { l with chunks := l.chunks.map fun (c : Chunk) =>
        if !c.reported && c.indices.contains index then 
          { c with records := c.records ++ [(index, r)], began := if began then c.began ++ [index] else c.began } else c }
    else
      let s := s.writeRecord l index ret r
      if s.recordOut lid index then s else s.modLaunch lid fun l => { l with counter := l.counter - 1 }

/-- The record of an index that was never made into a task again: cancelled (R11, R298). -/
def Pend.record (p : Pend) (lvl : Nat) : BitVec 256 :=
  Task.record256 { index := p.idx, retries := p.retries, cause := p.cause, ran := p.ran, runRet := p.runRet, cu := p.runCu,
                   fate := some (.cancelled lvl) } 0

/-! ### Cancelling (R11, R12, R298) -/

/-- Whether a cancel reaches a task (R11, R12): every task that has not ended and whose fate is not settled already. -/
def Task.cancellable (t : Task) : Bool := t.fate.isNone && t.phase != .ended

/-- A cancelled task's copies, matrix work, posts and accesses are dropped; a participation stands until it is withdrawn (R298,
R377). -/
def Task.dropWork (t : Task) : Task :=
  { t with coaches := t.coaches.map fun c => { c with ops := c.ops.filter (fun o => !o.body.particips.isEmpty), openBatch := [] } }

/-- Cancel a launch: its tasks with a level, the indices not made into tasks with their records at once. -/
def State.cancelLaunch (s : State) (lvl : Nat) (l : Launch) : State :=
  let s := { s with tasks := s.tasks.map fun (t : Task) =>
    if t.copyOf = none ∧ t.launch = l.id ∧ t.cancellable then { t.dropWork with fate := some (.cancelled lvl) } else t }
  let s := s.modLaunch l.id fun l => { l with cancel := some (l.cancel.getD lvl), pend := [] }
  l.pend.foldl (fun s p => s.recordIndex l.id p.idx p.ret false (p.record lvl)) s

/-- Launches of a node, spawned ones too (R318). -/
def State.launchesOf (s : State) (g n : Nat) : List Launch := s.launches.filter fun l => l.graph = g ∧ l.node = n

def NodeState.final (x : NodeState) : Bool := x == .completed || x == .failed || x == .cancelled

def Graph.modNode (g : Graph) (n : Nat) (f : Node → Node) : Graph :=
  { g with nodes := g.nodes.modify n f }

def State.modNode (s : State) (g n : Nat) (f : Node → Node) : State := s.modGraph g fun x => x.modNode n f

def State.node (s : State) (g n : Nat) : Option Node := (s.graph? g).bind fun x => x.nodes[n]?

/-- Bring a node to a final state and cancel what it has running (R11). -/
def State.dropNode (s : State) (g n lvl : Nat) (st : NodeState) : State :=
  match s.node g n with
  | none => s
  | some x =>
    if x.state.final then s
    else
      let s := s.modNode g n fun x => { x with state := st, copy := none }
      let s := { s with tasks := s.tasks.filter fun t => t.copyOf != some (g, n) }
      (s.launchesOf g n).foldl (State.cancelLaunch · lvl) s

/-- Insert a number into an ascending list. -/
def insertNat (xs : List Nat) (b : Nat) : List Nat :=
  match xs with
  | [] => [b]
  | a :: rest => if a ≤ b then a :: insertNat rest b else b :: a :: rest

/-- Successors of a node, ascending (R10). -/
def Graph.succsOf (g : Graph) (n : Nat) : List Nat :=
  match g.nodes[n]? with
  | none => []
  | some x => ((g.succs.drop x.si).take x.ns).foldl insertNat []

/-- Nodes that can be reached from some nodes (R11). -/
def Graph.reachAux (fuel : Nat) (g : Graph) (front seen : List Nat) : List Nat :=
  match fuel with
  | 0 => seen
  | fuel + 1 =>
    let next := ((front.flatMap g.succsOf).filter fun x => !seen.contains x).eraseDups
    if next.isEmpty then seen else Graph.reachAux fuel g next (seen ++ next)

def Graph.reachable (g : Graph) (n : Nat) : List Nat := (g.reachAux (g.nodes.length + 1) [n] [n]).drop 1

/-- Cancel every node that can be reached from a node, with level launch (R11). -/
def State.cancelReached (s : State) (g n : Nat) : State :=
  match s.graph? g with
  | none => s
  | some x => (x.reachable n).foldl (fun s m => s.dropNode g m 0 .cancelled) s

/-- A node fails (R11): the first failure names the graph's status. A node that a cancel has reached fails as well when one of
its tasks was terminated before the cancel (log 25). -/
def State.failNode (s : State) (g n code : Nat) : State :=
  match s.node g n with
  | none => s
  | some x =>
    if x.state == .completed || x.state == .failed then s
    else
      let s := s.modGraph g fun x => if x.state = 2 then x else { x with state := 2, code, first := n }
      if x.state == .cancelled then s.modNode g n fun x => { x with state := .failed }
      else (s.dropNode g n 0 .failed).cancelReached g n

/-- A cancel of a launch node: of one that has not launched when it would launch (R298). `now` says that it would. -/
def State.cancelNode (s : State) (g n : Nat) (now : Bool := false) : State :=
  match s.node g n with
  | none => s
  | some x =>
    if x.state.final then s
    else if x.state = .waiting ∧ now = false then s.modNode g n fun x => { x with asked := true }
    else
      let s := s.modGraph g fun x => if x.state = 0 then { x with state := 3, code := 0, first := n } else x
      (s.dropNode g n 0 .cancelled).cancelReached g n

/-- A cancel of a graph, a phase or a job covers every node of the running graph that has not completed (R298). -/
def State.cancelGraph (s : State) (g lvl : Nat) : State :=
  match s.graph? g with
  | none => s
  | some x =>
    let s := s.modGraph g fun x => { x with cancelled := true }
    (List.range x.nodes.length).foldl (fun s n => s.dropNode g n lvl .cancelled) s

/-! ### Launching nodes (R306, R307) -/

/-- A copy descriptor (R307): source, destination and length, or the code with which the node fails. -/
def State.readCopy (s : State) (v : Vf) (va : Dword) : Except Nat (Nat × Nat × Nat) :=
  match s.readVA v va.toNat 32 with
  | none => .error cTRANSLATION_FAULT
  | some bs =>
    let src := bytesAt bs 0 8
    let dst := bytesAt bs 8 8
    let len := bytesAt bs 16 8
    if bytesAt bs 24 8 ≠ 0 ∨ len % 4 ≠ 0 ∨ 2 ^ 40 < len ∨ meets src len dst len then .error cILLEGAL_FIELD
    else .ok (src, dst, len)

/-- Decrement the count of a node by one; at zero it launches (R10). -/
def State.countDown (s : State) (g n : Nat) (launch : State → State) : State :=
  match s.node g n with
  | none => s
  | some x =>
    if x.state ≠ .waiting ∨ x.count = 0 then s
    else
      let s := s.modNode g n fun x => { x with count := x.count - 1 }
      if x.count = 1 then launch s else s

/-- A node whose count has reached zero launches, unless a cancel waits for it; a join completes as it launches, and may launch others
(R10, R298, R306). -/
def State.launchAux (fuel : Nat) (s : State) (g n : Nat) : State :=
  match fuel with
  | 0 => s
  | fuel + 1 =>
  match s.graph? g, s.node g n with
  | some gr, some x =>
    if x.state ≠ .waiting then s
    else if x.asked then s.cancelNode g n true
    else
      match s.vf? gr.vf, s.part? gr.part with
      | some v, some p =>
        let s := s.modNode g n fun x => { x with state := .running }
        if x.kind = 0 then
          match s.readLaunch v p x.desc none with
          | .error c => s.failNode g n c
          | .ok l => s.addLaunch l g n 0 0
        else if x.kind = 1 then
          match s.readCopy v x.desc with
          | .error c => s.failNode g n c
          | .ok c =>
            let s := s.modNode g n fun x => { x with copy := some c }
            let ret := (s.liveRets p).headD 0
            let t : Task := { uid := s.nextUid + 1, copyOf := some (g, n), vf := v.num, part := p.num, ret,
                              index := 0xFFFFFFFF, shape := { coaches := 0 } }
            { s with tasks := s.tasks ++ [t], nextUid := s.nextUid + 1 }
        else (gr.succsOf n).foldl (fun s m => s.countDown g m fun s => State.launchAux fuel s g m)
          (s.modNode g n fun x => { x with state := .completed })
      | _, _ => s
  | _, _ => s

/-- Launch a node; joins that follow one another are no more than the graph's nodes. -/
def State.launchNode (s : State) (g n : Nat) : State :=
  s.launchAux (((s.graph? g).map fun x => x.nodes.length).getD 0 + 1) g n

/-- Decrement the count of a node by one; at zero it launches (R10). -/
def State.decrement (s : State) (g n : Nat) : State := s.countDown g n fun s => s.launchNode g n

/-! ### The ends of graphs, phases and jobs (R297, R303) -/

/-- The reticle of a partition's master dispatcher: its lowest live one (R313). -/
def State.masterOf (s : State) (part : Nat) : Nat := ((s.part? part).map fun p => (s.liveRets p).headD 0).getD 0

/-- Write tenant memory that may cross frames, for the dispatcher of a reticle; nothing is written unless all of it may be. -/
def State.storeVA (s : State) (r : Nat) (v : Vf) (va : Nat) (bs : List Byte) : Option State :=
  if s.writableVA (bs.length / 65536 + 2) v va bs.length then
    some ((cutRange (bs.length / 65536 + 2) 65536
        { va, len := bs.length, pa := 0, perm := 0, host := false, pin := false, wid := 0, key := 0 }).foldl
      (fun s e => (s.writeVA r v e.va ((bs.drop (e.va - va)).take e.len)).getD s) s)
  else none

/-- The STATE that a graph finishes with: 1 completed, 2 failed, 3 cancelled (R298, R303). -/
def Graph.finalState (g : Graph) : Nat := if g.cancelled then 3 else if g.state = 0 then 1 else g.state

/-- Bits 255..192 of a finished graph's header (R303). -/
def Graph.status (g : Graph) : Nat :=
  g.finalState + g.code % 256 * 2 ^ 8 + g.first % 4096 * 2 ^ 16 + min g.tsigErr 65535 * 2 ^ 32

/-- The next graph of a job from a place on; phases without graphs are passed over (R297). -/
def nextPlace (ps : List (Nat × Nat)) (ph g : Nat) : Option (Nat × Nat) :=
  match ps[ph]? with
  | some p => if g < p.2 then some (ph, g) else
      (((ps.zipIdx).drop (ph + 1)).find? fun q => q.1.2 != 0).map fun q => (q.2, 0)
  | none => none

def State.modJob (s : State) (h : Nat) (f : Job → Job) : State :=
  { s with jobs := s.jobs.map fun j => if j.handle = h then f j else j }

/-- A job ends: done, failed with a code, or cancelled (R297, R417). -/
def State.endJob (s : State) (j : Job) (code : Nat) : State :=
  (s.modJob j.handle fun j => { j with done := true }).endCmd j.vf j.seq code

/-- Go on with a job at its present place: open its next graph, or end it (R297, R298). DESIGN CHOICE (log 87): an entry of a phase's
graph array that cannot be read ends the job with TRANSLATION_FAULT. -/
def State.advanceJob (s : State) (h : Nat) : State :=
  match s.jobs.find? fun j => j.handle = h with
  | none => s
  | some j =>
    if j.done then s
    else match j.fail with
      | some c => s.endJob j c
      | none =>
        if j.cancelled then s.endJob j 0x8F
        else match nextPlace j.phases j.phase j.graph with
          | none => s.endJob j 0
          | some (ph, gi) =>
            if j.cancels.any fun c => (c.1 == 2 && c.2.1 == ph) || (c.1 == 1 && c.2.1 == ph && c.2.2.1 == gi) then s.endJob j 0x8F
            else
              let arr := (j.phases[ph]?.map (·.1)).getD 0
              match (s.vf? j.vf).bind fun v => s.readVA v (arr + 8 * gi) 8 with
              | none => s.endJob j cTRANSLATION_FAULT
              | some bs =>
                let g : Graph := { id := s.nextUid + 1, job := h, hdr := BitVec.ofNat 64 (leNat bs), vf := j.vf, part := j.part }
                { s.modJob h (fun j => { j with phase := ph, graph := gi }) with
                  graphs := s.graphs ++ [g], nextUid := s.nextUid + 1 }

/-- Whether everything of a graph has ended (R295, R303, R318). -/
def State.graphOver (s : State) (g : Graph) : Bool :=
  g.started && g.nodes.all (fun x => x.state.final) && s.launches.all (fun l => l.graph != g.id || l.counter == 0)

/-- A graph finishes: its status is written, and its job goes on (R297, R303). -/
def State.finishGraph (s : State) (g : Graph) : State :=
  let s := match s.vf? g.vf with
    | some v => (s.storeVA (s.masterOf g.part) v (g.hdr.toNat + 24) (leBytes 8 g.status)).getD s
    | none => s
  let s := { s with graphs := s.graphs.filter fun x => x.id != g.id, launches := s.launches.filter fun l => l.graph != g.id }
  let s := s.modJob g.job fun j => { j with graph := j.graph + 1
                                            fail := if g.finalState = 2 then some g.code else j.fail
                                            cancelled := j.cancelled || g.finalState == 3 }
  s.advanceJob g.job

/-- Finish a graph if everything of it has ended. -/
def State.settleGraph (s : State) (g : Nat) : State :=
  match s.graph? g with
  | none => s
  | some x => if s.graphOver x then s.finishGraph x else s

/-! ### GRAPH_START and NODE_COMPLETE -/

/-- The nodes of a graph (R304). -/
def nodesOf (n : Nat) (bs : List Byte) : List Node :=
  (List.range n).map fun i =>
    let x : BitVec 128 := BitVec.ofNat 128 (bytesAt bs (16 * i) 16)
    { desc := x.extractLsb' 0 64, count := field x 64 12, kind := field x 76 2, ns := field x 80 16, si := field x 96 32 }

/-- The lowest node that breaks R305. -/
def badNode (n nsucc : Nat) (bs sb : List Byte) : Option Nat :=
  (List.range n).find? fun i =>
    let x : BitVec 128 := BitVec.ofNat 128 (bytesAt bs (16 * i) 16)
    let si := field x 96 32
    let ns := field x 80 16
    field x 78 2 != 0 || field x 76 2 == 3 || nsucc < si + ns ||
      (List.range ns).any fun k => n ≤ bytesAt sb (2 * (si + k)) 2

/-- Read and check a graph (R303 to R305): nodes and successors, or the code and FIRST with which it fails. -/
def State.readGraph (s : State) (v : Vf) (hdr : Nat) : Except (Nat × Nat) (List Node × List Nat) :=
  match s.readVA v hdr 32 with
  | none => .error (cTRANSLATION_FAULT, 0)
  | some bs =>
    let h : BitVec 256 := BitVec.ofNat 256 (leNat bs)
    let nodes := field h 0 64
    let succs := field h 64 64
    let n := field h 128 13
    let m := field h 160 17
    if field h 141 19 ≠ 0 ∨ field h 177 15 ≠ 0 ∨ nodes % 16 ≠ 0 ∨ succs % 2 ≠ 0 ∨ n = 0 ∨ 4096 < n ∨ 65536 < m then
      .error (cILLEGAL_FIELD, 0)
    else
      match s.readVA v nodes (16 * n), s.readVA v succs (2 * m) with
      | some nb, some sb =>
        match badNode n m nb sb with
        | some i => .error (cILLEGAL_FIELD, i)
        | none => .ok (nodesOf n nb, (List.range m).map fun k => bytesAt sb (2 * k) 2)
      | _, _ => .error (cTRANSLATION_FAULT, 0)

/-- A function that may run its jobs' graphs: not paused, evicted or gone (R418). -/
def State.vfRuns (s : State) (vf : Nat) : Bool := (s.vf? vf).any fun v => v.state == .ready

/-- Launch a node that has no predecessor. A join completes where it stands; what it goes on to launch comes after every node that has no
predecessor (R306). -/
def State.startNode (s : State) (g n : Nat) : State :=
  if (s.node g n).any fun x => x.kind == 2 && x.state == .waiting && !x.asked then s.modNode g n fun x => { x with state := .completed }
  else s.launchNode g n

/-- The nodes without predecessors launch in ascending index; then those of their joins that completed count down their successors
(R306). -/
def State.startNodes (s : State) (g : Nat) (nodes : List Node) : State :=
  let roots := (List.range nodes.length).filter fun n => (nodes[n]?).any fun x => x.count == 0
  let s := roots.foldl (fun s n => s.startNode g n) s
  (roots.filter fun n => (nodes[n]?).any (fun x => x.kind == 2) && (s.node g n).any fun x => x.state == .completed).foldl (fun s n =>
    (((s.graph? g).map fun x => x.succsOf n).getD []).foldl (fun s m => s.decrement g m) s) s

/-- GRAPH_START (R303, R305, R306). -/
def State.startGraph (s : State) (g : Graph) (v : Vf) : State :=
  match s.storeVA (s.masterOf g.part) v (g.hdr.toNat + 24) (List.replicate 8 0), s.readGraph v g.hdr.toNat with
  | some s, .ok (nodes, succs) =>
    let s := s.modGraph g.id fun g => { g with nodes, succs, started := true }
    let cancels := ((s.jobs.find? fun j => j.handle = g.job).map fun j => j.cancels.filter fun c =>
      c.1 == 0 && c.2.1 == j.phase && c.2.2.1 == j.graph).getD []
    let s := cancels.foldl (fun s c => if (s.node g.id c.2.2.2).any (fun x => x.kind == 0) then s.cancelNode g.id c.2.2.2 else s) s
    (s.startNodes g.id nodes).settleGraph g.id
  | r, q =>
    let e := match r, q with
      | _, .error e => e
      | _, .ok _ => (cTRANSLATION_FAULT, 0)
    let s := r.getD s
    (s.modGraph g.id fun g => { g with started := true, state := 2, code := e.1, first := e.2 }).settleGraph g.id

/-- GRAPH_START: the graph is read and checked, and its zero-count nodes launch. -/
def execGraphStart (g : Nat) (s : State) : Out :=
  .next (match s.graph? g with
    | none => s
    | some x =>
      match s.vf? x.vf with
      | none => s
      | some v => if x.started || !s.vfRuns x.vf then s else s.startGraph x v)

/-- Whether a running node has completed (R306). -/
def State.nodeOver (s : State) (g n : Nat) : Bool :=
  (s.node g n).any fun x => x.state == .running &&
    (if x.kind = 0 then (s.launchesOf g n).all fun l => l.counter == 0 && l.cancel.isNone
     else if x.kind = 1 then x.copy.isNone else true)

/-- NODE_COMPLETE (R10, R306): successors are decremented in ascending index. -/
def execNodeComplete (g n : Nat) (s : State) : Out :=
  whenOk s (s.nodeOver g n) fun s =>
    let s := s.modNode g n fun x => { x with state := .completed }
    let succs := ((s.graph? g).map fun x => x.succsOf n).getD []
    (succs.foldl (fun s m => s.decrement g m) s).settleGraph g

end Sys2Proof.Machine
end

