-- ==== Sys2Proof/Machine/Tasks.lean ====
section
/-! DEFINITION. The ends of tasks (R91, R119, R240, R316, R337), TSIG and TSPAWN at the dispatcher (R9, R155, R317 to R319),
copy nodes (R307), chunks (R314), and the tasks that the queues hold (R296, R321). -/

namespace Sys2Proof.Machine

/-! ### Tasks of the queues (R296, R321) -/

/-- A launch's layout record for one task (R243, R244). -/
def Launch.layoutFor (l : Launch) (i : Nat) (r : BitVec 512) : BitVec 512 :=
  if Layout.wrel r then
    match l.windows.find? fun (w : Window) => w.wid = Layout.win r with
    | some w => (r &&& ~~~(BitVec.ofNat 512 (2 ^ 64 - 1 + 2 ^ 401))) ||| BitVec.ofNat 512 ((Layout.base r + w.baseOf i) % 2 ^ 64)
    | none => r
  else r

/-- Make an index of a launch into a task (R90, R296). -/
def Launch.makeTask (l : Launch) (uid : Nat) (p : Pend) : Task :=
  let d := l.dims
  { uid, launch := l.id, index := p.idx, vf := l.vf, part := l.part, ret := p.ret, cu := p.runCu, shape := l.shape,
    pinned := l.pinned, tidx := (p.idx % d.1, p.idx / d.1 % d.2.1, p.idx / d.1 / d.2.1),
    layouts := (List.range 16).map fun k => (l.layouts[k]?).elim 0 (l.layoutFor p.idx),
    retries := p.retries, cause := p.cause, ran := p.ran, runRet := p.runRet }

/-- Make tasks of a launch's indices on one reticle, as far as its queue takes them: up to 8 translated ahead, and a whole
cooperative launch at the head (R296, R302, R321). -/
def State.refillQueue (s : State) (lid ret : Nat) : State :=
  match s.launch? lid with
  | none => s
  | some l =>
    let mine := l.pend.filter fun p => p.ret = ret
    let held := (s.launches.takeWhile fun x => x.id != lid).any fun x =>
      x.part = l.part ∧ x.queue = l.queue ∧ x.pend.any fun p => p.ret = ret
    let ahead := s.inQueue (ret, l.part, l.queue)
    let n := if l.coop then (if (ahead.filter fun t => t.launch != lid).isEmpty then mine.length else 0)
             else 8 - (ahead.filter fun t => !t.coop s).length
    let new := mine.take n
    if held || new.isEmpty then s
    else
      let made := new.zipIdx.map fun p => l.makeTask (s.nextUid + 1 + p.2) p.1
      { s.modLaunch lid (fun l => { l with pend := l.pend.filter fun p => !new.contains p }) with
        tasks := s.tasks ++ made, nextUid := s.nextUid + new.length }

/-- Make the tasks that every queue has room for. -/
def State.refill (s : State) : State :=
  s.launches.foldl (fun s l => l.rets.foldl (fun s r => if l.pend.isEmpty then s else s.refillQueue l.id r) s) s

/-! ### The end of a task -/

/-- A coach ends when none of its lanes is live or parked (R91). -/
def Coach.over (c : Coach) : Bool := c.live == 0 && c.parked == 0

/-- Whether an operation of a coach is done, or never can be (R242). -/
def Coach.spent (c : Coach) (o : Op) : Bool := o.done || c.hopeless.any fun x => x.seq == o.seq

/-- Every operation and copy of a task has completed, but for what waits for ever (R242). -/
def Task.drained (t : Task) : Bool := t.coaches.all fun c =>
  c.ops.all c.spent && c.copies.all fun x => x.2.2.finished ||
    (c.ops.any fun o => o.seq < x.2.2.seq && !o.done && (o.isAccess || o.isFence) && c.spent o)

/-- Nothing more of the task will issue (R91, R119, R316). -/
def Task.quiet (t : Task) : Bool :=
  t.phase == .running && (if t.stopSince.isSome then t.stopDone || t.tend else t.tend || t.coaches.all Coach.over)

/-- The error-ring place of a task (R338). -/
def State.whoOf (s : State) (t : Task) : ErrWho :=
  let desc := match t.copyOf with
    | some (g, n) => ((s.node g n).map fun x => x.desc.toNat).getD 0
    | none => ((s.launch? t.launch).map fun l => l.desc.toNat).getD 0
  { task := t.index, ret := t.ret, cu := if t.ran then t.cu else 0, desc }

/-- End a task for the last time: its fault queue goes to the error ring, then its record, then the counter (R120, R337). -/
def State.endTask (s : State) (t : Task) : State :=
  let t := t.flushFaults
  let seq := if t.faults.isEmpty then 0 else ((s.vf? t.vf).map fun v => v.errSeq + 1).getD 0
  let who := s.whoOf t
  let s := s.errorRing t.vf (t.faults.map fun r => (r, who))
  let s := { s with tasks := s.tasks.filter fun x => x.uid != t.uid }
  match t.copyOf, t.ending with
  | some (g, n), .terminated c => (s.failNode g n c).settleGraph g
  | some _, _ => s
  | none, e =>
    match s.launch? t.launch with
    | none => s
    | some l =>
      let s := s.recordIndex l.id t.index t.ret t.began (t.record256 seq)
      let s := match e with
        | .terminated c => s.failNode l.graph l.node c
        | _ => s
      s.settleGraph l.graph

/-- Whether a signal may take effect: every counted operation that its coach issued before it has completed, and in a restartable
task everything of the task (R9, R155). -/
def Task.signalReady (t : Task) (x : Signal) : Bool :=
  (match t.coach? x.coach with
   | some c => c.ops.all fun o => o.done || o.cls.isNone || x.seq ≤ o.seq
   | none => true) &&
  (t.pinned || (t.quiet && t.drained && t.faults.isEmpty))

/-- The signals that may take effect now: the first of each coach, if it is ready (R155). DESIGN CHOICE (log 78): a pinned task whose fate
is settled, by a task fault or a cancel, applies none of those still pending. -/
def Task.nextSignals (t : Task) : List Signal :=
  if t.fate.isSome || !(t.phase == .running) then []
  else
    let firsts := t.signals.foldl (fun (acc : List Signal) x => if acc.any fun y => y.coach = x.coach then acc else acc ++ [x]) []
    (if t.pinned then firsts else t.signals.take 1).filter t.signalReady

/-- Whether a task may end: its fate is settled, or it is quiet with nothing outstanding and no signal left that may apply. Signals of a
restartable task that ends terminated are discarded (R155), and so are those of a pinned task that wait for what never completes
(R15, R242). -/
def Task.mayEnd (t : Task) : Bool :=
  t.fate.isSome || (t.quiet && t.drained &&
    (if t.pinned then t.nextSignals.isEmpty else t.signals.isEmpty || !t.faults.isEmpty))

/-- End a task that may end, between bundles: a completed task's end is a release at tenant scope (R240). -/
def State.completeTask (s : State) (t : Nat) : State :=
  match s.task? t with
  | some tk =>
    if s.issue.isNone && tk.mayEnd then
      let s := if tk.phase = .running then s.releaseL1 tk.ret tk.cu else s
      s.endTask tk
    else s
  | none => s

/-- TASK_COMPLETE (R91, R240, R316, R337). -/
def execTaskComplete (t : Nat) (s : State) : Out := .next (s.completeTask t)

/-- TASK_STOP_TIMEOUT: 65,536 cycles after the first park or coach stop the task stops where it is (R119). -/
def execTaskStopTimeout (t : Nat) (s : State) : Out :=
  whenOk s ((s.task? t).any fun tk => tk.phase == .running && !tk.stopDone && tk.stopSince.any fun c => c + 65536 ≤ s.clock)
    fun s => s.modTask t fun tk => { tk with halted := true }

/-! ### TSIG and TSPAWN (R9, R155, R317 to R319) -/

/-- Take a signal out of a task. -/
def Task.dropSignal (t : Task) (x : Signal) : Task := { t with signals := t.signals.erase x }

/-- A TSIG takes effect (R10, R155, R319). -/
def State.signalNode (s : State) (g : Nat) (val : Dword) : State :=
  match s.graph? g with
  | none => s
  | some x =>
    let bad (s : State) : State := s.modGraph g fun x => { x with tsigErr := min (x.tsigErr + 1) 65535 }
    let w := field val 0 32
    if 4096 ≤ w then bad s
    else match x.nodes[w]? with
      | none => bad s
      | some n =>
        if n.state = .failed ∨ n.state = .cancelled then s
        else if n.count = 0 then bad s
        else s.decrement g w

/-- TSIG_APPLY. -/
def execTsigApply (t : Nat) (s : State) : Out :=
  .next (match s.task? t with
    | none => s
    | some tk =>
      match tk.nextSignals.find? fun x => !x.spawn, s.launch? tk.launch with
      | some x, some l =>
        -- the issuing task's dispatcher edge is a release at tenant scope (R234, R240)
        ((((s.releaseL1 tk.ret tk.cu).modTask t fun tk => tk.dropSignal x)).signalNode l.graph x.val).settleGraph l.graph
      | _, _ => s)

/-- Spawned launches of a reticle that have not completed (R318). -/
def State.spawned (s : State) (ret : Nat) : Nat :=
  (s.launches.filter fun l => 0 < l.depth && l.home == ret && l.counter != 0).length

/-- A TSPAWN takes effect (R317, R318): a refusal fails the issuing task's node. -/
def State.spawn (s : State) (t : Task) (l : Launch) (va : Dword) : State :=
  match s.vf? t.vf, s.part? t.part, s.node l.graph l.node with
  | some v, some p, some n =>
    if n.state.final then s
    else if 7 ≤ l.depth then s.failNode l.graph l.node cLAUNCH_TOO_LARGE
    else match s.readLaunch v p va (some t.ret) with
      | .error c => s.failNode l.graph l.node c
      | .ok x => s.addLaunch x l.graph l.node (l.depth + 1) t.ret
  | _, _, _ => s

/-- The TSPAWN of a task that may take effect. -/
def Task.nextSpawn (t : Task) : Option Signal := t.nextSignals.find? fun x => x.spawn

def State.applySpawn (s : State) (tk : Task) : State :=
  match tk.nextSpawn, s.launch? tk.launch with
  | some x, some l => (((s.releaseL1 tk.ret tk.cu).modTask tk.uid fun tk => tk.dropSignal x).spawn tk l x.val).settleGraph l.graph
  | _, _ => s

/-- TSPAWN_APPLY: it waits where its reticle has no free entry (R318). -/
def execTspawnApply (t : Nat) (s : State) : Out :=
  .next (match s.task? t with
    | some tk => if s.spawned tk.ret < 1024 then s.applySpawn tk else s
    | none => s)

/-- SPAWN_ENTRY_FREE: the first spawn that waits on a reticle takes a free entry (R318). -/
def execSpawnEntryFree (ret : Nat) (s : State) : Out :=
  .next (match s.tasks.find? fun t => t.ret == ret && t.nextSpawn.isSome with
    | some tk => if s.spawned ret < 1024 then s.applySpawn tk else s
    | none => s)

/-! ### Copy nodes (R307) -/

/-- The task that stands for a running copy node. -/
def State.copyTask (s : State) (g n : Nat) : Option Task := s.tasks.find? fun t => t.copyOf == some (g, n)

/-- The bytes of a copy node have been read: they are written here, and handed to the port engine for other wafers. -/
def State.writeCopy (s : State) (t : Task) (dst : Nat) (bs : List Byte) : State :=
  (s.spanWrs t dst bs).foldl (fun s w =>
    if w.loc.isAway then s.askWr t (.node t.uid) (BitVec.ofNat 64 dst) none w else s.putWr t none w) s

/-- A copy node is over. -/
def State.endCopy (s : State) (g n : Nat) (t : Task) : State :=
  let s := s.dropReqs (.node t.uid)
  { s.modNode g n (fun x => { x with copy := none }) with tasks := s.tasks.filter fun x => x.uid != t.uid }

/-- One step of a copy node: what lies on other wafers is asked for, then the bytes are written, then their homes acknowledge
(R208, R307). -/
def State.stepCopy (s : State) (g n : Nat) (t : Task) (src dst len : Nat) : State :=
  let cl : Client := .node t.uid
  let from' := (s.spanLocs t .read src len).filter fun l => l.1.isAway
  let toAway := (s.spanLocs t .write dst len).any fun l => l.1.isAway
  let write (s : State) (rem : List Byte) : State :=
    let q := (s.dropReqs cl).spanRead t none src len rem
    let s := q.1.writeCopy t dst q.2.1
    if toAway then s.modTask t.uid fun t => { t with wrote := true } else s.endCopy g n t
  if t.wrote then (if (s.answerOf cl).isSome then s.endCopy g n t else s)
  else if from'.isEmpty then write s []
  else if (s.reqsOf cl).isEmpty then from'.foldl (fun s l => s.askRead t cl (BitVec.ofNat 64 src) none l.1 l.2) s
  else match s.answerOf cl with
    | some rem => write s rem
    | none => s

/-- COPY_NODE_PERFORMED (R307). A home that refuses fails the node. -/
def execCopyNodePerformed (g n : Nat) (remote : List Byte) (s : State) : Out :=
  .next (match s.copyTask g n, (s.node g n).bind (·.copy) with
    | some t, some (src, dst, len) =>
      let ls := s.spanLocs t .read src len ++ s.spanLocs t .write dst len
      if t.phase = .translated ∧ t.fate = none ∧ s.nearOk t ls ∧ agrees remote (s.answerOf (.node t.uid)) then
        if (ls.any fun l => s.refused t l.1) || (s.reqsOf (.node t.uid)).any fun q => q.answer == some .refused then
          (s.dropReqs (.node t.uid)).modTask t.uid fun t => t.terminate cREMOTE_DENIED (BitVec.ofNat 64 src)
        else s.stepCopy g n t src dst len
      else s
    | _, _ => s)

/-! ### Chunks (R314) -/

/-- A record on another wafer is over: performed, refused by its home, or overdue at the port engine. Then the counter goes down; DESIGN
CHOICE (log 84): one that is refused or overdue leaves an error-ring entry, as one does that does not translate (R337, R354, R356). -/
def State.endRecord (s : State) (l : Launch) (index : Nat) : State :=
  let qs := s.reqsOf (.record l.id index)
  let bad := if qs.any fun q => q.answer == some .refused then some cREMOTE_DENIED
    else if qs.any s.overdue then some cUNREACHABLE else none
  if bad.isNone && (s.answerOf (.record l.id index)).isNone then s
  else
    let s := match bad with
      | some c => s.lostRecord l index ((qs.head?.map fun (q : PortReq) => q.req.srcRet).getD 0, 0) c
      | none => s
    ((s.dropReqs (.record l.id index)).modLaunch l.id fun l => { l with counter := l.counter - 1 }).settleGraph l.graph

/-- The records that port engines hold (R337). -/
def State.settleRecords (s : State) : State :=
  (s.port.reqs.map (·.client)).eraseDups.foldl (fun s cl => match cl with
    | .record l i => match s.launch? l with
      | some x => s.endRecord x i
      | none => s
    | _ => s) s

/-- CHUNK_REPORT: a distributor reports chunk `i` of a spanned launch once each of its tasks has ended; then their records
are written, and the counter goes down as they are performed. -/
def execChunkReport (l i : Nat) (s : State) : Out :=
  .next (match s.launch? l with
    | none => s
    | some x =>
      match x.chunks[i]? with
      | none => s
      | some c =>
        if c.reported || !(c.indices.all fun k => c.records.any fun r => r.1 == k) then s
        else
          let s := c.indices.foldl (fun s k => match c.records.find? fun r => r.1 = k with
            | some r => s.writeRecord x k c.ret r.2
            | none => s) s
          let n := (c.indices.filter fun k => !s.recordOut l k).length
          let s := s.modLaunch l fun x => { x with
            counter := x.counter - n, chunks := x.chunks.modify i fun c => { c with reported := true } }
          s.settleGraph x.graph)

end Sys2Proof.Machine
end

