-- ==== Sys2Proof/Machine/Place.lean ====
section
/-! DEFINITION. Placement (R87, R88, R90, R302, R310, R311, R431): choosing a task and its span, starting it, budget periods
and slice ends, and the restoring of saved tasks (R345). -/

namespace Sys2Proof.Machine

/-! ### Free spans (R87, R88, R311, R431) -/

/-- A task that holds a span. -/
def Task.placed (t : Task) : Bool := t.copyOf.isNone && (t.phase == .running || t.phase == .aborting)

def State.onCU (s : State) (ret cu : Nat) : List Task := s.tasks.filter fun t => t.placed && t.ret == ret && t.cu == cu

/-- The lowest base of `n` contiguous free barriers (R88). -/
def freeBarriers (ts : List Task) (n : Nat) : Option Nat :=
  if n = 0 then some 0
  else
    -- a free run starts at 0 or where a taken run ends
    let starts := (0 :: ts.map fun t => t.barrier0 + t.shape.barriers).foldl insertNat []
    starts.find? fun b => b + n ≤ 256 && ts.all fun t => t.shape.barriers == 0 || !meets b n t.barrier0 t.shape.barriers

/-- Where a shape fits on a CU: first octet and barrier base (R87, R88). -/
def State.fitsOn (s : State) (p : Partition) (x : Shape) (ret cu : Nat) : Option (Nat × Nat) :=
  let ts := s.onCU ret cu
  if ts.any fun t => t.vf != p.vf then none
  else if splitBytes p.sramSplit < ts.foldl (fun a t => a + t.shape.scratch) x.scratch then none
  else
    match freeBarriers ts x.barriers,
      ((List.range (8 / x.span)).map (· * x.span)).find? fun o => ts.all fun t => !meets o x.span t.octet0 t.span with
    | some b, some o => some (o, b)
    | _, _ => none

/-- The lowest CU of a partition's bays with a free span, and the span (R311). -/
def State.spot (s : State) (p : Partition) (x : Shape) (ret : Nat) : Option (Nat × Nat × Nat) :=
  if x.octetsOk && s.live ret then (p.cus ret).findSome? fun cu => (s.fitsOn p x ret cu).map fun o => (cu, o.1, o.2) else none

/-! ### Starting a task (R77, R90, R240, R268, R431) -/

/-- Coach `i` of a task that starts at octet `o` of its span (R87, R90). -/
def newCoach (l : Launch) (ret cu octet i now : Nat) : Coach :=
  let m := octetLanes octet l.shape.width
  { num := i, octet0 := octet, width := l.shape.width, live := m, readySince := now
    g := (l.gvals.zipIdx).foldl (fun t x => tput 0 t x.2 x.1) []
    sr := (laneList m).foldl (fun t k => tput 0 t k (srSeed 0 ret cu k)) []
    frags := [{ mask := m, ctx := l.entry, readySince := now }] }

/-- The accumulators of a span at the start of a task: +0 where another partition used the octet last; else each is +0 or
keeps what an earlier task of the partition left, which the specification leaves undefined (R90, R268; log 6). The owner of an
octet is kept by what tells the partition from earlier ones of its number. -/
def State.claimOctets (s : State) (ret cu o n owner : Nat) : State :=
  (List.range n).foldl (fun s i =>
    let k := (ret * 32 + cu) * 8 + o + i
    let same := tget 0 s.accOwner k = owner
    { s with accs := s.accs.filter fun x => x.1 / 8192 != k || same && Config.freeBool (s.freeIx + x.1 % 8192)
             freeIx := s.freeIx + 8192, accOwner := tput 0 s.accOwner k owner }) s

/-- World switch (R431): the CU's counters go to the context of the function they are bound to, and the placed function's
saved context, from this CU if it has one, is loaded. -/
def State.worldSwitch (s : State) (ret cu vf : Nat) : State :=
  let here (c : Counter) : Bool := c.ret == ret && c.cu == some cu
  let other (c : Counter) : Bool := here c && c.owner.any fun o => o != vf
  if s.counters.any other || (s.contexts.any (fun c => c.owner == some vf) && !s.counters.any fun c => here c && c.owner == some vf) then
    let mine := s.contexts.filter fun c => c.owner == some vf
    let src := match mine.find? here with
      | some c => some (c.ret, c.cu)
      | none => mine.head?.map fun c => (c.ret, c.cu)
    let load := mine.filter fun c => some (c.ret, c.cu) == src
    { s with counters := s.counters.filter (fun c => !other c) ++ load.map (fun c => { c with ret, cu := some cu })
             contexts := s.contexts.filter (fun c => !load.contains c) ++ s.counters.filter other }
  else s

/-- What placing does before any bundle: the CU's counters, the accumulators and the start acquire. -/
def State.claimSpan (s : State) (t : Task) (cu o : Nat) : State :=
  ((s.worldSwitch t.ret cu t.vf).claimOctets t.ret cu o t.shape.span (((s.part? t.part).map fun p => p.uid + 1).getD 0)).acquireL1 t.ret cu

/-- Start a task on a span (R90). -/
def State.startTask (s : State) (t : Task) (l : Launch) (cu o b : Nat) : State :=
  let s := s.claimSpan t cu o
  s.modTask t.uid fun t => { t with
    phase := .running, cu, octet0 := o, span := t.shape.span, barrier0 := b, runRet := t.ret, began := false
    coaches := (List.range t.shape.coaches).map fun i => newCoach l t.ret cu (o + t.shape.octetOf i) i s.clock
    barriers := [], scratch := [], tags := [], tiles := [], signals := [], stopSince := none, tend := false, halted := false
    mark := none, saveStart := none, front := false }

/-! ### Restoring a saved task (R345) -/

/-- Move a lane mask from one span to another. -/
def moveLanes (a b : Nat) (m : Lanes) : Lanes := (m >>> (8 * a)) <<< (8 * b)

/-- Move the lane index in the keys of a table. -/
def moveTab {β : Type} (a b : Nat) (t : Table β) : Table β := t.map fun (x : Nat × β) => (x.1 + 8 * b - 8 * a, x.2)

def Frag.move (a b now : Nat) (f : Frag) : Frag :=
  { f with mask := moveLanes a b f.mask, readySince := now
           items := f.items.map fun it => { it with
             lanes := moveLanes a b it.lanes, low := it.low + 8 * b - 8 * a
             passes := it.passes.map fun (p : Pass) => { p with lanes := moveLanes a b p.lanes, low := p.low + 8 * b - 8 * a } }
           next := match f.next with
             | .split m off => .split (moveLanes a b m) off
             | n => n
           heldLow := f.heldLow + 8 * b - 8 * a }

/-- A coach of a saved task at another span. -/
def Coach.move (a b now : Nat) (c : Coach) : Coach :=
  { c with octet0 := c.octet0 + b - a, v := moveTab a b c.v, pi := moveTab a b c.pi, sr := moveTab a b c.sr
           fresh := c.fresh.map fun (x : Fresh) => { x with key := x.key + 8 * b - 8 * a }
           p := c.p.map (fun (x : Nat × Lanes) => (x.1, moveLanes a b x.2)), live := moveLanes a b c.live, parked := moveLanes a b c.parked
           cy := moveLanes a b c.cy, rb := c.rb.map (fun (x : BitVec 2 × Rcv) => (x.1, { x.2 with mask := moveLanes a b x.2.mask }))
           frags := c.frags.map (Frag.move a b now), readySince := now, reserved := false
           sibs := c.sibs.map fun x => { x with octet0 := x.octet0 + b - a } }

/-- Restore a saved task on a span. The tag is checked before any coach resumes; a mismatch terminates it (R345). -/
def State.restoreTask (s : State) (t : Task) (cu o b : Nat) : State :=
  if !Config.saveTagOk t.saveNonce then s.modTask t.uid fun t => t.terminate cHW_ERROR 0
  else
    let s := s.claimSpan t cu o
    let base := ((t.ret * 32 + cu) * 8 + o) * 8192
    let accs := s.accs.filter fun x => !(base ≤ x.1 && x.1 < base + t.shape.span * 8192)
    let s := { s with accs := t.savedAccs.foldl (fun (m : Table Word) (x : Nat × Word) => tput 0 m (base + x.1) x.2) accs }
    s.modTask t.uid fun t => { t with
      phase := .running, cu, octet0 := o, span := t.shape.span, barrier0 := b, runRet := t.ret, saved := false, savedAccs := [], savedIn := []
      coaches := t.coaches.map (Coach.move t.octet0 o s.clock), mark := none, saveStart := none, front := false }

/-- Place a waiting task, starting or restoring it; none where it does not fit. -/
def State.placeOn (s : State) (t : Task) : Option State :=
  match s.part? t.part, s.launch? t.launch with
  | some p, some l => (s.spot p t.shape t.ret).map fun x =>
      if t.saved then s.restoreTask t x.1 x.2.1 x.2.2 else s.startTask t l x.1 x.2.1 x.2.2
  | _, _ => none

/-! ### Choosing (R302, R311) -/

/-- A translated task that nothing but a span keeps waiting. -/
def State.ready (s : State) (t : Task) : Bool :=
  t.waiting && t.phase == .translated && t.fate.isNone && t.hits.isEmpty && s.vfRuns t.vf

/-- Tasks of a launch that have not ended. -/
def State.tasksOf (s : State) (l : Launch) : List Task := s.tasks.filter fun t => t.copyOf.isNone && t.launch == l.id

/-- Place every waiting task of a cooperative launch at once: all of them at its start and after a save; those that an abort put back
alone join what runs (R302, R335). None where that is not possible. -/
def State.placeCoop (s : State) (l : Launch) : Option State :=
  let ts := (s.tasksOf l).filter Task.waiting
  if l.pend.isEmpty && !ts.isEmpty && ts.all (fun t => s.ready t && s.atHead t) then
    ts.foldl (fun (acc : Option State) t => acc.bind fun s => s.placeOn t) (some s)
  else none

/-- Whether the head task of a queue could be placed now. -/
def State.headFits (s : State) (t : Task) : Bool :=
  match s.launch? t.launch with
  | some l => if l.coop then (s.placeCoop l).isSome else s.ready t && (s.placeOn t).isSome
  | none => false

/-- A placeable head: priority, partition, queue, task. -/
structure Cand where
  prio : Nat
  part : Nat
  queue : Nat
  task : Task

/-- The head of each queue of a reticle. -/
def State.heads (s : State) (ret : Nat) : List (Nat × Nat × Task) :=
  (s.parts.filter fun p => p.rets.any fun x => x.1 == ret).flatMap fun p =>
    (List.range p.queues).filterMap fun q => (s.inQueue (ret, p.num, q)).head?.map fun t => (p.num, q, t)

def State.candidates (s : State) (ret : Nat) : List Cand :=
  (s.heads ret).filterMap fun h =>
    if s.headFits h.2.2 then
      (s.launch? h.2.2.launch).map fun l => { prio := l.prio, part := h.1, queue := h.2.1, task := h.2.2 }
    else none

/-- The next number after `last` of an ascending list, wrapping around. -/
def nextAfter (last : Option Nat) (xs : List Nat) : Option Nat :=
  match last with
  | none => xs.head?
  | some n => (xs.find? fun x => n < x).orElse fun _ => xs.head?

def RetState.creditOf (r : RetState) (p : Nat) : Int := ((r.credit.find? fun x => x.1 = p).map (·.2)).getD 0

/-- Numbers of a list without repeats, ascending. -/
def ascending (xs : List Nat) : List Nat := xs.eraseDups.foldl insertNat []

/-- The task that R311 chooses on a reticle. -/
def State.choose (s : State) (ret : Nat) : Option Cand :=
  let cs := s.candidates ret
  match cs.foldl (fun a c => max a (c.prio + 1)) 0 with
  | 0 => none
  | lv + 1 =>
    let r := s.ret ret
    let top := cs.filter fun c => c.prio = lv
    let ps := ascending (top.map (·.part))
    let rich := ps.filter fun p => 0 < r.creditOf p
    let last := (r.served.find? fun x => x.1 = lv).map (·.2)
    match nextAfter last (if rich.isEmpty then ps else rich) with
    | none => none
    | some p =>
      let mine := top.filter fun c => c.part = p
      match nextAfter ((r.servedQ.find? fun x => x.1 = p).map (·.2)) (ascending (mine.map (·.queue))) with
      | none => none
      | some q => mine.find? fun c => c.queue = q

/-- Remember what was served (R311). -/
def State.serveNote (s : State) (ret : Nat) (c : Cand) : State :=
  s.modRet ret fun r => { r with served := r.served.filter (fun x => x.1 != c.prio) ++ [(c.prio, c.part)]
                                 servedQ := r.servedQ.filter (fun x => x.1 != c.part) ++ [(c.part, c.queue)] }

/-- TASK_PLACE (R311): the chosen task of a reticle starts, unless it belongs to a cooperative launch or comes back from a
save. -/
def execTaskPlace (ret : Nat) (s : State) : Out :=
  .next (match s.choose ret with
    | none => s
    | some c =>
      if c.task.saved || c.task.coop s then s
      else match s.placeOn c.task with
        | some s => s.serveNote ret c
        | none => s)

/-- COOP_LAUNCH_PLACE (R302): every task of a cooperative launch starts at once, or is restored at once. -/
def execCoopLaunchPlace (l : Nat) (s : State) : Out :=
  .next (match s.launch? l with
    | none => s
    | some x =>
      match (s.tasksOf x).head? with
      | none => s
      | some t =>
        match s.choose t.ret with
        | none => s
        | some c =>
          if c.task.launch = l ∧ x.coop then
            match s.placeCoop x with
            | some s => s.serveNote t.ret c
            | none => s
          else s)

/-- TASK_RESTORE (R345): a chosen task that was saved comes back. -/
def execTaskRestore (t : Nat) (s : State) : Out :=
  .next (match s.task? t with
    | none => s
    | some tk =>
      match s.choose tk.ret with
      | none => s
      | some c =>
        if c.task.uid = t ∧ c.task.saved ∧ !c.task.coop s then
          match s.placeOn c.task with
          | some s => s.serveNote tk.ret c
          | none => s
        else s)

/-! ### Periods and slices (R310, R312) -/

/-- Octet-cycles of credit of one unit of BUDGET (R310). -/
def budgetUnit : Nat := 4000000

/-- Whether a head waits for a span that it does not find while its partition has credit (R312). -/
def State.starved (s : State) (ret : Nat) (h : Nat × Nat × Task) : Bool :=
  0 < (s.ret ret).creditOf h.1 && !s.headFits h.2.2 &&
    (match s.launch? h.2.2.launch with
     | some l => if l.coop then l.pend.isEmpty && ((s.tasksOf l).filter Task.waiting).all fun t => s.ready t && s.atHead t else s.ready h.2.2
     | none => false)

/-- Tasks whose marking a slice end considers: tasks of partitions without credit that are placed in the waiting partition's bays, unmarked
and running on. One that has reached TEND completes by itself (R320). -/
def State.victims (s : State) (ret p : Nat) : List Task :=
  let cus := ((s.part? p).map fun x => x.cus ret).getD []
  s.tasks.filter fun t => t.phase == .running && t.copyOf.isNone && t.ret == ret && cus.contains t.cu && t.part != p && t.mark.isNone &&
    t.fate.isNone && t.stopSince.isNone && !t.tend && decide ((s.ret ret).creditOf t.part ≤ 0)

/-- Whether a head fits once some tasks have left; marked tasks are leaving already (R342). -/
def State.fitsWithout (s : State) (t : Task) (gone : List Nat) : Bool :=
  State.headFits { s with tasks := s.tasks.filter fun u => !gone.contains u.uid && !(u.mark.isSome && u.placed) } t

/-- The shortest run of victims whose leaving makes room for a head (R312). -/
def State.roomAfter (s : State) (t : Task) (vs : List Task) (gone : List Nat) : Option (List Nat) :=
  match vs with
  | [] => if s.fitsWithout t gone then some gone else none
  | v :: rest => if s.fitsWithout t gone then some gone else State.roomAfter s t rest (gone ++ [v.uid])

/-- Of tasks whose leaving makes room, those that must leave: one without which the head fits as well stays (R312). -/
def State.mustGo (s : State) (t : Task) (us : List Nat) : List Nat :=
  us.foldl (fun gone u => if s.fitsWithout t (gone.filter fun x => x != u) then gone.filter fun x => x != u else gone) us

/-- Tasks that go with a task: every task of its cooperative launch (R302). -/
def State.withMates (s : State) (us : List Nat) : List Nat :=
  (s.tasks.filter fun t => t.phase == .running && (us.contains t.uid || (t.coop s && s.tasks.any fun u =>
    us.contains u.uid && u.launch == t.launch))).map (·.uid)

/-- Mark tasks for pre-emption (R342). -/
def State.markTasks (s : State) (us : List Nat) : State :=
  { s with tasks := s.tasks.map fun t => if us.contains t.uid ∧ t.mark = none then { t with mark := some s.clock } else t }

/-- The slice ends of a reticle (R312). -/
def State.endSlices (s : State) (ret : Nat) : State :=
  (s.heads ret).foldl (fun s h =>
    if s.starved ret h then
      match s.roomAfter h.2.2 (s.victims ret h.1) [] with
      | some us => s.markTasks (s.withMates (s.mustGo h.2.2 us))
      | none => s
    else s) s

/-- The share of octet time that a partition has for its own tasks on a reticle: its budget without what its children were given
(R309, R312). -/
def State.ownBudget (s : State) (ret : Nat) (p : Partition) : Nat :=
  p.budget - ((s.parts.filter fun q => q.parent == some p.num && q.rets.any fun x => x.1 == ret).map (·.budget)).sum

/-- BUDGET_PERIOD (R310): a 10 ms period starts, and credit is given afresh. -/
def execBudgetPeriod (ret : Nat) (s : State) : Out :=
  whenOk s ((s.ret ret).periodAt ≤ s.clock && s.parts.any fun p => p.rets.any fun x => x.1 == ret) fun s =>
    let ps := s.parts.filter fun p => p.rets.any fun x => x.1 == ret
    (s.modRet ret fun r => { r with credit := ps.map fun p => (p.num, ((s.ownBudget ret p * budgetUnit : Nat) : Int))
                                    periodAt := (s.clock / periodCycles + 1) * periodCycles }).endSlices ret

/-- CREDIT_EXHAUSTED (R312): a partition is out of credit while another waits in credit; its slice ends. -/
def execCreditExhausted (ret part : Nat) (s : State) : Out :=
  whenOk s (decide ((s.ret ret).creditOf part ≤ 0) && s.tasks.any fun t => t.placed && t.ret == ret && t.part == part) fun s =>
    s.endSlices ret

end Sys2Proof.Machine
end

