-- ==== Sys2Proof/Machine/Preempt.lean ====
section
/-! DEFINITION. Pre-emption (R342 to R346): the live-table directory, saving a task by it or whole, and the time limits. -/

namespace Sys2Proof.Machine

/-! ### Back to the head of the queue (R335, R345) -/

/-- Put a task before the tasks of its queue, after those that came back before it with a lower index. -/
def insertFront (s : State) (q : Nat × Nat × Nat) (ts : List Task) (t : Task) : List Task :=
  match ts with
  | [] => [t]
  | u :: rest =>
    if u.waiting && s.queueOf u == q && !(u.front && u.index < t.index) then t :: u :: rest
    else u :: insertFront s q rest t

/-- Tasks that come to stand behind those that their queue translates ahead lose their translation (R321). A saved task keeps the extents
of its save until it translates again, since invalidations name them (R334). -/
def State.trimAhead (s : State) : State :=
  let trim (t : Task) : Task := { t with phase := .queued, extents := if t.saved then t.allExtents else [], done := [], waits := [] }
  { s with tasks := s.tasks.map fun t => if t.waiting && t.phase != .queued && !s.inAhead t then trim t else t }

/-- A task returns to the head of its own queue. -/
def State.requeue (s : State) (t : Task) : State :=
  let t := { t with phase := .queued, front := true }
  State.trimAhead { s with tasks := insertFront s (s.queueOf t) (s.tasks.filter fun u => u.uid != t.uid) t }

/-! ### The live table (R343, R344) -/

/-- What a save keeps of registers, accumulators and scratchpad. -/
structure Live where
  v : BitVec 128
  g : BitVec 64
  a : BitVec 8
  scr : List (Nat × Nat)

def Live.or (a b : Live) : Live := { v := a.v ||| b.v, g := a.g ||| b.g, a := a.a ||| b.a, scr := a.scr ++ b.scr }

def Live.none : Live := { v := 0, g := 0, a := 0, scr := [] }

/-- A directory entry (R343). -/
def Live.ofEntry (bs : List Byte) : Live :=
  let x : BitVec 512 := BitVec.ofNat 512 (leNat bs)
  { v := x.extractLsb' 32 128, g := x.extractLsb' 160 64, a := x.extractLsb' 224 8
    scr := (List.range 4).map fun k => (16 * field x (256 + 32 * k) 16, 16 * field x (272 + 32 * k) 16) }

/-- Address of a function's live-table directory: directly after its last image (R343). -/
def FnCtx.directory (x : FnCtx) : Dword := x.base + BitVec.ofNat 64 ((2 ^ x.plog - 1) * x.stride + 16 * x.len)

/-- Bytes of the code region, whatever extents they lie in. -/
def State.codeRun (s : State) (t : Task) (va : Dword) (n : Nat) : Option (List Byte) :=
  (List.range n).foldr (fun i a => match s.codeBytes t (va + BitVec.ofNat 64 i) 1, a with
    | some b, some bs => some (b ++ bs)
    | _, _ => Option.none) (some [])

/-- The entry of an offset in a function's directory; none when the magic is wrong or there is no entry (R343, R344). -/
def State.liveEntry (s : State) (t : Task) (x : FnCtx) (off : Word) : Option Live :=
  match s.codeRun t x.directory 16 with
  | Option.none => Option.none
  | some bs =>
    let n := bytesAt bs 0 4
    if bytesAt bs 4 12 ≠ 0xC9 then Option.none
    else (List.range n).findSome? fun i =>
      match s.codeRun t (x.directory + BitVec.ofNat 64 (16 + 64 * i)) 64 with
      | some e => if bytesAt e 0 4 = off.toNat then some (Live.ofEntry e) else Option.none
      | Option.none => Option.none

/-- The union over a coach's held fragments. -/
def State.liveOf (s : State) (t : Task) (c : Coach) : Option Live :=
  (c.frags.filter fun f => c.activeOf f != 0).foldl (fun acc f =>
    match acc, s.liveEntry t f.ctx f.off with
    | some a, some b => some (a.or b)
    | _, _ => Option.none) (some Live.none)

/-! ### Saving (R342, R344, R345) -/

/-- Everything: what a whole save keeps. -/
def Live.all (scratch : Nat) : Live := { v := BitVec.allOnes 128, g := BitVec.allOnes 64, a := BitVec.allOnes 8, scr := [(0, scratch)] }

/-- A coach as a save keeps it: registers that are not listed come back as 0. -/
def Coach.keep (c : Coach) (x : Live) : Coach :=
  { c with v := c.v.filter fun (e : Nat × Word) => x.v.getLsbD (e.1 / 64)
           fresh := c.fresh.filter fun y => x.v.getLsbD (y.key / 64)
           g := c.g.filter fun (e : Nat × Word) => x.g.getLsbD e.1 }

/-- Accumulator elements of a span that a save keeps, keyed from the span's first octet. -/
def State.keepAccs (s : State) (t : Task) (f : Nat → BitVec 8) : Table Word :=
  let base := ((t.ret * 32 + t.cu) * 8 + t.octet0) * 8192
  s.accs.filterMap fun (e : Nat × Word) =>
    if base ≤ e.1 ∧ e.1 < base + t.span * 8192 ∧ (f ((e.1 - base) / 8192)).getLsbD (e.1 / 1024 % 8) then some (e.1 - base, e.2)
    else Option.none

/-- Bytes of a coach's registers and accumulators, and of the scratchpad, that a save keeps (log 64). -/
def Live.bytes (x : Live) (t : Task) (c : Coach) : Nat :=
  ((List.range t.shape.regs).filter x.v.getLsbD).length * 32 * c.width + ((List.range 64).filter x.g.getLsbD).length * 4 +
    ((List.range 8).filter x.a.getLsbD).length * 4096 * c.width + (x.scr.map (·.2)).sum

/-- Frames of the save pool that a save takes (R345). -/
def Task.saveFrames (t : Task) (f : Coach → Live) : Nat := (t.coaches.map fun c => (f c).bytes t c).sum / 65536 + 1

/-- The frames of a partition's save pool on a task's reticle that no save holds (R345). -/
def State.poolFree (s : State) (t : Task) : List Nat :=
  let pool := ((s.part? (s.topPart t.part)).map (·.pool)).getD []
  pool.filter fun a => a / 2 ^ 42 == t.ret && !(s.tasks.any fun u => u.savedIn.contains a)

/-- The key number of a partition's save key, which no slot holds (R345, R420). -/
def State.saveKey (s : State) (t : Task) : Nat := 2 ^ 65 + (((s.part? t.part).map (·.uid)).getD 0)

/-- The segments of frames are written under a key that no slot holds: what they hold reads as free bytes (R202, R345; log 64). -/
def State.sealFrames (s : State) (frames : List Nat) (key : Nat) : State :=
  frames.foldl (fun s a =>
    let lo := a / 32
    { s with segKey := s.segKey.filter (fun x => x.1 < lo) ++ (List.range 2048).map (fun i => (lo + i, key)) ++
                         s.segKey.filter fun x => lo + 2048 ≤ x.1 }) s

/-- Save a task with what each coach keeps, into the save pool under a fresh nonce, and return it to the head of its queue; none where the
pool has no room (R344 to R346). -/
def State.saveTask (s : State) (t : Task) (f : Coach → Live) : Option State :=
  let room := s.poolFree t
  let n := t.saveFrames f
  if room.length < n then Option.none else
  let scr := t.coaches.flatMap fun c => (f c).scr
  let onOctet (o : Nat) : BitVec 8 := t.coaches.foldl (fun m c =>
    if c.octet0 ≤ t.octet0 + o ∧ t.octet0 + o < c.octet0 + c.width then m ||| (f c).a else m) 0
  let t' := { t with saved := true, coaches := t.coaches.map (fun (c : Coach) => c.keep (f c)), savedAccs := s.keepAccs t onOctet
                     scratch := t.scratch.filter fun (e : Nat × Byte) => scr.any fun r => r.1 ≤ e.1 && e.1 < r.1 + r.2 }
  let t' := { t' with mark := Option.none, saveStart := Option.none, savedIn := room.take n, saveNonce := s.freeIx }
  some ((((s.releaseL1 t.ret t.cu).countRet t.ret 0x107 t.vf 1).bumpFree 1 |>.sealFrames (room.take n) (s.saveKey t)).requeue t')

/-- Save a task whole (R344). -/
def State.saveWhole (s : State) (t : Task) : Option State := s.saveTask t fun _ => Live.all t.shape.scratch

/-- Save a task by its live table, or whole where the table does not serve (R344). -/
def State.saveLive (s : State) (t : Task) : Option State :=
  if t.coaches.all fun c => (s.liveOf t c).isSome then s.saveTask t fun c => (s.liveOf t c).getD Live.none
  else s.saveWhole t

/-- A fragment that a live-table save may take: held at a BAR slot in a bundle with LV = 1 (R342). -/
def Frag.atLive (f : Frag) : Bool :=
  f.lv && (match f.hold with
    | .bar .. | .gen .. => true
    | _ => false)

/-- Every coach of a task stands where a live-table save may take it (R342). -/
def Task.atLive (t : Task) : Bool := t.coaches.all fun c => c.frags.all fun f => c.activeOf f == 0 || f.atLive

/-- A marked task that stands ready for its save: by live table, or whole once its time has run out (R342, R344). -/
def Task.saveReady (t : Task) : Bool :=
  t.phase == .running && t.mark.isSome && t.fate.isNone && t.stopSince.isNone && !t.quiet && t.drained &&
    (t.saveStart.isSome || t.atLive)

/-- Tasks saved together: a cooperative launch as a whole (R302). -/
def State.mates (s : State) (t : Task) : List Task :=
  if t.coop s then s.tasks.filter fun u => u.placed && u.launch == t.launch else [t]

/-- Save a task and its mates; none where the pool does not hold them all. -/
def State.saveMates (s : State) (t : Task) : Option State :=
  (s.mates t).foldl (fun a u => a.bind fun s => if u.saveStart.isSome then s.saveWhole u else s.saveLive u) (some s)

/-- PREEMPT_SAVE (R342, R344, R345). -/
def execPreemptSave (t : Nat) (s : State) : Out :=
  .next (match s.task? t with
    | Option.none => s
    | some tk =>
      if s.issue.isNone && tk.saveReady && (s.mates tk).all Task.saveReady then
        (s.saveMates tk).getD s
      else s)

/-- Cycles of 2 ms (R342, R346). -/
def saveCycles : Nat := 3200000

/-- PREEMPT_TIMEOUT: 2 ms after the mark, if not every coach stands at its BAR slot, every coach stops before its next bundle, and the task is saved whole (R342). One that has reached TEND completes instead (R320). -/
def execPreemptTimeout (t : Nat) (s : State) : Out :=
  .next (match s.task? t with
    | Option.none => s
    | some tk =>
      if tk.phase == .running && tk.saveStart.isNone && tk.stopSince.isNone && !tk.tend && (!(s.mates tk).all Task.atLive || ((s.mates tk).all Task.saveReady && (s.saveMates tk).isNone)) &&
          tk.mark.any fun m => m + saveCycles ≤ s.clock then
        (s.mates tk).foldl (fun s u => s.modTask u.uid fun u =>
          { u with mark := some (u.mark.getD s.clock), saveStart := some (u.saveStart.getD s.clock) }) s
      else s)

/-- PREEMPT_FORCED: a whole save that is not written within 2 ms, for an operation that is open or a pool without room, terminates its
task (R346). -/
def execPreemptForced (t : Nat) (s : State) : Out :=
  .next (match s.task? t with
    | Option.none => s
    | some tk =>
      if tk.phase == .running && tk.stopSince.isNone && !tk.tend && !(tk.drained && (s.saveMates tk).isSome) && tk.saveStart.any fun m => m + saveCycles ≤ s.clock then
        s.modTask t fun tk => tk.terminate cPREEMPT_FORCED 0
      else s)

end Sys2Proof.Machine
end

