-- ==== Sys2Proof/Machine/Inval.lean ====
section
/-! DEFINITION. Invalidations (R333 to R336): what they hit, aborts, terminations and deferrals, and their completion. -/

namespace Sys2Proof.Machine

/-! ### What an invalidation hits (R333) -/

def State.hitBy (s : State) (x : Inval) (t : Task) : Option Extent := t.allExtents.find? fun e => s.invalHits x t.vf e

/-- A task that an invalidation no longer touches: it stops after a fault, or has ended but for its record; a task that has finished
without its record is aborted (R334, R336). -/
def Task.beyondInval (t : Task) : Bool := t.fate.isSome || t.stopSince.isSome

/-- A pinned task that defers events 3 and 4: it runs, or is saved (R334). -/
def State.defers (s : State) (x : Inval) (t : Task) : Bool :=
  t.pinned && (t.placed || t.saved) && (3 ≤ x.cause) && (s.hitBy x t).isSome

/-! ### Cut copies (R262) -/

/-- Cut a task's copies short, and keep the status of the first batch that fails (R262, R263, R337). -/
def Task.cutCopies (t : Task) (err : Nat) (hit : Copy → Bool) : Task :=
  t.coaches.foldl (fun t c =>
    let c' := c.cutCopies err hit
    let bad := match c'.ops.findSome? (fun o => match o.body with
        | .batch n cs (some e) => if o.done then none else some (batchStatus n cs (some e))
        | _ => none) with
      | some w => some w
      | none => c'.openErr.map fun e => batchStatus c'.nextBatch.toNat c'.openBatch (some e)
    let t := t.modCoach c.num fun _ => c'
    if t.badCpstat = 0 then { t with badCpstat := bad.getD 0 } else t) t

/-! ### Aborts (R335) -/

/-- A restartable task stops and drops everything (R155, R223, R261, R267, R335). -/
def Task.abort (t : Task) (cause : Nat) : Task :=
  { t with phase := .aborting, cause, coaches := [], barriers := [], scratch := [], tags := [], tiles := [], signals := []
           badCpstat := 0, extents := [], done := [], waits := [], mark := none, saveStart := none, tend := false, halted := false }

/-- A translation starts again (R334). -/
def Task.restartTranslation (t : Task) : Task := { t with phase := .queued, extents := [], done := [], waits := [], wrote := false }

/-- Runs of device-physical addresses that an invalidation of cause 3 or 4 names (R333). -/
def Inval.runs (x : Inval) : List (Nat × Nat) := (x.lo, x.hi) :: x.frames.map fun a => (a, a + 65536)

/-- What is left of runs without one. -/
def cutRun (rs : List (Nat × Nat)) (c : Nat × Nat) : List (Nat × Nat) :=
  rs.flatMap fun r => [(r.1, min r.2 c.1), (max r.1 c.2, r.2)].filter fun x => x.1 < x.2

/-- The frames over which pinned tasks defer an invalidation (R334). -/
def State.pinnedRuns (s : State) (x : Inval) : List (Nat × Nat) :=
  (s.tasks.filter (s.defers x)).flatMap fun t => (t.allExtents.filter (s.invalHits x t.vf)).map fun e =>
    let a := field e.pa 0 48
    (a / 65536 * 65536, (a + e.len + 65535) / 65536 * 65536)

/-- Whether an invalidation reaches an extent of a task now: what pinned tasks defer waits (R334). -/
def State.hitsNow (s : State) (x : Inval) (vf : Nat) (e : Extent) : Bool :=
  s.invalHits x vf e && (x.cause < 3 ||
    ((s.pinnedRuns x).foldl cutRun x.runs).any fun r => meets (field e.pa 0 48) e.len r.1 (r.2 - r.1))

/-- What an invalidation does to one task (R334, R336). -/
def State.meetTask (s : State) (x : Inval) (t : Task) : Task :=
  match t.allExtents.find? fun e => s.hitsNow x t.vf e with
  | none => t
  | some e =>
    let wait (t : Task) : Task := if t.hits.contains x.id then t else { t with hits := t.hits ++ [x.id] }
    if t.beyondInval then wait t
    else if t.phase = .aborting then wait t
    else if t.pinned && (t.placed || t.saved) then
      let t := t.cutCopies 1 fun (c : Copy) => c.kind.allSpans.any fun sp => t.extents.any fun (y : Extent) =>
        y.host && max (max sp.1 y.va) x.lo < min (min (sp.1 + sp.2) (y.va + y.len)) x.hi
      wait (t.terminate cWINDOW_INVALIDATED (BitVec.ofNat 64 (max e.va x.lo)))
    else if t.placed then wait (t.abort x.cause)
    else wait t.restartTranslation

/-- The tasks that an invalidation aborts: each is counted (R432), and what its run has stored leaves its CU's L1, ahead of the re-run's
stores (R240). -/
def State.endRuns (s : State) (before : List Task) : State :=
  before.foldl (fun s t =>
    if t.phase = .running ∧ (s.task? t.uid).any (fun u => u.phase == .aborting) then
      (s.releaseL1 t.ret t.cu).countRet t.ret 0x106 t.vf 1
    else s) s

/-- Apply an invalidation as far as nothing defers it: steps 1 to 3 of R335 take place at once. -/
def State.applyInval (s : State) (x : Inval) : State :=
  State.endRuns { s with tasks := s.tasks.map (s.meetTask x) } s.tasks

/-- Events 3 and 4 wait while a pinned task defers them over some frame (R334). -/
def State.deferred (s : State) (x : Inval) : Bool := s.tasks.any fun t => s.defers x t

/-- An invalidation arrives. -/
def State.startInval (s : State) (x : Inval) : State :=
  let x := { x with id := s.root.nextInval + 1, applied := !s.deferred x }
  State.applyInval { s with root := { s.root with nextInval := s.root.nextInval + 1, invals := s.root.invals ++ [x] } } x

/-- Deferred invalidations are applied to the frames that pinned tasks have left. -/
def State.settleInvals (s : State) : State :=
  s.root.invals.foldl (fun s x =>
    if x.applied then s
    else
      let x' := { x with applied := !s.deferred x }
      State.applyInval { s with root := { s.root with invals := s.root.invals.map fun y => if y.id = x.id then x' else y } } x') s

/-- ATS_INVALIDATION_REQUEST (R333): a host range of a function. One for a function that is being reset or is gone completes
at once (R347). -/
def execAtsInvalidationRequest (vf va len : Nat) (s : State) : Out :=
  .next (if (s.vf? vf).isSome then s.startInval { id := 0, cause := 1, vf, lo := va, hi := va + len } else s.send (.invalDone vf))

/-! ### Free frames (R329, R339 to R341) -/

/-- Leaves of a function's stage-1 table at and below a node: virtual address, intermediate address, log of the size. -/
def State.leavesAux (fuel : Nat) (s : State) (v : Vf) (lv node va : Nat) : List (Nat × Nat × Nat) :=
  match fuel with
  | 0 => []
  | fuel + 1 =>
    let sh := 46 - 6 * lv
    (List.range 64).flatMap fun i =>
      match s.iaBytes v (node + 8 * i) 8 with
      | none => []
      | some bs =>
        let e : Dword := BitVec.ofNat 64 (leNat bs)
        let a := va + i * 2 ^ sh
        if badEntry lv e then []
        else if e.getLsbD 1 then (if e.getLsbD 3 then [] else [(a, field e 9 39 * 512, sh)])
        else State.leavesAux fuel s v (lv + 1) (field e 9 39 * 512) a

def State.leaves (s : State) (v : Vf) : List (Nat × Nat × Nat) := s.leavesAux 6 v 0 v.s1root 0

/-- Virtual addresses whose leaf maps into an intermediate frame (R339). -/
def State.vasOf (s : State) (v : Vf) (frame : Nat) : List Nat :=
  (s.leaves v).filterMap fun l => if l.2.1 ≤ frame ∧ frame < l.2.1 + 2 ^ l.2.2 then some (l.1 + (frame - l.2.1)) else none

/-- The intermediate frame of a function that maps to a device frame now. -/
def Vf.frameOf (v : Vf) (a : Nat) : Option Nat :=
  match v.overrides.find? fun (o : Override) => field o.pa 0 48 = a with
  | some o => some o.frame
  | none =>
    match v.ranges.find? fun (r : Range) => field r.pa 0 48 ≤ a && a < field r.pa 0 48 + r.nfr * 65536 with
    | some r =>
      let f := (r.ia + (a - field r.pa 0 48)) / 65536
      if v.overrides.any fun (o : Override) => o.frame == f then none else some f
    | none => none

/-- Whether an intermediate frame is in use: a leaf or a table node lies in it, or the error ring does. -/
def Vf.frameUsed (v : Vf) (ls : List (Nat × Nat × Nat)) (f : Nat) : Bool :=
  let a := f * 65536
  (ls.any fun l => l.2.1 < a + 65536 && a < l.2.1 + 2 ^ l.2.2) || v.s1root / 65536 * 65536 == a ||
    (v.policy.errBase < a + 65536 && a < v.policy.errBase + 64 * 2 ^ v.policy.errK)

/-- A frame that holds nothing of its function: neither retired nor of the save pool, and what maps to it now is not in use. The old
place of a frame that has moved is free (R340). -/
def State.frameFree (s : State) (v : Vf) (ls : List (Nat × Nat × Nat)) (a : Nat) : Bool :=
  !s.root.retired.contains a && !(s.parts.any fun p => p.pool.contains a) && !((v.frameOf a).any (v.frameUsed ls))

/-- The lowest free frame of a reticle from `a` on. -/
def State.findFree (fuel : Nat) (s : State) (v : Vf) (ls : List (Nat × Nat × Nat)) (a : Nat) : Option Nat :=
  match fuel with
  | 0 => none
  | fuel + 1 => if s.frameFree v ls a then some a else State.findFree fuel s v ls (a + 65536)

/-- Frames of assignable DRAM of a reticle (R27). -/
def framesPerReticle : Nat := 2064384

/-- Whether a stage-1 node lies in a frame; nodes keep frames in use as leaves do. -/
def State.nodesAux (fuel : Nat) (s : State) (v : Vf) (lv node : Nat) : List (Nat × Nat × Nat) :=
  match fuel with
  | 0 => []
  | fuel + 1 =>
    (0, node / 65536 * 65536, 16) :: (List.range 64).flatMap fun i =>
      match s.iaBytes v (node + 8 * i) 8 with
      | none => []
      | some bs =>
        let e : Dword := BitVec.ofNat 64 (leNat bs)
        if badEntry lv e || e.getLsbD 1 then [] else State.nodesAux fuel s v (lv + 1) (field e 9 39 * 512)

/-- A free frame of a function on a reticle. -/
def State.freeFrame (s : State) (v : Vf) (ret : Nat) : Option Nat :=
  s.findFree framesPerReticle v (s.leaves v ++ s.nodesAux 6 v 0 v.s1root) (devAddr ret 0)

/-- Write a frame override, replacing one of the same frame; none when 256 are written (R329). -/
def Vf.override (v : Vf) (o : Override) : Option Vf :=
  let rest := v.overrides.filter fun (x : Override) => x.frame != o.frame
  if rest.length < 256 then some { v with overrides := rest ++ [o] } else none

/-- Copy a frame between two device addresses under a key, whatever the caches hold (R340). -/
def State.copyFrame (s : State) (a b key : Nat) : State :=
  let at' (x : Nat) : Loc := .glob 0xFFFF (x / 2 ^ 42) (x % 2 ^ 42) key 0
  s.locWrite (at' b) (s.locBytes (at' a) 65536) 3

/-- Drop every cached copy of a frame; dirty bytes are lost where the frame is. -/
def State.dropFrame (s : State) (a : Nat) : State :=
  let ret := a / 2 ^ 42
  let lo := a % 2 ^ 42
  let s := { s with lines := s.lines.filter fun (l : L1Line) => !(l.ret == ret && lo ≤ l.base && l.base < lo + 65536) }
  (List.range 2048).foldl (fun s i =>
    match s.resident? ret (lo + 32 * i) with
    | some (x, r) => s.modSector ret x.base x.pc fun y =>
        { y.setRow r 0 (List.replicate 32 0) with valid := y.valid &&& ~~~bit32 r, dirty := y.dirty &&& ~~~bit32 r }
    | none => s) s

/-- Write back the dirty L1 lines of a frame. -/
def State.cleanFrame (s : State) (a : Nat) : State :=
  let ret := a / 2 ^ 42
  let lo := a % 2 ^ 42
  (s.lines.filter fun (l : L1Line) => l.ret == ret && lo ≤ l.base && l.base < lo + 65536 && l.dirty != 0).foldl (fun s l => s.cleanLine l) s

/-- The device address of an intermediate frame of a function, and its key. -/
def State.frameAt (s : State) (v : Vf) (frame : Nat) : Option (Nat × Nat) :=
  (s.stage2 v (frame * 65536) false).map fun h => (field h.1 0 48, h.2)

/-- Move an intermediate frame of a function to a reticle: copy under the same key, then an override (R340). `none` where
there is no mapping, no free frame or no free override. -/
def State.moveFrame (s : State) (vf frame ret : Nat) : Option State :=
  match s.vf? vf with
  | none => none
  | some v =>
    match s.frameAt v frame, s.freeFrame v ret with
    | some (a, key), some b =>
      (v.override { frame, pa := BitVec.ofNat 64 (0xFFFF * 2 ^ 48 + b), key }).map fun v' =>
        let s := (s.cleanFrame a).copyFrame a b key
        (s.dropFrame a).modVf vf fun _ => v'
    | _, _ => none

/-- A frame's moves (R341). -/
def State.movedOf (s : State) (vf frame : Nat) : Moved :=
  (s.root.moved.find? fun (m : Moved) => m.vf = vf ∧ m.frame = frame).getD { vf, frame, times := [], settleTill := 0 }

def State.setMoved (s : State) (m : Moved) : State :=
  { s with root := { s.root with moved := s.root.moved.filter (fun (x : Moved) => !(x.vf == m.vf && x.frame == m.frame)) ++ [m] } }

/-- Whether a frame may move: not in its stay, and at most twice in 50 ms (R341). -/
def State.mayMove (s : State) (vf frame : Nat) : Bool :=
  let m := s.movedOf vf frame
  m.settleTill ≤ s.clock && (m.times.filter fun t => s.clock < t + 5 * periodCycles).length < 2

/-- A frame has moved to a reticle; after its second move within 50 ms it stays for 200 ms, which is counted (R341). -/
def State.noteMove (s : State) (vf frame ret : Nat) : State :=
  let m := s.movedOf vf frame
  let times := (m.times.filter fun t => s.clock < t + 5 * periodCycles) ++ [s.clock]
  let settle := 2 ≤ times.length
  let s := s.setMoved { m with times, settleTill := if settle then s.clock + 20 * periodCycles else 0 }
  if settle then s.countRet ret 0x105 vf 1 else s

/-- An explicit move: every frame of a range, in order; those that cannot or may not move stay (R341, R413). -/
def State.explicitMove (s : State) (vf first n ret : Nat) : State :=
  (List.range n).foldl (fun s i =>
    if s.mayMove vf (first + i) then
      match s.moveFrame vf (first + i) ret with
      | some s => s.noteMove vf (first + i) ret
      | none => s
    else s) s

/-! ### INVALIDATION_COMPLETE (R335) -/

/-- An aborted task whose invalidations have all completed is requeued (R335). -/
def State.requeueAborted (s : State) (t : Task) : State :=
  let t := { t with retries := min (t.retries + 1) 65535 }
  s.requeue t

/-- Whether a request of a task that has left the reticle is still neither completed nor given up at its class timeout (R335, R354). -/
def State.inFlight (s : State) (t : Nat) : Bool :=
  s.port.reqs.any fun q => q.owner == some t && q.flying && decide (s.clock < q.since + q.timeout)

/-- Whether an invalidation may complete: every task it met has dropped its work or ended, and no request of one that it aborted is on
its way (step 2 of R335). -/
def State.invalDone (s : State) (x : Inval) : Bool :=
  x.applied && s.tasks.all fun t => !t.hits.contains x.id || (t.fate.isNone && (t.waiting || (t.phase == .aborting && !s.inFlight t.uid)))

/-- What an explicit move does once its invalidation is complete; on a fenced root nothing migrates, and the command goes no further
(R341, R428). -/
def State.moveAfter (s : State) (x : Inval) : State :=
  match x.move with
  | some (first, n, ret) => if s.root.fenced then s else s.explicitMove x.vf first n ret
  | none => s

/-- INVALIDATION_COMPLETE: the ATS completion is sent, or the command moves on; its tasks are requeued (R335). -/
def execInvalidationComplete (i : Nat) (s : State) : Out :=
  .next (match s.root.invals.find? fun x => x.id = i with
    | none => s
    | some x =>
      if s.invalDone x then
        let s := { s with
          root := { s.root with invals := s.root.invals.filter fun y => y.id != i }
          tasks := s.tasks.map fun (t : Task) => { t with hits := t.hits.filter fun h => h != i } }
        let s := s.moveAfter x
        let s := if x.cause = 1 then s.send (.invalDone x.vf) else if x.move.isSome && s.root.fenced then s else s.finishCmd x.seq
        (s.tasks.filter fun t => t.phase == .aborting && t.hits.isEmpty && t.fate.isNone).foldl (fun s t => s.requeueAborted t) s
      else s)

end Sys2Proof.Machine
end

