-- ==== Sys2Proof/Machine/Errors.lean ====
section
/-! DEFINITION. Hardware errors: page retirement (R191, R203, R339), the fence of a reticle (R34, R315, R425), and automatic
migration (R340, R341). -/

namespace Sys2Proof.Machine

/-! ### Page retirement (R339) -/

/-- Spare frames of a reticle (R27). -/
def spareFrames : Nat := 20972

/-- A retirement under one task (R336, R339, R262): a task that holds an extent over the frame is terminated; a translation
ahead of placement starts again. -/
def State.retireTask (s : State) (a ia : Nat) (t : Task) : Task :=
  let onFrame (e : Extent) : Bool := !e.host && s.isHere (field e.pa 48 16) && meets (field e.pa 0 48) e.len a 65536
  match t.allExtents.find? onFrame with
  | none => t
  | some e =>
    if t.placed || t.saved then
      if t.fate.isSome then t
      else
        let t := t.cutCopies 2 fun (c : Copy) => c.kind.allSpans.any fun sp =>
          (t.extents.filter onFrame).any fun (y : Extent) => meets sp.1 sp.2 (y.va + (a - field y.pa 0 48)) (65536 - (field y.pa 0 48 - a))
        t.endBy { code := cPAGE_RETIRED, sev := 3, addr := BitVec.ofNat 64 (e.va + (a - field e.pa 0 48)), aux := ia, auxk := true }
    else if t.phase = .queued then t
    else t.restartTranslation

/-- The spare that stands in a retired frame's place: the one taken for it before, or the next of its reticle's pool (R27, R28). -/
def State.takeSpare (s : State) (a : Nat) : State × Option Nat :=
  match s.root.spareOf.find? fun x => x.1 = a with
  | some x => (s, some x.2)
  | none =>
    let ret := a / 2 ^ 42
    let taken := tget 0 s.root.spares ret
    if taken < spareFrames then
      let b := devAddr ret (offAssignable + 65536 * taken)
      ({ s with root := { s.root with spares := tput 0 s.root.spares ret (taken + 1), spareOf := s.root.spareOf ++ [(a, b)] } }, some b)
    else (s, none)

/-- Retire the frame at a device address, in the order of R339. -/
def State.retireFrame (s : State) (a : Nat) : State :=
  if s.root.retired.contains a then s
  else
    let ret := a / 2 ^ 42
    let s := { s with root := { s.root with retired := s.root.retired ++ [a] } }
    match (s.homePart ret).bind fun p => s.vf? p.vf with
    | none => s.dropFrame a
    | some v =>
      match v.frameOf a with
      | none => s.dropFrame a
      | some f =>
        let key := ((s.homePart ret).map (·.key)).getD 0
        let r := s.takeSpare a
        let s := match r.2.bind fun b => v.override { frame := f, pa := BitVec.ofNat 64 (0xFFFF * 2 ^ 48 + b), key } with
          | some v' => r.1.modVf v.num fun _ => v'
          | none => s
        let s := s.dropFrame a
        let before := s.tasks
        let s := { s with tasks := s.tasks.map (s.retireTask a (f * 65536)) }
        -- the tasks it terminates end, as far as they may, before the scan
        let s := (before.filter fun (t : Task) => t.fate.isNone).foldl (fun (s : State) (t : Task) =>
          if (s.task? t.uid).any fun (x : Task) => x.fate.isSome then s.completeTask t.uid else s) s
        match s.vf? v.num with
        | none => s
        | some v =>
          s.errorRing v.num ((s.vasOf v (f * 65536)).map fun va =>
            ({ code := cPAGE_RETIRED, sev := 3, addr := BitVec.ofNat 64 va, aux := f * 65536, auxk := true },
             { task := 0xFFFFFFFF, ret, cu := 0, desc := 0 }))

/-! ### Fencing a reticle (R34, R315, R420, R425) -/

/-- The links of a site leave service on both sides (R21, R34). -/
def siteLinks (site : Nat) : List Nat :=
  ((meshNeighbours site).flatMap fun n => [linkKey site n.1, linkKey n.2 ((n.1 + 2) % 4)]) ++
    (List.range 16).map fun g => linkKey site (optPort g)

/-- The links of the disabled sites, which are out of service from reset on; the Lodge's mesh links carry traffic (R20, R21). -/
def Ident.noLinks (i : Ident) : List Nat := (i.absent.filter fun x => x != 24).flatMap siteLinks

/-- Lost indices of a spanned launch on a fenced reticle, with what they have run: a run counts as lost when it had reached its first
bundle there, whether it went on, had ended in an unreported chunk, or was being aborted (R315). -/
def State.lostPend (s : State) (l : Launch) (ret index : Nat) (c : Chunk) : Pend :=
  match c.records.find? fun r => r.1 = index with
  | some (_, r) =>
    if c.began.contains index then
      { ret, idx := index, retries := min (field r 32 16 + 1) 65535, cause := 5, ran := true, runRet := field r 48 6, runCu := field r 54 5 }
    else { ret, idx := index, retries := field r 32 16, cause := field r 5 3, ran := r.getLsbD 19, runRet := field r 48 6, runCu := field r 54 5 }
  | none =>
    match s.tasks.find? fun (t : Task) => t.copyOf.isNone ∧ t.launch = l.id ∧ t.index = index with
    | some t =>
      let lost := t.began && (t.phase == .running || t.phase == .aborting || t.saved)
      { ret, idx := index, retries := if lost then min (t.retries + 1) 65535 else t.retries, cause := if lost then 5 else t.cause,
        ran := t.ran, runRet := t.runRet, runCu := t.cu }
    | none =>
      match l.pend.find? fun p => p.idx = index with
      | some p => p
      | none => { ret, idx := index }

/-- Split lost indices among the survivors, in new chunks (R314, R315). -/
def Launch.reissue (l : Launch) (ps : List Pend) : Launch :=
  let n := l.rets.length
  let give (r : Nat × Nat) : List Pend :=
    ((ps.drop (shareFirst ps.length n r.2)).take (shareSize ps.length n r.2)).map fun p => { p with ret := r.1 }
  { l with
    pend := l.pend ++ l.rets.zipIdx.flatMap give
    chunks := l.chunks ++ l.rets.zipIdx.flatMap fun r =>
      (chunksOf (ps.length / 64 + 1) ((give r).map (·.idx))).map fun c => { ret := r.1, indices := c : Chunk } }

/-- Insert a lost index in ascending order. -/
def insertPend (xs : List Pend) (b : Pend) : List Pend :=
  match xs with
  | [] => [b]
  | a :: rest => if a.idx ≤ b.idx then a :: insertPend rest b else b :: a :: rest

/-- A spanned launch loses a reticle (R315). -/
def State.loseReticle (s : State) (ret : Nat) (l : Launch) : State :=
  let lost := l.chunks.filter fun (c : Chunk) => c.ret == ret && !c.reported
  let alive := l.rets.filter fun r => r != ret && s.live r
  if l.cancel.isSome then s
  else if lost.isEmpty then s.modLaunch l.id fun l => { l with rets := if alive.isEmpty then l.rets else alive, master := alive.headD l.master }
  else if l.pinned || alive.isEmpty then s.failNode l.graph l.node cHW_ERROR
  else
    let ps := (lost.flatMap fun (c : Chunk) => c.indices.map fun i => s.lostPend l ret i c).foldl insertPend []
    let gone (t : Task) : Bool := t.copyOf.isNone && t.launch == l.id && t.ret == ret
    let s := { s with tasks := s.tasks.filter fun t => !gone t }
    s.modLaunch l.id fun l =>
      Launch.reissue { l with rets := alive, master := alive.headD l.master, pend := l.pend.filter (fun p => p.ret != ret)
                              chunks := l.chunks.filter fun (c : Chunk) => !(c.ret == ret && !c.reported) } ps

/-- A key slot whose last mirror has confirmed its zeroisation is free (R420). -/
def State.settleSlots (s : State) : State :=
  { s with root := { s.root with slots := s.root.slots.filter fun (k : KeySlot) => !(k.state == .zeroising && k.rets.isEmpty) } }

/-- The journal entry of a fence: KIND 0x81, by the root itself (R423). -/
def State.journalFence (s : State) : State :=
  if s.root.fenced then s else (s.journalAdd { seq := 0, handle := 0, kind := 0x81, state := 2, origin := 2 }).1

/-- Copies of the root's data that live reticles hold (R423, R425). -/
def State.copiesLive (s : State) (rs : List Nat) : Bool := rs.any fun r => s.live r

/-- What a fence means for the root: with both copies of the journal or of its working data gone it is fenced itself (R425,
R428); where the reticle held a copy, the fence is journalled once the copy is made again. -/
def State.rootLoses (s : State) (ret : Nat) : State :=
  if !s.copiesLive s.root.journalAt then { s with root := { s.root with fenced := true, journal := [] } }
  else if !s.copiesLive s.root.workAt then { s with root := { s.root with fenced := true } }
  else if s.root.journalAt.contains ret || s.root.workAt.contains ret then s
  else s.journalFence

/-- Put the route tables under the next version (R351). -/
def State.bumpRoutes (s : State) : State := { s with port := { s.port with version := s.port.version + 1 } }

/-- The flits that neighbours have sent to a fenced site and that it has not acknowledged go back to the neighbours' port engines, which
route them afresh (R34, R390). -/
def State.handBack (s : State) (site : Nat) : State :=
  (meshNeighbours site).foldl (fun s n =>
    let back := (n.1 + 2) % 4
    let l := s.link n.2 back
    let fs := (l.clear ++ l.queue).map fun f => { f with via := none }
    if fs.isEmpty then s
    else (s.modLink n.2 back fun x => { x with replay := [], clear := [], queue := [], nakAt := none, resends := 0 }).modSwitch n.2
      fun x => { x with optical := x.optical ++ fs }) s

/-- Fence a reticle (R34): its tasks terminate with HW_ERROR, its links leave service, launches lose it. DESIGN CHOICE (log 77): while
the root itself is fenced (R428) this still clears the link map and adds 1 to the route-table version, though R390 keeps the version
as it is then for links that fail. -/
def State.fenceReticle (s : State) (ret : Nat) : State :=
  if !s.live ret then s
  else
    let s := s.modRet ret fun r => { r with fenced := true }
    let s := State.bumpRoutes { s with port := { s.port with out := (s.port.out ++ siteLinks ret).eraseDups } }
    let spannedOf (t : Task) : Bool := (s.launch? t.launch).any fun l =>
      l.spanned && !l.pinned && l.cancel.isNone && l.rets.any fun r => s.live r
    let s := { s with
      tasks := s.tasks.map fun (t : Task) =>
        if t.ret ≠ ret then t
        else if t.copyOf.isSome then { t.restartTranslation with ret := (((s.part? t.part).map fun p => s.liveRets p).getD []).headD ret }
        else if (t.placed || t.saved) && !spannedOf t then t.terminate cHW_ERROR 0
        else t
      lines := s.lines.filter fun (l : L1Line) => l.ret != ret
      sectors := s.sectors.filter fun (x : Sector) => x.ret != ret
      root := { s.root with slots := s.root.slots.map fun (k : KeySlot) => { k with rets := k.rets.filter fun r => r != ret } } }
    let s := s.settleSlots.handBack ret
    let s := s.launches.foldl (fun (s : State) (l : Launch) =>
      if l.rets.contains ret then
        if l.spanned then ((s.launch? l.id).map fun x => s.loseReticle ret x).getD s
        else if l.counter = 0 then s
        else s.failNode l.graph l.node cHW_ERROR
      else s) s
    let s := s.graphs.foldl (fun (s : State) (g : Graph) => s.settleGraph g.id) s
    s.rootLoses ret

/-- TEMPERATURE_TRIP (R34). -/
def execTemperatureTrip (ret : Nat) (s : State) : Out := .next (s.fenceReticle ret)

/-- UNCORRECTABLE_STATE_ERROR in a dispatcher, port engine, LLC tag or walker (R427). -/
def execUncorrectableStateError (ret : Nat) (s : State) : Out := .next (s.fenceReticle ret)

/-- JOURNAL_RECOPY (R425): the data of a fenced reticle goes to the lowest live compute reticle that holds no copy, and the
fence is journalled. -/
def execJournalRecopy (ret : Nat) (s : State) : Out :=
  whenOk s (!s.root.fenced && !s.live ret && (s.root.journalAt.contains ret || s.root.workAt.contains ret)) fun s =>
    match (List.range 49).find? fun r => s.live r && !s.root.journalAt.contains r && !s.root.workAt.contains r with
    | none => s
    | some n =>
      let sub (xs : List Nat) : List Nat := xs.map fun r => if r = ret then n else r
      State.journalFence { s with root := { s.root with journalAt := sub s.root.journalAt, workAt := sub s.root.workAt } }

/-! ### ECC (R191, R203) -/

/-- Retire a frame, or fence its reticle where the root is fenced (R428). -/
def State.lostFrame (s : State) (ret off : Nat) : State :=
  if s.root.fenced then s.fenceReticle ret else s.retireFrame (devAddr ret off / 65536 * 65536)

/-- ECC_UNCORRECTABLE (R203): DRAM, a dirty L1 line or a dirty LLC segment retires its frame; a clean copy is dropped. -/
def execEccUncorrectable (site : EccSite) (s : State) : Out :=
  .next (match site with
    | .dram pa => s.lostFrame (pa / 2 ^ 42) (pa % 2 ^ 42)
    | .l1 ret cu seg =>
      match s.lines.find? fun l => l.isRow ret cu seg with
      | some l =>
        if l.dirty ≠ 0 then s.lostFrame ret seg
        else { s with lines := s.lines.filter fun x => !x.isRow ret cu seg }
      | none => s
    | .l1Column ret cu base pc j =>
      -- a column line is never dirty (R194)
      { s with lines := s.lines.filter fun l => !(l.column && l.ret == ret && l.cu == cu && l.base == base && l.pc == pc && l.j == j) }
    | .llc ret seg =>
      match s.resident? ret seg with
      | some (x, i) =>
        if x.dirty.getLsbD i then s.lostFrame ret seg
        else s.modSector ret x.base x.pc fun y => { y.setRow i 0 (List.replicate 32 0) with valid := y.valid &&& ~~~bit32 i }
      | none => s)

/-- SCRATCH_ECC_UNCORRECTABLE (R191): the task that owns the granule terminates with HW_ERROR. -/
def execScratchEccUncorrectable (t : Nat) (s : State) : Out :=
  whenOk s ((s.task? t).any Task.placed) fun s => s.modTask t fun tk => tk.terminate cHW_ERROR 0

/-! ### Automatic migration (R340, R341) -/

/-- The reticle that a frame of a home is a candidate to move to, its heaviest user: at least 4,096 fills and four times the home's own (R340). -/
def State.heavyUser (s : State) (p : Partition) (home frame : Nat) : Option Nat :=
  let n (r : Nat) : Nat := tget 0 s.root.fills (frame * 64 + r)
  ((p.rets.map (·.1)).filter fun r => r != home && 4096 ≤ n r && 4 * n home ≤ n r).foldl (fun (a : Option Nat) r =>
    if a.any fun b => n r ≤ n b then a else some r) none

/-- FILL_COUNT_PERIOD: a 10 ms period of a home ends; candidates are noted and its counts start afresh (R340). -/
def execFillCountPeriod (ret : Nat) (s : State) : Out :=
  whenOk s ((s.ret ret).fillAt ≤ s.clock) fun s =>
    let mine := s.root.fills.filter fun (x : Nat × Nat) => x.1 / 64 * 65536 / 2 ^ 42 = ret
    let frames := (mine.map fun x => x.1 / 64).eraseDups
    let cands := match s.homePart ret with
      | none => []
      | some p => match s.vf? p.vf with
        | none => []
        | some v => frames.filterMap fun f => match s.heavyUser p ret f, v.frameOf (f * 65536) with
          | some r, some ia => some (v.num, ia, r)
          | _, _ => none
    let s := s.modRet ret fun r => { r with fillAt := (s.clock / periodCycles + 1) * periodCycles }
    { s with root := { s.root with fills := s.root.fills.filter (fun (x : Nat × Nat) => !(x.1 / 64 * 65536 / 2 ^ 42 = ret))
                                   cands := s.root.cands ++ cands } }

/-- Whether a placed task holds an extent over a device frame (R340). -/
def State.frameHeld (s : State) (a : Nat) : Bool :=
  s.tasks.any fun t => t.placed && t.extents.any fun e => !e.host && s.isHere (field e.pa 48 16) && meets (field e.pa 0 48) e.len a 65536

/-- Translations ahead of placement that use a frame start again (R340). -/
def State.restartOver (s : State) (a : Nat) : State :=
  { s with tasks := s.tasks.map fun (t : Task) =>
    if !t.placed && t.phase != .queued && t.allExtents.any (fun e => !e.host && s.isHere (field e.pa 48 16) &&
        meets (field e.pa 0 48) e.len a 65536) then t.restartTranslation else t }

/-- FRAME_MIGRATE: a candidate moves once no placed task holds it, unless it is settled (R340, R341). -/
def execFrameMigrate (vf frame : Nat) (s : State) : Out :=
  .next (match s.root.cands.find? fun c => c.1 = vf ∧ c.2.1 = frame, (s.vf? vf).bind fun v => s.frameAt v frame with
    | some c, some (a, _) =>
      if s.root.fenced || s.frameHeld a || !s.mayMove vf frame then s
      else
        let s := { s with root := { s.root with cands := s.root.cands.filter fun x => x != c } }
        match s.moveFrame vf frame c.2.2 with
        | none => s
        | some s => (s.restartOver a).noteMove vf frame c.2.2
    | _, _ => s)

/-- FRAME_SETTLE_END: 200 ms after its second move a frame may move again (R341). -/
def execFrameSettleEnd (vf frame : Nat) (s : State) : Out :=
  let m := s.movedOf vf frame
  whenOk s (m.settleTill != 0 && m.settleTill ≤ s.clock) fun s => s.setMoved { m with times := [], settleTill := 0 }

end Sys2Proof.Machine
end

