-- ==== Sys2Proof/Machine/Flit.lean ====
section
/-! DEFINITION. The 96 bytes of a flit (R382): its fields, the CRC (R383), and the requests and answers that it carries. Ports 0 to 3
are the mesh ports N, E, S and W, ports 4 to 18 the optical lane groups of the other pod slots, port 19 scale-out. -/

namespace Sys2Proof

open Sys2Proof.Machine

/-! ### Layout (R382) -/

/-- The header, bits 159..0. -/
def Flit.header (f : Flit) : Nat :=
  f.age % 2 ^ 8 + f.ver % 2 ^ 8 * 2 ^ 8 + f.tc % 4 * 2 ^ 16 + f.kp.toNat * 2 ^ 18 + f.kind % 16 * 2 ^ 20 + f.lseq % 2 ^ 10 * 2 ^ 24 +
    f.lack % 2 ^ 10 * 2 ^ 34 + f.nak.toNat * 2 ^ 44 + f.bytes % 2 ^ 7 * 2 ^ 45 + f.vf % 2 ^ 9 * 2 ^ 52 + f.dest.toNat * 2 ^ 64 +
    f.srcNode % 2 ^ 16 * 2 ^ 128 + f.srcRet % 2 ^ 6 * 2 ^ 144 + f.tid % 2 ^ 10 * 2 ^ 150

/-- The payload's 64 bytes. -/
def Flit.block (f : Flit) : List Byte := (List.range 64).map fun i => f.payload.getD i 0

/-- Bits 735..0. -/
def Flit.body (f : Flit) : Nat := f.header + leNat f.block * 2 ^ 160 + f.mac.toNat * 2 ^ 672

/-- One byte of the CRC-32 of IEEE 802.3, least significant bit first. -/
def crcByte (c b : Nat) : Nat :=
  (List.range 8).foldl (fun c _ => if c % 2 = 1 then Nat.xor (c / 2) 0xEDB88320 else c / 2) (Nat.xor c b)

/-- CRC-32 of the first `n` bytes of a number (log 40). -/
def crc32 (n x : Nat) : Nat :=
  Nat.xor ((List.range n).foldl (fun c i => crcByte c (x / 2 ^ (8 * i) % 256)) 0xFFFFFFFF) 0xFFFFFFFF

/-- A flit as sent: the CRC covers bits 735..0. -/
def Flit.word (f : Flit) : BitVec 768 := BitVec.ofNat 768 (f.body + crc32 92 f.body * 2 ^ 736)

/-- The fields of a received flit, its payload whole. -/
def flitOf (ch : Nat) (b : BitVec 768) : Flit :=
  { age := field b 0 8, ver := field b 8 8, tc := field b 16 2, kp := b.getLsbD 18, kind := field b 20 4, lseq := field b 24 10
    lack := field b 34 10, nak := b.getLsbD 44, bytes := field b 45 7, vf := field b 52 9, dest := b.extractLsb' 64 64
    srcNode := field b 128 16, srcRet := field b 144 6, tid := field b 150 10
    payload := (List.range 64).map fun i => b.extractLsb' (160 + 8 * i) 8
    mac := b.extractLsb' 672 64, ch }

/-- Whether a received flit is corrupted by its own bits (R383): the CRC, a reserved KIND, a reserved bit. -/
def flitBad (b : BitVec 768) : Bool :=
  field b 736 32 != crc32 92 (field b 0 736) || (12 ≤ field b 20 4 && field b 20 4 ≤ 14) || b.getLsbD 19 || field b 61 3 != 0

/-- The additional authenticated data: bits 159..64 and TC, KIND, BYTES and VF (R395), in that order from bit 0 (log 40). -/
def Flit.aad (f : Flit) : Nat :=
  f.header / 2 ^ 64 + f.tc % 4 * 2 ^ 96 + f.kind % 16 * 2 ^ 98 + f.bytes % 2 ^ 7 * 2 ^ 102 + f.vf % 2 ^ 9 * 2 ^ 109

/-! ### Requests in flits (R356, R382; the payload's layout is log 40) -/

/-- The KIND of a request. -/
def ReqKind.kind (k : ReqKind) : Nat :=
  match k with
  | .write .. => 2
  | .colWrite .. => 2
  | .nibble .. => 2
  | .atomic .. => 3
  | .post kind _ => kind
  | .signal _ => 5
  | _ => 0

/-- The payload of a write: its bytes, and in byte 63 what a short one says besides. -/
def writeLoad (bs : List Byte) (how : Nat) : List Byte :=
  if bs.length < 64 then bs ++ List.replicate (63 - bs.length) 0 ++ leBytes 1 how else bs

/-- BYTES and PAYLOAD of a request. -/
def ReqKind.load (k : ReqKind) : Nat × List Byte :=
  let ask (n form pc pol : Nat) : Nat × List Byte := (4, leBytes 1 n ++ leBytes 1 form ++ leBytes 1 pc ++ leBytes 1 pol)
  match k with
  | .read n pol => ask n 0 0 pol
  | .colRead n pc => ask n 1 pc 0
  | .axis pc w => ask w 2 pc 0
  | .pin pc => ask 0 3 pc 0
  | .unpin pc => ask 0 4 pc 0
  | .pf pc => ask 0 5 pc 0
  | .write pol bs => (bs.length, writeLoad bs (4 * pol))
  | .colWrite pc bs => (bs.length, writeLoad bs (1 + 16 * pc))
  | .nibble high b => (1, writeLoad [b] (if high then 3 else 2))
  | .atomic op n pol x cmp =>
    (24, leBytes 1 op.toNat ++ leBytes 1 n ++ leBytes 1 pol ++ List.replicate 5 0 ++ leBytes 8 x.toNat ++ leBytes 8 cmp.toNat)
  | .post _ bs => (bs.length, bs)
  | .signal inc => (8, leBytes 8 inc.toNat)

/-- The flit of a request. -/
def RemoteReq.flit (r : RemoteReq) : Flit :=
  { tc := r.tc, kind := r.kind.kind, bytes := r.kind.load.1, vf := r.vf, dest := r.dest, srcNode := r.srcNode, srcRet := r.srcRet
    tid := r.tid, payload := r.kind.load.2 }

/-- The request that a flit of KIND 0 and 2 to 6 brings. -/
def flitRequest (f : Flit) : Option RemoteReq :=
  let at' (i n : Nat) : Nat := leNat ((f.payload.drop i).take n)
  let bs := f.payload.take f.bytes
  let how := if f.bytes < 64 then at' 63 1 else 0
  let kind : Option ReqKind := match f.kind with
    | 0 => match at' 1 1 with
      | 0 => some (.read (at' 0 1) (at' 3 1))
      | 1 => some (.colRead (at' 0 1) (at' 2 1))
      | 2 => some (.axis (at' 2 1) (at' 0 1))
      | 3 => some (.pin (at' 2 1))
      | 4 => some (.unpin (at' 2 1))
      | 5 => some (.pf (at' 2 1))
      | _ => none
    | 2 => some (match how % 4 with
      | 0 => .write (how / 4 % 4) bs
      | 1 => .colWrite (how / 16) bs
      | 2 => .nibble false (bs.headD 0)
      | _ => .nibble true (bs.headD 0))
    | 3 => some (.atomic (BitVec.ofNat 4 (at' 0 1)) (at' 1 1) (at' 2 1) (BitVec.ofNat 64 (at' 8 8)) (BitVec.ofNat 64 (at' 16 8)))
    | 4 => some (.post 4 bs)
    | 5 => some (.signal (BitVec.ofNat 64 (at' 0 8)))
    | 6 => some (.post 6 bs)
    | _ => none
  kind.map fun k => { srcNode := f.srcNode, srcRet := f.srcRet, tid := f.tid, vf := f.vf, tc := f.tc, dest := f.dest, kind := k }

/-- Whether a flit answers a request: a read response, an acknowledgement or a refusal. -/
def Flit.answers (f : Flit) : Bool := f.kind == 1 || f.kind == 8 || f.kind == 9

end Sys2Proof

namespace Sys2Proof.Machine

/-! ### What a flit brings to its target (R356, R364, R377, R382, R391) -/

/-- An answer reaches the port engine of the issuing reticle: the request has it; one that nothing waits for any more is over, and its
TID is free (R391). -/
def State.takeAnswer (s : State) (site : Nat) (f : Flit) : State :=
  let mine (q : PortReq) : Bool := q.flying && q.req.srcRet == site && q.req.tid == f.tid
  let a : Answer := if f.kind = 9 then .refused else .data (if f.kind = 1 then f.payload.take f.bytes else [])
  let reqs := (s.port.reqs.filter fun q => !(mine q && q.client == .none)).map fun q => if mine q then { q with answer := some a } else q
  { s with port := { s.port with reqs } }

/-- The function of this wafer that stands for a function of another: the one of the same binding (R416, log 40). -/
def State.boundVf (s : State) (node vf : Nat) : Option Nat :=
  (s.root.bindings.find? fun b => b.1 = node ∧ b.2.1 = vf).bind fun b => (s.vfs.find? fun (v : Vf) => v.tkd = b.2.2).map (·.num)

/-- A flit is ejected at its target: a request goes to the port engine's checks, an answer to what waits for it, a root message to the
root, a withdraw message to its instance; collective data leaves the model here (log 40). -/
def State.eject (s : State) (site : Nat) (f : Flit) : State :=
  let bs := f.payload.take f.bytes
  if f.kind = 11 then (if f.srcRet = 24 then s.pushFront [.rootMessage f.srcRet f.srcNode bs] else s)
  else if f.answers then s.takeAnswer site f
  else if f.kind = 10 then
    match s.boundVf f.srcNode f.vf with
    | some v => s.pushFront [.collWithdrawMsg v (leNat (bs.take 1)) (leNat ((bs.drop 1).take 4))]
    | none => s
  else match flitRequest f with
    | some r => s.pushFront [.remoteRequestArrive site r]
    | none => s.send (.eject site f)

/-- The acknowledgement of a link or a transport for an answer that left: the record of its request notes it (R391, log 80). -/
def State.answered (s : State) (f : Flit) : State :=
  let mine (x : Applied) : Bool := x.req.srcNode == field f.dest 48 16 && x.req.srcRet == field f.dest 42 6 && x.req.tid == f.tid
  if f.answers then
    { s with port := { s.port with applied := s.port.applied.map fun x => if mine x then { x with acked := true } else x } }
  else s

end Sys2Proof.Machine
end

