-- ==== Sys2Proof/Machine/Links.lean ====
section
/-! DEFINITION. The link layer (R386 to R389, R395, R396): numbering, the replay buffer, acknowledgements, keys; and the transport beyond
the pod (R360). -/

namespace Sys2Proof.Machine

/-- The far end of a mesh link. -/
def meshPeer (site port : Nat) : Option (Nat × Nat) :=
  ((meshNeighbours site).find? fun n => n.1 = port).map fun n => (n.2, (port + 2) % 4)

/-- Whether a port is an optical lane group (R350). -/
def isOptical (port : Nat) : Bool := 4 ≤ port

/-- The ends of a link on this wafer: both of a mesh link, one of an optical link. -/
def linkEnds (site port : Nat) : List (Nat × Nat) :=
  (site, port) :: (if isOptical port then [] else (meshPeer site port).toList)

/-! ### Keys (R395, R396) -/

/-- The key of a phase in the outgoing direction, and in the incoming one. -/
def Link.txKey (l : Link) (phase : Bool) : Option (Nat × Nat) := if phase then l.key1 else l.key0

def Link.rxKey (l : Link) (phase : Bool) : Option (Nat × Nat) := if phase then l.rkey1 else l.rkey0

/-- New flits that one key may protect (R396). -/
def keyLimit : Nat := 2 ^ 36

/-- Whether a link may send a new flit by its buffer and its key (R386, R396). -/
def Link.mayTx (l : Link) : Bool :=
  decide (l.replay.length < 512) && (!isOptical l.port || ((l.txKey l.phase).isSome && decide (l.count < keyLimit)))

/-- Whether a link may send a new flit now: it is in service, no replay takes it (R388, R389). -/
def State.mayTx (s : State) (site port : Nat) : Bool :=
  (s.link site port).mayTx && s.portUp site port && decide ((s.link site port).busyTill ≤ s.clock)

/-- The initialisation vector of a flit: direction identifier, then the count under the key (R395). -/
def flitIv (dir count : Nat) : Nat := dir * 2 ^ 64 + count % 2 ^ 64

/-- A flit as a link sends it: on an optical link its payload encrypted under the key of its phase, with the tag (R395). -/
def Link.seal (l : Link) (f : Flit) : Flit :=
  if isOptical l.port then
    match l.txKey l.phase with
    | some k =>
      let f := { f with kp := l.phase }
      { f with payload := Config.gcmSeal k.1 (flitIv k.2 l.count) f.aad f.block, mac := Config.gcmTag k.1 (flitIv k.2 l.count) f.aad f.block }
    | none => f
  else { f with kp := false, mac := 0 }

/-- The places that a received flit may have among those sent under its key (R395): its number tells the one place of a flit of the phase in
use, and of a resend of the phase before it; a flit ahead under the next phase may lie at any place since the change, which it follows. -/
def Link.rxCounts (l : Link) (f : Flit) : List Nat :=
  let d := (f.lseq + 1024 - l.expect) % 1024
  let back := 1024 - d
  if f.kp = l.rphase then
    (if d ≤ 512 then [l.rcount + d] else if back ≤ l.rcount then [l.rcount - back] else [])
  else if d ≤ 512 then List.range (d + 1)
  else if l.rcount < back ∧ back ≤ l.rcount + l.rlast then [l.rlast - (back - l.rcount)] else []

/-- Authenticate a received flit (R383, R395): its payload opened; none for one without a key or whose tag does not verify. -/
def Link.auth (l : Link) (f : Flit) : Option (List Byte) :=
  (l.rxKey f.kp).bind fun k => (l.rxCounts f).findSome? fun n => Config.gcmOpen k.1 (flitIv k.2 n) f.aad f.payload f.mac

/-! ### Sending (R386, R388) -/

/-- Whether sequence number `a` comes before `b` in a window of 512 (R386). -/
def seqBefore (a b : Nat) : Bool := (b + 1024 - a) % 1024 ≤ 512 && a != b

/-- Where a flit goes on a link's wires: on its channel of a mesh link, on the wavelength in service whose turn it is in LSEQ order of an
optical one (R384, R392). -/
def State.wireOf (s : State) (site port : Nat) (f : Flit) : Nat :=
  let ks := s.lanes site port
  if isOptical port then ks.getD (f.lseq % ks.length) 0 else f.ch

/-- Put a flit on a link's wires. -/
def State.wire (s : State) (site port : Nat) (f : Flit) : State := s.send (.flit site port (s.wireOf site port f) f.word)

/-- The old key of an incoming direction goes once the flits of its phase, all of which have been accepted, have been acknowledged
(R396). -/
def Link.forget (l : Link) : Link :=
  if l.rerase then { l with rerase := false, rkey0 := if l.rphase then none else l.rkey0, rkey1 := if l.rphase then l.rkey1 else none } else l

/-- Send a new flit on a link (R386): it is numbered, carries the acknowledgement of the reverse direction, and is kept. -/
def State.sendOn (s : State) (site port : Nat) (f : Flit) : State :=
  let l := s.link site port
  let g : Flit := { f with lseq := l.lseq, lack := l.expect, nak := false }
  let f := l.seal g
  let s := s.modLink site port fun l => { l.forget with
    lseq := (l.lseq + 1) % 1024, replay := l.replay ++ [f], clear := l.clear ++ [g], count := if isOptical port then l.count + 1 else l.count }
  ((s.raw site port 0x300).countRet site 0x200 f.vf 1).wire site port f

/-- Send a flit on an optical link, behind those that wait for room (R352). -/
def State.sendOptical (s : State) (site port : Nat) (f : Flit) : State :=
  if (s.link site port).queue.isEmpty && s.mayTx site port then s.sendOn site port f
  else s.modLink site port fun l => { l with queue := l.queue ++ [f] }

/-- The flits that wait on an optical link leave as far as it may send. -/
def State.drainQueue (s : State) (site port : Nat) : State :=
  (s.link site port).queue.foldl (fun s f =>
    if s.mayTx site port then (s.modLink site port fun l => { l with queue := l.queue.drop 1 }).sendOn site port f else s) s

/-- A link-control flit (R382, R388). -/
def controlFlit (lack : Nat) (nak : Bool) : Flit := { kind := 15, lack, nak }

/-- Acknowledge by a link-control flit where no new flit may leave to carry the LACK (R382, R386, R396). -/
def State.sendAck (s : State) (site port : Nat) : State :=
  let l := s.link site port
  if isOptical port && !l.mayTx then (s.modLink site port Link.forget).wire site port (controlFlit l.expect false) else s

/-- Send a NAK with the number expected (R388). -/
def State.sendNak (s : State) (site port : Nat) : State :=
  let l := s.link site port
  ((s.modLink site port fun l => { l with nakSent := true, owed := false }).raw site port 0x304).wire site port (controlFlit l.expect true)

/-- Cycles of the compute clock in which `n` flits of one channel pass a mesh link: 2.6 GHz against 1.6 (R22, R384). -/
def linkCycles (n : Nat) : Nat := (8 * n + 12) / 13

/-- Resend flits with the bits first sent (R388); on a mesh output they take the port for as long as they need (R385). -/
def State.resend (s : State) (site port : Nat) (fs : List Flit) : State :=
  let n := ((List.range 8).map fun ch => (fs.filter fun f => f.ch = ch).length).foldl max 0
  let s := if fs.isEmpty then s else s.modLink site port fun l => { l with busyTill := s.clock + linkCycles n }
  fs.foldl (fun (s : State) (f : Flit) => ((s.raw site port 0x305).countRet site 0x203 f.vf 1).wire site port f) s

/-! ### Acknowledgements (R386, R396) -/

/-- A rotation of a direction whose two slots are both taken, and the direction without its old key (R396). -/
def Link.mayErase (l : Link) : Bool := l.rotating && (l.txKey l.phase).isSome && (l.txKey (!l.phase)).isSome

def Link.eraseOld (l : Link) : Link :=
  { l with rotating := false, key0 := if l.phase then none else l.key0, key1 := if l.phase then l.key1 else none }

/-- Erase the old key once every flit of the old phase has been acknowledged; the rotation is then complete (R396). -/
def State.eraseOldKey (s : State) (site port : Nat) : State :=
  let l := s.link site port
  if l.mayErase && l.replay.all (fun f => f.kp == l.phase) then (s.modLink site port Link.eraseOld).raw site port 0x30A else s

/-- How many unacknowledged flits come before a number: none where it lies behind the oldest or beyond the next new one (R386). -/
def Link.before (l : Link) (lack : Nat) : Nat :=
  match l.replay with
  | [] => 0
  | f :: _ =>
    let k := (lack + 1024 - f.lseq) % 1024
    if k ≤ l.replay.length then k else 0

/-- A LACK without NAK frees every earlier flit (R386). -/
def State.ackTo (s : State) (site port lack : Nat) : State :=
  let n := (s.link site port).before lack
  let gone := (s.link site port).clear.take n
  let s := s.modLink site port fun l => { l with replay := l.replay.drop n, clear := l.clear.drop n }
  let s := if isOptical port then gone.foldl State.answered s else s
  s.eraseOldKey site port

/-! ### The transport beyond the pod (R360, R396) -/

/-- The pair of a sending reticle and a destination endpoint, as node * 64 + reticle. -/
def State.uet? (s : State) (ret peer : Nat) : Uet := (s.uet.find? fun (u : Uet) => u.ret = ret ∧ u.peer = peer).getD { ret, peer }

def State.modUet (s : State) (ret peer : Nat) (f : Uet → Uet) : State :=
  if s.uet.any fun (u : Uet) => u.ret = ret ∧ u.peer = peer then
    { s with uet := s.uet.map fun (u : Uet) => if u.ret = ret ∧ u.peer = peer then f u else u }
  else { s with uet := s.uet ++ [f { ret, peer }] }

/-- Cycles of 10 microseconds and of a millisecond: the bounds of a retransmission timer (R360). -/
def timerMin : Nat := 16000

def timerMax : Nat := 1600000

/-- The first timer of a packet: four times the smoothed round-trip time, at least 10 microseconds (R360). -/
def Uet.firstTimer (u : Uet) : Nat := max (4 * u.srtt) timerMin

/-- The round-trip time smoothed with a sample, an eighth of it (R360, log 79). -/
def Uet.smooth (u : Uet) (sample : Nat) : Nat := if u.srtt = 0 then sample else (7 * u.srtt + sample) / 8

/-- Whether congestion control lets a pair send one more packet of a class (R360, log 79). -/
def Uet.room (u : Uet) (ix tc : Nat) : Bool :=
  let n := (u.sent.filter fun (p : UetPacket) => !p.unsent && p.flit.tc == tc).length
  n == 0 || decide (n < Config.uetWindow ix)

/-- A packet as its transport forms it: the payload encrypted under the key of the phase as a link's flits are (R396). DESIGN CHOICE (log
71): the packet's number stands for the count in the initialisation vector. -/
def Link.sealPacket (l : Link) (psn : Nat) (f : Flit) : Flit := { l with count := psn }.seal f

/-- Packets of a pair that wait leave, in order, as far as the key and the window of their class last (R360, R396), and count on the
scale-out link (R399, R400). -/
def State.releaseUet (s : State) (ret peer : Nat) : State :=
  let go (u : Uet) (p : UetPacket) : Bool := p.unsent && u.keys.mayTx && u.room s.freeIx p.flit.tc
  let r := (s.uet? ret peer).sent.foldl (fun (a : Uet × List UetPacket) p =>
    if go a.1 p then
      let new : UetPacket := { p with
        flit := a.1.keys.sealPacket p.psn p.flit, unsent := false, kp := a.1.keys.phase, since := s.clock, timer := a.1.firstTimer }
      ({ a.1 with keys := { a.1.keys with count := a.1.keys.count + 1 }, sent := a.1.sent.map fun q => if q.psn = p.psn then new else q },
        a.2 ++ [new])
    else a) (s.uet? ret peer, [])
  if r.2.isEmpty then s
  else
    let s := s.modUet ret peer fun _ => r.1
    r.2.foldl (fun (s : State) p => ((s.raw ret 19 0x300).countRet ret 0x200 p.flit.vf 1).send (.uet ret peer p.psn p.flit.word)) s

/-- A flit leaves for another pod by the endpoint of reticle `ret` (R352, R360): it is formed as the pair's next packet, to the endpoint
of the same reticle there, and kept until it is acknowledged. -/
def State.sendUet (s : State) (ret : Nat) (f : Flit) : State :=
  let peer := field f.dest 48 16 * 64 + ret
  let s := s.modUet ret peer fun u => { u with
    next := u.next + 1, sent := u.sent ++ [{ psn := u.next, flit := f, timer := u.firstTimer, since := s.clock, unsent := true }] }
  s.releaseUet ret peer

/-- The old key of a pair goes once every packet sent under it has been acknowledged (R396). -/
def Uet.eraseOld (u : Uet) : Uet :=
  if u.keys.mayErase && u.sent.all (fun (p : UetPacket) => p.unsent || p.kp == u.keys.phase) then { u with keys := u.keys.eraseOld } else u

end Sys2Proof.Machine
end

