-- ==== Sys2Proof/Machine/Switch.lean ====
section
/-! DEFINITION. The route selector (R352, R353) and the mesh switch (R384, R385): where a flit leaves the wafer, and how the flits of one
cycle share a site's ports. -/

namespace Sys2Proof.Machine

/-! ### Routes (R352, R353) -/

/-- The nearest of the sites in mesh distance from one (R30), `first` before others at the same distance, then the lower. -/
def nearest (site : Nat) (first : Nat → Bool) (xs : List Nat) : Option Nat :=
  xs.foldl (fun (a : Option Nat) x => match a with
    | none => some x
    | some y =>
      if siteDistance site x < siteDistance site y || (siteDistance site x == siteDistance site y && first x && !first y) then some x else a) none

/-- The site at which the route selector of `site` has a packet to reticle `t` of another node leave the wafer (R352): its own lanes,
unless more than 48 flits wait for them and `t` has lanes in service; else the nearest lanes in service to which the mesh leads. -/
def State.planOf (s : State) (site node t : Nat) : Option Nat :=
  match s.node? node with
  | none => none
  | some e =>
    let port := s.exitPort e
    let ok (x : Nat) : Bool := s.optUp x port && (s.meshDist site x).isSome
    if s.optUp site port then
      if e.kind = 1 && 48 < (s.link site port).queue.length && ok t then some t else some site
    else nearest site (fun x => e.kind == 1 && x == t) ((List.range 49).filter ok)

/-- The site of this wafer to which a flit goes from a site: its target here, or where it leaves. -/
def State.exitOf (s : State) (site : Nat) (f : Flit) : Option Nat :=
  let node := field f.dest 48 16
  if s.isHere node then some (field f.dest 42 6)
  else match s.node? node with
    | none => none
    | some e => if f.via.any fun x => s.optUp x (s.exitPort e) then f.via else s.planOf site node (field f.dest 42 6)

/-- Whether the planned next link of a flit is out of service: the lanes by which it is to leave, or the mesh link that its straight path
takes next (R353, R390). -/
def State.plannedOut (s : State) (site : Nat) (f : Flit) : Bool :=
  let out (x port : Nat) : Bool := !s.linkUp x port || (s.link x port).dead
  let lanes := match s.node? (field f.dest 48 16), f.via with
    | some e, some x => !s.isHere (field f.dest 48 16) && out x (s.exitPort e)
    | _, _ => false
  lanes || (match s.exitOf site f with
    | some t => ((meshNeighbours site).find? fun n => siteDistance n.2 t < siteDistance site t).any fun n => out site n.1
    | none => false)

/-- A flit routed afresh from where it stands, under the own version, where its own is another and its planned next link is out of
service; a fenced root makes no version (R353, R390). -/
def State.stamp (s : State) (site : Nat) (f : Flit) : State × Flit :=
  let v := s.port.version.toNat % 256
  let node := field f.dest 48 16
  if (f.ver ≠ v || s.root.fenced) && s.plannedOut site f then
    (s.countRet site 0x204 f.vf 1, { f with ver := v, via := if s.isHere node then none else s.planOf site node (field f.dest 42 6) })
  else (s, f)

/-- A flit that the route selector of a site plans and stamps (R352, R353). -/
def State.planned (s : State) (site : Nat) (f : Flit) : Flit :=
  let node := field f.dest 48 16
  { f with ver := s.port.version.toNat % 256, via := if s.isHere node then none else s.planOf site node (field f.dest 42 6) }

/-! ### Ports of a cycle (R384) -/

/-- The place of a local ejection slot among the ports. -/
def ejectPort : Nat := 4

/-- Ports of a channel taken in this cycle. -/
def State.usedAt (s : State) (site ch port : Nat) : Nat :=
  if (s.switch site).at' = s.clock then ((s.switch site).used.filter fun x => x == (ch, port)).length else 0

/-- Take a port of a channel for this cycle. -/
def State.takePort (s : State) (site ch port : Nat) : State :=
  s.modSwitch site fun x => { x with at' := s.clock, used := (if x.at' = s.clock then x.used else []) ++ [(ch, port)] }

/-- The mesh ports of a site that can take a new flit of a channel, with their neighbours, in port order; `yields` takes in those that a
replay holds, which yield while the reinjection buffer is full (R385). -/
def State.freePorts (s : State) (yields : Bool) (site ch : Nat) : List (Nat × Nat) :=
  (meshNeighbours site).filter fun n =>
    s.switchOn n.2 && s.usedAt site ch n.1 == 0 && (s.mayTx site n.1 || (yields && (s.link site n.1).mayTx && s.portUp site n.1))

/-- Whether a port leads nearer to a site, over links in service (R384). -/
def State.nearer (s : State) (site target : Nat) (n : Nat × Nat) : Bool :=
  match s.meshDist site target, s.meshDist n.2 target with
  | some d, some x => x < d
  | _, _ => false

/-- Send a flit out of a mesh port on its channel; a replay that yields takes its cycle later. -/
def State.sendMesh (s : State) (site port : Nat) (f : Flit) : State :=
  let s := if s.clock < (s.link site port).busyTill then s.modLink site port fun l => { l with busyTill := l.busyTill + 1 } else s
  (s.takePort site f.ch port).sendOn site port f

/-- Deflect a flit out of a mesh port (R384). -/
def State.deflect (s : State) (site port : Nat) (f : Flit) : State :=
  let s := (s.modSwitch site fun x => { x with deflect := x.deflect + 1 }).countRaw site 0x308 0
  (s.countRet site 0x202 f.vf 1).sendMesh site port { f with age := min (f.age + 1) 255 }

/-- A flit at the site where it is to end or to leave. -/
def State.leave (s : State) (site : Nat) (f : Flit) : State :=
  let node := field f.dest 48 16
  if s.isHere node then s.eject site f
  else match s.node? node with
    | none => s.modSwitch site fun x => { x with held := x.held ++ [f] }
    | some e => if e.kind = 1 then s.sendOptical site (s.exitPort e) f else s.sendUet site f

/-- The port engine of a site holds a flit that has no path (R354, R384). -/
def State.hold (s : State) (site : Nat) (f : Flit) : State := s.modSwitch site fun x => { x with held := x.held ++ [f] }

/-- Put a flit into a site's reinjection buffer; a full buffer of 64 takes none (R385). -/
def State.buffer (s : State) (site : Nat) (f : Flit) : Option State :=
  if ((s.switch site).reinject.filter fun x => x.2.ch = f.ch).length < 64 then
    some ((s.modSwitch site fun x => { x with reinject := x.reinject ++ [(s.clock, f)], reinjected := x.reinjected + 1 }).countRaw site 0x309 0)
  else none

/-! ### One flit (R384, R385) -/

/-- The steps of R384 that need a free port: ejection, a productive port, deflection below AGE 255. -/
def State.tryPort (s : State) (yields : Bool) (site t : Nat) (f : Flit) : Option State :=
  let ports := s.freePorts yields site f.ch
  if t = site && s.usedAt site f.ch ejectPort < 2 then some ((s.takePort site f.ch ejectPort).leave site f)
  else match ports.find? (s.nearer site t) with
    | some n => some (s.sendMesh site n.1 f)
    | none => if f.age < 255 then ports.head?.map fun n => s.deflect site n.1 f else none

/-- The switch of a site forwards, ejects, deflects or buffers a flit that has arrived; with the buffer full a replay yields (R384, R385). -/
def State.forward (s : State) (site : Nat) (f : Flit) : State :=
  let r := s.stamp site f
  let s := r.1
  let f := r.2
  match s.exitOf site f with
  | none => s.hold site f
  | some t =>
    if (s.meshDist site t).isNone then s.hold site f
    else match s.tryPort false site t f with
      | some s => s
      | none => match s.buffer site f with
        | some s => s
        | none => match s.tryPort true site t f with
          | some s => s
          | none => match (s.freePorts true site f.ch).head? with
            | some n => s.deflect site n.1 f
            | none => s.hold site f

/-- Whether a flit goes before another at a switch (R384). -/
def flitBefore (a b : Flit) : Bool :=
  if a.age ≠ b.age then b.age < a.age
  else if a.srcNode ≠ b.srcNode then a.srcNode < b.srcNode
  else if a.srcRet ≠ b.srcRet then a.srcRet < b.srcRet
  else a.tid < b.tid

/-- Insert a flit by priority. -/
def insertFlit (fs : List Flit) (f : Flit) : List Flit :=
  match fs with
  | [] => [f]
  | g :: rest => if flitBefore f g then f :: g :: rest else g :: insertFlit rest f

/-- The flits that arrived in earlier cycles are assigned their ports, in order of priority (R384). -/
def State.forwardArrived (s : State) (site : Nat) : State :=
  let old (x : Nat × Flit) : Bool := x.1 < s.clock
  let fs := (((s.switch site).arrived.filter old).map (·.2)).foldl insertFlit []
  if fs.isEmpty then s
  else fs.foldl (fun s f => s.forward site f) (s.modSwitch site fun x => { x with arrived := x.arrived.filter fun y => !old y })

/-! ### Drains and reinjection (R385) -/

/-- Cycles of the compute clock that 256 link cycles take (R385). -/
def drainWait : Nat := 158

/-- Whether a site's buffer holds, for a channel, a flit of AGE 255 that has waited 256 link cycles (R385). -/
def State.waitsLong (s : State) (x : Switch) (ch : Nat) : Bool :=
  x.reinject.any fun e => e.2.ch == ch && e.2.age == 255 && e.1 + drainWait ≤ s.clock

/-- Whether a channel's drain signal stands: it reaches every switch and port engine of the wafer. -/
def State.drained (s : State) (ch : Nat) : Bool := s.switches.any fun x => x.drains.contains ch

/-- Reinject from a site's buffer, in the order of entry: a flit of AGE 255 only on a free productive port. -/
def State.reinjectSite (s : State) (site : Nat) : State :=
  (s.switch site).reinject.foldl (fun s e =>
    match s.exitOf site e.2 with
    | none => s
    | some t => match s.tryPort false site t e.2 with
      | some s => s.modSwitch site fun x => { x with reinject := x.reinject.erase e }
      | none => s) s

/-- The channels on which a port engine may inject, the one after its latest first (R384, R385). -/
def State.channels (s : State) (site : Nat) : List Nat :=
  ((List.range 8).map fun i => ((s.switch site).lastCh + 1 + i) % 8).filter fun ch => !s.drained ch

/-- Inject a flit at a site on the first channel that takes it (R384, R385); one that ends or leaves there needs no channel (R393). -/
def State.inject (s : State) (site : Nat) (f : Flit) : Option State :=
  match s.exitOf site f with
  | none => none
  | some t =>
    if t = site then some (s.leave site f)
    else if (s.meshDist site t).isNone then none
    else (s.channels site).findSome? fun ch =>
      (s.tryPort false site t { f with ch }).map fun s => s.modSwitch site fun x => { x with lastCh := ch }

/-- Reinject what the port engine of a site holds and what has a path now, on its own channel; a flit whose request is over is
discarded (R384). -/
def State.injectHeld (s : State) (site : Nat) : State :=
  (s.switch site).held.foldl (fun s f =>
    let own := f.srcNode == s.port.node && !f.answers && (flitRequest f).isSome
    let past := own && !s.port.reqs.any fun q => q.flying && q.req.srcRet == f.srcRet && q.req.tid == f.tid && (q.client != .none || !s.overdue q)
    let gone (s : State) : State := s.modSwitch site fun x => { x with held := x.held.erase f }
    if past then gone s
    else
      let r := s.stamp site f
      let g := r.2
      match s.exitOf site g with
      | none => s
      | some t =>
        if t = site then (gone r.1).leave site g
        else if (s.meshDist site t).isNone || s.drained f.ch then s
        else match r.1.tryPort false site t g with
          | some s => gone s
          | none => s) s

/-- Inject what came over optical links and what was handed back, in order (R385, R390, R393). -/
def State.injectOptical (s : State) (site : Nat) : State :=
  (s.switch site).optical.foldl (fun s f =>
    let r := s.stamp site f
    match r.1.inject site r.2 with
    | some s => s.modSwitch site fun x => { x with optical := x.optical.erase f }
    | none => s) s

/-- The flits that a link hands back go to its port engine, which routes them afresh (R390). -/
def State.takeBack (s : State) (site : Nat) (fs : List Flit) : State :=
  if fs.isEmpty then s else s.modSwitch site fun x => { x with optical := x.optical ++ fs.map fun f => s.planned site f }

/-- Drain signals that nothing keeps up fall (R385). -/
def State.settleDrains (s : State) : State :=
  if s.switches.any fun (x : Switch) => !x.drains.isEmpty then
    let keep (ch : Nat) : Bool := s.switches.any fun x => s.waitsLong x ch
    { s with switches := s.switches.map fun (x : Switch) => { x with drains := x.drains.filter keep } }
  else s

/-- The switches after an event: what arrived in earlier cycles first, then reinjection, what port engines hold, optical arrivals, and the
queues of the optical links. -/
def State.settleSwitches (s : State) : State :=
  let s := s.switches.foldl (fun (s : State) (x : Switch) => s.forwardArrived x.site) s
  let s := s.switches.foldl (fun (s : State) (x : Switch) =>
    if x.reinject.isEmpty && x.held.isEmpty && x.optical.isEmpty then s
    else ((s.reinjectSite x.site).injectHeld x.site).injectOptical x.site) s
  let s := s.links.foldl (fun (s : State) (l : Link) => if l.queue.isEmpty then s else s.drainQueue l.site l.port) s
  let s := s.uet.foldl (fun (s : State) (u : Uet) => if u.sent.any fun (p : UetPacket) => p.unsent then s.releaseUet u.ret u.peer else s) s
  s.settleDrains

/-- DRAIN_RAISE (R385). -/
def execDrainRaise (site ch : Nat) (s : State) : Out :=
  whenOk s (s.waitsLong (s.switch site) ch && !(s.switch site).drains.contains ch) fun s =>
    s.modSwitch site fun x => { x with drains := x.drains ++ [ch] }

end Sys2Proof.Machine
end

