-- ==== Sys2Proof/Machine/LinkEvents.lean ====
section
/-! DEFINITION. What happens to links (R383, R387 to R400) and to the transport (R360): receipt, retrain and retirement, lasers, probes,
key rotation, selective acknowledgements. -/

namespace Sys2Proof.Machine

/-! ### Retrain and retirement (R389, R390, R394) -/

/-- A link end as it stands with its keys erased and its buffers handed back (R390). -/
def Link.emptied (l : Link) : Link :=
  { l with replay := [], clear := [], queue := [], nakAt := none, discards := 0, resends := 0, owed := false }

/-- Take the flits out of a link end that goes out of service: its port engine routes them afresh (R390). -/
def State.emptyEnd (s : State) (site port : Nat) : State :=
  let l := s.link site port
  (s.modLink site port Link.emptied).takeBack site (l.clear ++ l.queue)

/-- Retire a link at its ends here (R390): keys erased, the link map under a new version, unacknowledged flits routed
afresh. -/
def State.retireLink (s : State) (site port : Nat) : State :=
  let ends := linkEnds site port
  let s := ends.foldl (fun s e => (s.raw e.1 e.2 0x30B).modLink e.1 e.2 fun l => { l with
    retired := true, retraining := false, key0 := none, key1 := none, rkey0 := none, rkey1 := none, rotating := false, rerase := false }) s
  let s := State.bumpRoutes { s with port := { s.port with out := (s.port.out ++ ends.map fun e => linkKey e.1 e.2).eraseDups } }
  ends.foldl (fun s e => s.emptyEnd e.1 e.2) s

/-- A link retrains (R389, R390). An event that would raise the level to 7 retires the link, unless the root is fenced. -/
def State.retrain (s : State) (site port : Nat) : State :=
  let l := s.link site port
  if l.retraining || l.retired || l.dead then s
  else if 6 ≤ l.level ∧ !s.root.fenced then s.retireLink site port
  else
    (linkEnds site port).foldl (fun s e => (s.raw e.1 e.2 0x306).modLink e.1 e.2 fun l => { l with
      retraining := true, level := min (l.level + 1) 6, levelAt := if l.level < 6 then s.clock else l.levelAt, nakAt := none, discards := 0, resends := 0 }) s

/-- A retrain that authentication failures cause is journalled by the root itself (R397, R423). -/
def State.journalAuth (s : State) : State :=
  if s.root.fenced then s else (s.journalAdd { seq := 0, handle := 0, kind := 0x80, state := 2, origin := 2 }).1

/-- A NAK: every unacknowledged flit from LACK onward is resent; a fourth NAK for one flit retrains the link (R388, R389). -/
def State.takeNak (s : State) (site port lack : Nat) : State :=
  let l := s.link site port
  if l.retraining || l.retired || l.dead then s
  else
    let n := if l.nakAt = some lack then l.resends else 0
    if 3 ≤ n then s.retrain site port
    else
      let fs := l.replay.drop (l.before lack)
      (s.modLink site port fun l => { l with nakAt := some lack, resends := n + 1 }).resend site port fs

/-- NAK_RECEIVE (R388). -/
def execNakReceive (site port lack : Nat) (s : State) : Out :=
  whenOk s (s.portUp site port) fun s => s.takeNak site port lack

/-! ### FLIT_RECEIVE (R382, R383, R385 to R388, R393, R395, R396) -/

/-- A discarded corrupted flit (R383, R387 to R389, R397): one NAK for each expected number, and again for each discarded
resend of that number, which is one that comes after the NAK; the third discarded resend retrains the link. -/
def State.discard (s : State) (site port : Nat) (f : Flit) (auth : Bool) : State :=
  let s := s.raw site port (if auth then 0x303 else 0x302)
  let l := s.link site port
  let mine := f.lseq == l.expect && f.kind != 15
  let again := mine && l.nakSent
  let s := if again then s.modLink site port fun l => { l with discards := l.discards + 1 } else s
  if again && 2 ≤ l.discards then
    let s := s.retrain site port
    if auth && (s.link site port).retraining then s.journalAuth else s
  else if mine || !l.nakSent then s.sendNak site port
  else s

/-- The site by which a flit on a mesh link is to leave the wafer: its sender here knows (R353). -/
def State.viaOf (s : State) (site port : Nat) (f : Flit) : Option Nat :=
  (meshPeer site port).bind fun e => ((s.link e.1 e.2).clear.find? fun g => g.lseq = f.lseq).bind (·.via)

/-- Offer a flit to a site's switch: what a mesh link brings is forwarded with its cycle's flits; what an optical link or a transport brings
is a local injection, ejected at once at its target (R384, R393). -/
def State.offer (s : State) (site : Nat) (mesh : Bool) (f : Flit) : State :=
  if f.kind = 11 && f.srcRet != 24 then s
  else if mesh then s.modSwitch site fun x => { x with arrived := x.arrived ++ [(s.clock, f)] }
  else if s.isHere (field f.dest 48 16) && field f.dest 42 6 == site then s.eject site f
  else s.modSwitch site fun x => { x with optical := x.optical ++ [f] }

/-- Whether a site's port engine can take what comes over its optical lanes: its input queue holds 256 flits (R385). -/
def State.optRoom (s : State) (site : Nat) : Bool := decide ((s.switch site).optical.length < 256)

/-- Accept a flit in sequence (R387); the first under a new key begins its count, and the old key is held until what came under it has been
acknowledged (R396). -/
def State.accept (s : State) (site port : Nat) (f : Flit) : State :=
  let opt := isOptical port
  let s := s.modLink site port fun l => { l with
    expect := (l.expect + 1) % 1024, nakSent := false, discards := 0, rphase := if opt then f.kp else l.rphase
    rcount := if opt then (if f.kp = l.rphase then l.rcount + 1 else 1) else l.rcount
    rlast := if opt && f.kp != l.rphase then l.rcount else l.rlast
    rerase := (opt && f.kp != l.rphase) || l.rerase }
  (((s.raw site port 0x301).countRet site 0x201 f.vf 1).sendAck site port).offer site (!opt) f

/-- Whether a port accepts flits: an optical one only while its port engine's queue has room (R385). -/
def State.accepts (s : State) (site port : Nat) : Bool := !isOptical port || s.optRoom site

/-- A flit that comes while a port accepts none is discarded uncounted, and a NAK is owed (R385). -/
def State.turnAway (s : State) (site port : Nat) : State := s.modLink site port fun l => { l with owed := true }

/-- A flit that is not corrupted: its LACK counts; one for which the input queue has no room is discarded without a NAK until there is
room, and one out of sequence is discarded (R385 to R388). -/
def State.receive (s : State) (site port : Nat) (f : Flit) : State :=
  let l := s.link site port
  let s := if f.nak then s.takeNak site port f.lack else s.ackTo site port f.lack
  if f.kind = 15 then s
  else if !s.accepts site port then s.turnAway site port
  else if f.lseq ≠ l.expect then (if l.nakSent || l.owed then s else s.sendNak site port)
  else s.accept site port f

/-- FLIT_RECEIVE: the 96 bytes `bits` arrive on a channel of a port (R382, R383). -/
def execFlitReceive (site port ch : Nat) (bits : BitVec 768) (s : State) : Out :=
  .next (
    let l := s.link site port
    let f := flitOf (ch % 8) bits
    if !s.portUp site port || !s.switchOn site then s
    else if flitBad bits then (if s.accepts site port then s.discard site port f false else s.turnAway site port)
    else if !isOptical port then s.receive site port { f with via := s.viaOf site port f }
    else if f.kind = 15 then s.receive site port f
    else match l.auth f with
      | none => if s.accepts site port then s.discard site port f true else s.turnAway site port
      | some bs => s.receive site port { f with payload := bs, mac := 0 })

/-- The NAKs owed for want of room leave once there is room (R385). -/
def State.settleOwed (s : State) : State :=
  s.links.foldl (fun (s : State) (l : Link) => if l.owed && s.optRoom l.site && s.portUp l.site l.port then s.sendNak l.site l.port else s) s

/-- The fibres of an optical link, as the keys of their probes in both directions (R398). -/
def fibresOf (site port : Nat) : List Nat :=
  if isOptical port then ((List.range 4).flatMap fun k =>
    let x := site * 16 + siteFibre site (port - 4) k / 8 * 2
    [x, x + 1]).eraseDups
  else []

/-- A link is back in service, each direction resends from the oldest, and the fibres of an optical link are due for a probe (R389, R398). -/
def State.endRetrain (s : State) (site port : Nat) : State :=
  let s := (linkEnds site port).foldl (fun s e =>
    let s := s.modLink e.1 e.2 fun l => { l with retraining := false, nakSent := false }
    s.resend e.1 e.2 (s.link e.1 e.2).replay) s
  { s with port := { s.port with probeDue := (s.port.probeDue ++ fibresOf site port).eraseDups } }

/-- RETRAIN_COMPLETE (R389): the link is back in service. For an optical link that was not retraining at this end it tells of a retrain
that the far end began: both directions left service together, so the link retrains here too, or retires (R390; log 58). -/
def execRetrainComplete (site port : Nat) (s : State) : Out :=
  .next (
    if (s.link site port).retraining then s.endRetrain site port
    else if isOptical port && s.optUp site port then
      let s := s.retrain site port
      if (s.link site port).retraining then s.endRetrain site port else s
    else s)

/-- Cycles of 15 minutes (R390). -/
def decayCycles : Nat := 1440000000000

/-- RETRAIN_DECAY (R390): the level falls by 1 after 15 minutes without a change. -/
def execRetrainDecay (site port : Nat) (s : State) : Out :=
  let l := s.link site port
  whenOk s (0 < l.level && l.levelAt + decayCycles ≤ s.clock) fun s =>
    (linkEnds site port).foldl (fun s e => s.modLink e.1 e.2 fun l => { l with level := l.level - 1, levelAt := s.clock }) s

/-! ### Lasers and probes (R394, R398) -/

/-- Wavelengths of a lane group of a site on a fibre, by the identity block's table (R392, R409). -/
def groupOnFibre (site g fibre : Nat) : Nat := ([0, 1, 2, 3].filter fun k => siteFibre site g k / 8 = fibre).length

/-- A link narrows by a failed laser (R394): one retrain; with no wavelength left it is retired whatever its level, or goes out
of service at its own end while the root is fenced (R390). -/
def State.narrow (s : State) (site g n : Nat) : State :=
  let port := optPort g
  let l := s.link site port
  if n = 0 then s
  else if l.retired then s.modLink site port fun l => { l with lost := l.lost + n }
  else
    let s := (s.raw site port 0x307).modLink site port fun l => { l with lost := l.lost + n }
    if 4 ≤ l.lost + n then
      if s.root.fenced then (s.modLink site port fun l => { l with dead := true }).emptyEnd site port
      else s.retireLink site port
    else (s.modLink site port fun l => { l with retraining := false }).retrain site port

/-- LASER_FAILURE (R394): every link with a wavelength on the fibre narrows. -/
def execLaserFailure (site fibre : Nat) (s : State) : Out :=
  whenOk s (s.live site && fibre < 8 && !s.port.lasers.contains (site * 8 + fibre)) fun s =>
    let s := { s with port := { s.port with lasers := s.port.lasers ++ [site * 8 + fibre] } }
    (List.range 16).foldl (fun s g => s.narrow site g (groupOnFibre site g fibre)) s

/-- Cycles of a second (R22). -/
def secondCycles : Nat := 1600000000

/-- A probe's result (R398). `dist` in 0.1 m, `loss` in 0.1 dB; an event beyond 2 km reports no event. -/
def probeResult (fibre : Nat) (dir : Bool) (event dist loss time : Nat) : Dword :=
  let event := if 20000 < dist then 0 else event
  let dist := if event = 0 ∨ event = 3 then 0 else dist
  let loss := if event = 0 ∨ event = 3 then 0 else min loss 255
  BitVec.ofNat 64 (fibre % 8 + (if dir then 8 else 0) + event % 4 * 2 ^ 4 + dist % 2 ^ 15 * 2 ^ 6 + loss * 2 ^ 21 + time % 2 ^ 32 * 2 ^ 32)

/-- REFLECTOMETRY_PROBE (R398). -/
def execReflectometryProbe (site fibre : Nat) (dir : Bool) (event dist loss : Nat) (s : State) : Out :=
  whenOk s (s.live site && fibre < 8) fun s =>
    let x := probeResult fibre dir event dist loss (s.clock / secondCycles)
    let key := site * 16 + fibre * 2 + (if dir then 1 else 0)
    State.send { s with port := { s.port with probes := tput 0 s.port.probes key x, probeDue := s.port.probeDue.erase key } }
      (.probe site fibre x)

/-- Whether a fibre is due for a probe: a second has begun since its latest, or a link that uses it has retrained (R398). -/
def State.probeIsDue (s : State) (key : Nat) : Bool :=
  s.live (key / 16) && (s.port.probeDue.contains key || field (tget 0 s.port.probes key) 32 32 < s.clock / secondCycles)

/-- The probes that are due. What a probe finds is free (log 9). -/
def State.probes (s : State) : List Instr :=
  if s.port.probeDue.isEmpty && s.clock < secondCycles then []
  else ((List.range (49 * 16)).filter s.probeIsDue).map fun key =>
    .reflectometryProbe (key / 16) (key / 2 % 8) (key % 2 == 1) (Config.freeNat s.freeIx % 4) (Config.freeNat (s.freeIx + 1))
      (Config.freeNat (s.freeIx + 2))

/-! ### Key rotation (R396) -/

/-- Where the keys of a direction stand: ports 0 to 19 are links; port 20 + p names the scale-out direction to the destination
endpoint p, for which the rules of a link direction apply (R396). -/
def State.keyHolder (s : State) (site port : Nat) : Link :=
  if port < 20 then s.link site port else (s.uet? site (port - 20)).keys

def State.modKeys (s : State) (site port : Nat) (f : Link → Link) : State :=
  if port < 20 then s.modLink site port f else s.modUet site (port - 20) fun u => { u with keys := f u.keys }

/-- A rotation is asked for; the key is installed once the link is in service. -/
def State.askRotation (s : State) (site port : Nat) : State := s.modKeys site port fun l => { l with rotating := true }

/-- Whether a rotation of a direction may begin: none is in progress, and the idle slot is empty. -/
def Link.mayRotate (l : Link) : Bool :=
  isOptical l.port && !l.rotating && !l.retired && (l.txKey l.phase).isSome && (l.txKey (!l.phase)).isNone

/-- KEY_ROTATION_REQUEST: after 2^34 flits under a key (R396). -/
def execKeyRotationRequest (site port : Nat) (s : State) : Out :=
  whenOk s ((s.keyHolder site port).mayRotate && !s.root.fenced && 2 ^ 34 ≤ (s.keyHolder site port).count) fun s => s.askRotation site port

/-- FLIT_COUNT_LIMIT: at 2^36 flits under a key no new flit is sent until the rotation (R396). -/
def execFlitCountLimit (site port : Nat) (s : State) : Out :=
  whenOk s ((s.keyHolder site port).mayRotate && !s.root.fenced && keyLimit ≤ (s.keyHolder site port).count) fun s => s.askRotation site port

/-- A fresh key for an outgoing direction: the first goes to the phase in use; else to the idle slot, and the phase changes
between two new flits (R396). -/
def Link.installTx (l : Link) (k : Nat × Nat) : Link :=
  if (l.txKey l.phase).isNone then { l with key0 := if l.phase then l.key0 else some k, key1 := if l.phase then some k else l.key1, count := 0 }
  else if (l.txKey (!l.phase)).isSome then l
  else { l with key0 := if l.phase then some k else l.key0, key1 := if l.phase then l.key1 else some k
                phase := !l.phase, count := 0, rotating := true }

/-- A fresh key for an incoming direction: the first goes to the slot of the phase in use and begins its count, a later one to the idle
slot; the next waits for the erasure of the old one (R396). -/
def Link.installRx (l : Link) (k : Nat × Nat) : Link :=
  let put (p : Bool) (l : Link) : Link := { l with rkey0 := if p then l.rkey0 else some k, rkey1 := if p then some k else l.rkey1 }
  if (l.rxKey l.rphase).isNone then { put l.rphase l with rcount := 0 }
  else if (l.rxKey (!l.rphase)).isNone then put (!l.rphase) l
  else l

/-- Whether the root may install a key for a direction: it is not fenced, and the direction is in service (R396). -/
def State.mayInstall (s : State) (site port : Nat) : Bool :=
  let l := s.link site port
  !s.root.fenced && (if port < 20 then isOptical port && !l.retired && !l.retraining && s.linkUp site port else s.optUp site (optPort 15))

/-- KEY_INSTALL (R395, R396): the root writes a fresh key and direction identifier into the idle slot of a direction. -/
def execKeyInstall (site port : Nat) (incoming : Bool) (s : State) : Out :=
  whenOk s (s.mayInstall site port) fun s =>
    let k := (s.root.keyCount + 1, s.root.keyCount + 1)
    let s := { s with root := { s.root with keyCount := s.root.keyCount + 1 } }
    if port < 20 then
      if incoming then s.modLink site port fun l => l.installRx k
      else (s.modLink site port fun l => l.installTx k).eraseOldKey site port
    else if incoming then s.modKeys site port fun l => l.installRx k
    else ((s.modKeys site port fun l => l.installTx k).modUet site (port - 20) Uet.eraseOld).releaseUet site (port - 20)

/-! ### Ultra Ethernet (R360) -/

/-- The payload of a received packet, opened under the key of its phase; none for one without a key or whose tag does not verify (R396,
log 71). -/
def Link.openPacket (l : Link) (psn : Nat) (f : Flit) : Option (List Byte) :=
  (l.rxKey f.kp).bind fun k => Config.gcmOpen k.1 (flitIv k.2 psn) f.aad f.payload f.mac

/-- A pair has taken a packet: the phase follows it, and the old key goes once every packet before the new phase has been taken, which the
selective acknowledgement then reports (R360, R396). -/
def Uet.take (u : Uet) (psn : Nat) (kp : Bool) : Uet :=
  let got := if u.got.contains psn then u.got else u.got ++ [psn]
  let l := u.keys
  let l := if kp != l.rphase && !l.rerase then { l with rphase := kp, rcount := psn, rerase := true }
    else if kp = l.rphase then { l with rcount := min l.rcount psn } else l
  { u with got, keys := if l.rerase && (List.range l.rcount).all got.contains then l.forget else l }

/-- UET_PACKET_RECEIVE: a packet of a pair arrives; one that does not verify is discarded and counted (R396, R399). Another is applied at
most once, and the acknowledgement reports the gap before it; the endpoint offers it to its switch (R241, R352, R360). With no room in
its input queue it is not taken, and comes again. -/
def execUetPacketReceive (ret peer psn : Nat) (f : Flit) (s : State) : Out :=
  whenOk s (s.optUp ret (optPort 15) && s.optRoom ret) fun s =>
    let u := s.uet? ret peer
    match u.keys.openPacket psn f with
    | none => s.raw ret 19 0x303
    | some bs =>
      let missing := (List.range psn).filter fun n => !u.got.contains n
      let s := (s.modUet ret peer fun u => u.take psn f.kp).send (.sack ret peer psn missing)
      if u.got.contains psn then s
      else ((s.raw ret 19 0x301).countRet ret 0x201 f.vf 1).offer ret false { f with payload := bs, mac := 0, via := none }

/-- UET_SACK_RECEIVE: every packet up to `acked` that is not reported missing is acknowledged; each missing one is sent again
at once (R360). -/
def execUetSackReceive (ret peer acked : Nat) (missing : List Nat) (s : State) : Out :=
  .next (
    let u := s.uet? ret peer
    let done (p : UetPacket) : Bool := !p.unsent && p.psn ≤ acked && !missing.contains p.psn
    let srtt := match u.sent.find? fun p => p.psn = acked ∧ p.unsent = false with
      | some p => u.smooth (s.clock - p.since)
      | none => u.srtt
    let s := s.modUet ret peer fun u => Uet.eraseOld { u with sent := u.sent.filter (fun p => !done p), srtt := srtt }
    let s := (u.sent.filter done).foldl (fun (s : State) (p : UetPacket) => s.answered p.flit) s
    (u.sent.filter fun (p : UetPacket) => !p.unsent && missing.contains p.psn).foldl (fun (s : State) (p : UetPacket) => s.send (.uet ret peer p.psn p.flit.word)) s)

/-- UET_RETRANSMIT_TIMER: a packet without acknowledgement is sent again; its timer doubles, up to 1 ms (R360). -/
def execUetRetransmitTimer (ret peer psn : Nat) (s : State) : Out :=
  .next (
    let due (p : UetPacket) : Bool := !p.unsent && p.psn == psn && p.since + p.timer ≤ s.clock
    let again (p : UetPacket) : UetPacket := if due p then { p with timer := min (2 * p.timer) timerMax, since := s.clock } else p
    match (s.uet? ret peer).sent.find? due with
    | some p => (s.modUet ret peer fun u => { u with sent := u.sent.map again }).send (.uet ret peer psn p.flit.word)
    | none => s)

end Sys2Proof.Machine
end

