-- ==== Sys2Proof/Machine/PortEngine.lean ====
section
/-! DEFINITION. The port engines between events (R208, R354, R384, R391): which parts of accesses they are handed, what they hold without
a path, and what they inject. -/

namespace Sys2Proof.Machine

/-! ### Accesses of lanes (R208, R211, R212, R232) -/

/-- The scope of an access (R51). -/
def Body.scope (b : Body) : Nat :=
  match b with
  | .load _ _ x => x.scope.toNat
  | .store _ x => x.scope.toNat
  | .atom _ _ x => x.scope.toNat
  | _ => 0

/-- Whether an operation may leave its store queue: a store only at the head (R212, R231). -/
def Coach.headed (c : Coach) (o : Op) : Bool := !o.isStore || c.queueHead.any fun h => h.seq == o.seq

/-- The parts of accesses to other wafers that the port engine takes now: in order, behind no lower lane, and with no value of their own
queue. -/
def State.lanesToAsk (s : State) : List (Task × Coach × Op × LaneOp) :=
  (s.tasks.filter fun t => t.phase == .running).flatMap fun t => t.coaches.flatMap fun c =>
    (c.ops.filter fun o => !o.done && o.isAccess && c.headed o).flatMap fun o =>
      (o.lanes.filter fun x => x.loc.isAway && !x.asked && c.inOrder o x && !o.behindLane 0 x && (c.ownValue o x).isNone).map fun x =>
        (t, c, o, x)

/-- Hand one part to the port engine; a release takes its L1 action first (R220, R232). -/
def State.askLane (s : State) (t : Task) (c : Coach) (o : Op) (x : LaneOp) : State :=
  let s := if o.releases then s.releaseAt t o.body.scope else s
  let s := s.request (.lane t.uid c.num o.seq x.lane) t.ret t.vf (s.memTC t.vf) x.va x.loc (o.body.request x)
  s.modCoach t.uid c.num fun co => co.setOp o.seq fun p =>
    { p with lanes := p.lanes.map fun y => if y.lane = x.lane then { y with asked := true } else y }

def State.askLanes (s : State) : State := s.lanesToAsk.foldl (fun s x => s.askLane x.1 x.2.1 x.2.2.1 x.2.2.2) s

/-! ### What is held without a path on the own wafer (R352, R354) -/

/-- What a port engine holds for want of a path on the own wafer: the client, the address that a record names, the class, the place. -/
structure HeldAt where
  client : Client
  va : Dword
  tc : Nat
  loc : Loc
deriving DecidableEq, Repr

/-- The first place of this wafer in a list that has no path. -/
def State.cutOff (s : State) (t : Task) (ls : List (Loc × Nat)) : Option Loc :=
  (ls.find? fun l => !l.1.isAway && !s.pathOk t.ret l.1).map (·.1)

/-- What one operation has at the port engine without a path. -/
def State.heldOf (s : State) (t : Task) (c : Coach) (o : Op) : List HeldAt :=
  let tc := s.memTC t.vf
  match o.body with
  | .post _ tc ps => ps.flatMap fun p => if p.accepted then
      (p.packets.filter fun x => !x.loc.isAway && !s.pathOk t.ret x.loc).map fun x =>
        { client := x.client t.uid c.num o.seq p.lane, va := p.dst, tc, loc := x.loc }
      else []
  | .mst _ w _ ps => ps.filterMap fun p =>
      if p.done || !s.partReady t c o p then none
      else (p.rows.filter fun x => !p.gone.contains x.1).findSome? fun x => (s.cutOff t (s.rowLocs t w x.2.1)).map fun l =>
        { client := .part t.uid c.num o.seq p.octet, va := x.2.1, tc, loc := l }
  | .coll _ tc ps => ps.filterMap fun p =>
      let ready : Bool := (c.older o).all fun q => !(q.isAccess || q.isFence)
      if p.done then none
      else if p.result.isSome then
        (s.cutOff t (s.spanLocs t .write p.dst.toNat p.dstLen)).map fun l => { client := .result t.uid c.num o.seq p.lane, va := p.dst, tc, loc := l }
      else if !p.told && ready then
        (s.cutOff t (s.spanLocs t .read p.src.toNat p.srcLen)).map fun l => { client := .source t.uid c.num o.seq p.lane, va := p.src, tc, loc := l }
      else none
  | _ =>
    if o.isAccess && c.headed o then
      (o.lanes.filter fun x => !x.loc.isAway && c.inOrder o x && !s.pathOk t.ret x.loc).map fun x =>
        { client := .lane t.uid c.num o.seq x.lane, va := x.va, tc, loc := x.loc }
    else []

/-- What the copies of a coach have there. -/
def State.heldCopies (s : State) (t : Task) (c : Coach) : List HeldAt :=
  c.copies.filterMap fun x =>
    if s.chunkFree t c x.1 x.2.1 x.2.2 then
      (s.cutOff t (s.chunkLocs t x.2.2 x.2.2.next)).map fun l =>
        { client := .chunk t.uid c.num x.1 x.2.1, va := BitVec.ofNat 64 (((x.2.2.kind.chunkSpans x.2.2.next).head?.map (·.1)).getD 0)
          tc := s.memTC t.vf, loc := l }
    else none

/-- Everything that port engines hold without a path on this wafer. -/
def State.heldHere (s : State) : List (Task × HeldAt) :=
  (s.tasks.filter fun t => t.phase == .running).flatMap fun t => t.coaches.flatMap fun c =>
    ((c.ops.filter fun o => !o.done).flatMap (s.heldOf t c) ++ s.heldCopies t c).map fun h => (t, h)

/-- A request that stands for a place on the own wafer. -/
def PortReq.near (q : PortReq) : Bool := field q.req.dest 48 16 == 0xFFFF

/-- What is held without a path has an entry since it is held; with a path again the entry goes (R354). -/
def State.settleHeld (s : State) : State :=
  let now := s.heldHere
  let reqs := s.port.reqs.filter fun q => !q.near || now.any fun h => h.2.client == q.client
  let new := now.filter fun h => !reqs.any fun q => q.near && q.client == h.2.client
  let s := { s with port := { s.port with reqs } }
  new.foldl (fun s h => s.request h.2.client h.1.ret h.1.vf h.2.tc h.2.va h.2.loc (.read 0 0)) s

/-! ### Requests that nothing waits for (R381, R391) -/

/-- Requests whose client is gone: those not sent are discarded; of those sent only the TID stays. A request for nobody that found no
path for the class timeout is discarded too (R354, R381). -/
def State.settleGone (s : State) : State :=
  let gone := ((s.port.reqs.map (·.client)).eraseDups).filter fun cl => !s.waits cl
  let s := gone.foldl (fun s cl => s.dropReqs cl) s
  { s with port := { s.port with reqs := s.port.reqs.filter fun q => !(q.client == .none && !q.sent && s.overdue q) } }

/-! ### Members out of reach (R377) -/

/-- Note since when a member of a participation's group has been out of reach. -/
def State.settleLost (s : State) : State :=
  let mark (ret : Nat) (p : Particip) : Particip :=
    { p with lostAt := if s.memberLost ret p then some (p.lostAt.getD s.clock) else none }
  if s.tasks.any fun t => !(t.particips fun p => !p.done).isEmpty then
    { s with tasks := s.tasks.map fun t => { t with coaches := t.coaches.map fun c => c.modParticips (fun p => !p.done) (mark t.ret) } }
  else s

/-! ### Injection (R352, R384, R391) -/

/-- A TID of a reticle that no request without an acknowledgement holds (R391). -/
def State.freeTid (s : State) (ret : Nat) : Option Nat :=
  (List.range 1024).find? fun n => !s.port.reqs.any fun q => q.flying && q.req.srcRet == ret && q.req.tid == n

/-- Answers and root messages leave as far as they find a path and a port; those of a fenced reticle are lost. -/
def State.injectOutgoing (s : State) : State :=
  let r := s.port.outgoing.foldl (fun (a : State × List (Nat × Flit)) x =>
    if (a.1.ret x.1).fenced then a
    else match a.1.inject x.1 (a.1.planned x.1 x.2) with
      | some s => (s, a.2)
      | none => (a.1, a.2 ++ [x])) (s, [])
  if s.port.outgoing.isEmpty then s else { r.1 with port := { r.1.port with outgoing := r.2 } }

/-- The bytes that a request touches at its home: those from its address, and for LDAXIS its rows (R222). -/
def reqSpans (r : RemoteReq) : List (Nat × Nat) :=
  let a := r.dest.toNat
  match r.kind with
  | .read n _ => [(a, n)]
  | .colRead n _ => [(a, n)]
  | .axis pc w => (List.range 4).map fun k => (a + k * pitchOf pc, w)
  | .write _ bs => [(a, bs.length)]
  | .colWrite _ bs => [(a, bs.length)]
  | .nibble _ _ => [(a, 1)]
  | .atomic _ n _ _ _ => [(a, n)]
  | .post _ bs => [(a, bs.length)]
  | .signal _ => [(a, 8)]
  | _ => []

/-- Whether two requests share a byte. -/
def reqsMeet (a b : RemoteReq) : Bool := (reqSpans a).any fun x => (reqSpans b).any fun y => x.1 < y.1 + y.2 && y.1 < x.1 + x.2

/-- Requests of one coach to overlapping bytes of a home are applied in issue order: one waits until those before it in the list have
been acknowledged (R241). Of one whose client is gone the task is still known, and the task's others wait for it. -/
def State.behindReq (s : State) (i : Nat) (q : PortReq) : Bool :=
  (s.port.reqs.take i).any fun p => p.answer.isNone && p.owner.isSome && p.owner == q.owner &&
    (p.client == .none || q.client == .none || p.client.coach? == q.client.coach?) && reqsMeet p.req q.req

/-- Send request `i` of the list, if it has yet to leave and finds a path, a port and a TID. -/
def State.injectReq (s : State) (i : Nat) : State :=
  match s.port.reqs[i]? with
  | none => s
  | some q =>
    if q.sent || q.near || s.behindReq i q then s
    else match s.freeTid q.req.srcRet with
      | none => s
      | some n =>
        let r : RemoteReq := { q.req with tid := n }
        match s.inject r.srcRet (s.planned r.srcRet r.flit) with
        | none => s
        | some s => { s with port := { s.port with reqs := s.port.reqs.modify i fun q => { q with sent := true, req := r } } }

/-- The port engines after an event or a bundle. -/
def State.settlePort (s : State) : State :=
  if s.issue.isSome then s
  else
    let s := s.askLanes.settleGone.settleHeld.settleLost.injectOutgoing
    (List.range s.port.reqs.length).foldl (fun s i => s.injectReq i) s

end Sys2Proof.Machine
end

