-- ==== Sys2Proof/Machine/Mailbox.lean ====
section
/-! DEFINITION. Mailboxes (R410 to R412), the reading, journalling and ending of commands (R413 to R415, R417), and the writes
to the register block. -/

namespace Sys2Proof.Machine

/-! ### Registers (R412) -/

/-- The mailbox of a function; `none` is the physical function. -/
def State.mailbox? (s : State) (fn : Option Nat) : Option Mailbox :=
  match fn with
  | none => some s.root.mailbox
  | some v => (s.vf? v).map fun (v : Vf) => v.mailbox

def State.modMailbox (s : State) (fn : Option Nat) (f : Mailbox → Mailbox) : State :=
  match fn with
  | none => { s with root := { s.root with mailbox := f s.root.mailbox } }
  | some v => s.modVf v fun v => { v with mailbox := f v.mailbox }

def Mailbox.en (m : Mailbox) : Bool := m.mbctl.getLsbD 0

/-- Entries of the submission and the completion ring. -/
def Mailbox.sqn (m : Mailbox) : Nat := 2 ^ field m.mbctl 4 4
def Mailbox.cqn (m : Mailbox) : Nat := 2 ^ field m.mbctl 8 4

/-- What a 32-bit read of the register block returns (R412). -/
def State.mailboxRead (s : State) (fn : Option Nat) (off : Nat) : Word :=
  match s.mailbox? fn with
  | none => 0
  | some m =>
    match off with
    | 0x00 => m.mbctl
    | 0x04 => BitVec.ofNat 32 ((if m.ready then 1 else 0) + (if m.cfgerr then 2 else 0) + (if s.root.fenced then 4 else 0))
    | 0x08 => m.sqbase.extractLsb' 0 32
    | 0x0C => m.sqbase.extractLsb' 32 32
    | 0x10 => m.cqbase.extractLsb' 0 32
    | 0x14 => m.cqbase.extractLsb' 32 32
    | 0x18 => BitVec.ofNat 32 m.sqtail
    | 0x1C => BitVec.ofNat 32 m.sqhead
    | 0x20 => BitVec.ofNat 32 m.cqhead
    | 0x24 => BitVec.ofNat 32 m.cqtail
    | _ => 0

/-- A write to MBCTL. While EN stands, SQK and CQK do not change; EN rising starts the rings, EN falling ends the service. -/
def Mailbox.control (m : Mailbox) (x : Word) : Mailbox :=
  let x := x &&& 0x0001FFF1#32
  if m.en then
    let x := (x &&& ~~~0x00000FF0#32) ||| (m.mbctl &&& 0x00000FF0#32)
    if x.getLsbD 0 then { m with mbctl := x } else { m with mbctl := x, ready := false, cfgerr := false }
  else if x.getLsbD 0 then
    let ok (k : Nat) : Bool := 4 ≤ k && k ≤ 12
    if ok (field x 4 4) && ok (field x 8 4) then
      { m with mbctl := x, ready := true, cfgerr := false, sqhead := 0, cqtail := 0, sqtail := 0, cqhead := 0, phase := true }
    else { m with mbctl := x, ready := false, cfgerr := true }
  else { m with mbctl := x }

/-- MBCTL_WRITE (R412). -/
def execMbctlWrite (fn : Option Nat) (val : Word) (s : State) : Out := .next (s.modMailbox fn fun m => m.control val)

/-- SQTAIL_DOORBELL (R412): taken modulo the ring's size. -/
def execSqtailDoorbell (fn : Option Nat) (val : Word) (s : State) : Out :=
  .next (s.modMailbox fn fun m => { m with sqtail := val.toNat % m.sqn })

/-- CQHEAD_DOORBELL (R412). -/
def execCqheadDoorbell (fn : Option Nat) (val : Word) (s : State) : Out :=
  .next (s.modMailbox fn fun m => { m with cqhead := val.toNat % m.cqn })

/-- Replace the low or the high half of a register pair. -/
def setLow (x : Dword) (w : Word) : Dword := x.extractLsb' 32 32 ++ w
def setHigh (x : Dword) (w : Word) : Dword := w ++ x.extractLsb' 0 32

/-- A write to the registers without behaviour of their own: the ring bases, ignored while EN stands. -/
def Mailbox.store (m : Mailbox) (off : Nat) (x : Word) : Mailbox :=
  if m.en then m
  else
    match off with
    | 0x08 => { m with sqbase := setLow m.sqbase (x &&& ~~~0x3F#32) }
    | 0x0C => { m with sqbase := setHigh m.sqbase x }
    | 0x10 => { m with cqbase := setLow m.cqbase (x &&& ~~~0x1F#32) }
    | 0x14 => { m with cqbase := setHigh m.cqbase x }
    | _ => m

/-- REGISTER_WRITE (R18, R412): read-only and reserved registers ignore it. -/
def execRegisterWrite (fn : Option Nat) (off : Nat) (val : Word) (s : State) : Out :=
  .next (s.modMailbox fn fun m => m.store off val)

/-! ### Completion entries (R411, R412) -/

/-- A 32-byte completion entry. -/
def completionBytes (ctag : Dword) (seq : Nat) (result : Word) (code state : Nat) (phase : Bool) : List Byte :=
  leBytes 32 (ctag.toNat + seq % 2 ^ 64 * 2 ^ 64 + result.toNat * 2 ^ 128 + code % 256 * 2 ^ 160 + state % 8 * 2 ^ 168 +
    (if phase then 2 ^ 171 else 0))

/-- Write a completion entry and signal the function's vector. Nothing is written once EN has been cleared. -/
def State.complete (s : State) (fn : Option Nat) (ctag : Dword) (seq : Nat) (result : Word) (code state : Nat) : State :=
  match s.mailbox? fn with
  | none => s
  | some m =>
    if !m.ready then s
    else
      let a := m.cqbase.toNat + 32 * m.cqtail
      let s := { s with host := Memory.writeN s.host a (completionBytes ctag seq result code state m.phase) }
      let wrap := m.cqtail + 1 = m.cqn
      let s := s.modMailbox fn fun m => { m with cqtail := (m.cqtail + 1) % m.cqn, phase := if wrap then !m.phase else m.phase }
      s.send (.interrupt fn (field m.mbctl 12 5))

/-! ### The end of a command (R411, R414, R424) -/

/-- Settle a command: its journal entry takes a state, a code, the object it created and a further handle, and its completion is
written unless it has been. `value` is the RESULT of the completion where nothing was created. -/
def State.close (s : State) (c : Cmd) (state code : Nat) (obj : Option Word := none) (res : Word := 0) (value : Word := 0) : State :=
  let s := s.journalSet c.seq fun e => { e with state, code, result := res, handle := obj.getD e.handle, made := e.made || obj.isSome }
  let s := if c.answered then s else s.complete c.fn c.ctag c.seq (obj.getD value) code state
  if 2 ≤ state then s.startNext c.seq else s

/-- A command is refused, or fails, with a reason (R417). -/
def State.refuse (s : State) (c : Cmd) (code : Nat) : State := s.close c 3 code

/-- A command is done at once. -/
def State.done (s : State) (c : Cmd) : State := s.close c 2 0

/-- A command runs on: its completion shows it running. -/
def State.runs (s : State) (c : Cmd) : State := s.close c 1 0

/-- A command is done, or runs on while the invalidations that it caused are deferred (R334). -/
def State.doneAfter (s : State) (c : Cmd) : State := if s.invalsOf c.seq then s.runs c else s.done c

/-- A command that the journal holds as accepted and that has not started (R414). -/
def State.accepted (s : State) (c : Cmd) : Bool :=
  !s.root.fenced && s.root.journal.any fun e => e.seq == c.seq && e.state == 0 && e.step == 0

/-- Run a command's meaning when it stands accepted. -/
def whenAccepted (s : State) (c : Cmd) (f : State → State) : Out := whenOk s (s.accepted c) f

/-! ### Objects by handle -/

def State.vfByHandle (s : State) (h : Word) : Option Vf := if h = 0 then none else s.vfs.find? fun (v : Vf) => v.handle = h

def State.partByHandle (s : State) (h : Word) : Option Partition :=
  if h = 0 then none else s.parts.find? fun (p : Partition) => p.handle = h

def State.imageByHandle (s : State) (h : Word) : Option Image :=
  if h = 0 then none else s.root.images.find? fun (x : Image) => x.handle = h

/-- The function that a handle concerns. -/
def State.vfOf (s : State) (h : Word) : Option Nat :=
  match s.vfByHandle h, s.partByHandle h, s.imageByHandle h with
  | some v, _, _ => some v.num
  | _, some p, _ => some p.vf
  | _, _, some x => some x.vf
  | _, _, _ => none

/-- Draw a handle that no object has had since power-up (R411): draws of the root's source, then the lowest free number. -/
def State.drawAux (fuel : Nat) (s : State) : State × Word :=
  match fuel with
  | 0 =>
    let k := (List.range (s.root.handles.length + 1)).find? fun i => !s.root.handles.contains (BitVec.ofNat 32 (i + 1))
    (s, BitVec.ofNat 32 (k.getD 0 + 1))
  | fuel + 1 =>
    let h := Config.randomHandle s.root.draws
    let s := { s with root := { s.root with draws := s.root.draws + 1 } }
    if h = 0 ∨ h ∈ s.root.handles then State.drawAux fuel s else (s, h)

def State.drawHandle (s : State) : State × Word :=
  let r := s.drawAux 8
  ({ r.1 with root := { r.1.root with handles := r.1.root.handles ++ [r.2] } }, r.2)

/-! ### SUBMISSION_READ (R410, R413 to R415, R418, R427, R428) -/

/-- A function whose tenant mailbox the root reaches: over its IDE stream, with its TDI in RUN, or in ERROR, where every entry is
refused (R412, R419). -/
def Vf.reached (v : Vf) : Bool := v.ide && (v.tdi == .run || v.tdi == .error)

/-- An entry stands to be read and its completion has room. -/
def Mailbox.pending (m : Mailbox) : Bool := m.ready && m.sqhead != m.sqtail && (m.cqtail + 1) % m.cqn != m.cqhead

/-- The mailboxes that hold an entry, by turn: 0 for the physical function, n + 1 for function n. -/
def State.pendingTurns (s : State) : List Nat :=
  (if s.root.mailbox.pending then [0] else []) ++
    (s.vfs.filterMap fun (v : Vf) => if v.mailbox.pending && v.reached then some (v.num + 1) else none).foldl insertNat []

/-- The mailbox whose turn it is: round robin, the physical function first in each round (R414). -/
def State.nextTurn (s : State) : Option Nat :=
  match s.pendingTurns.find? fun t => s.root.turn < t with
  | some t => some t
  | none => s.pendingTurns.head?

/-- The commands of R413, with the mailboxes that may carry them: physical, virtual. -/
def commandOf (code : Nat) (c : Cmd) : Option (Instr × Bool × Bool) :=
  match code with
  | 0x01 => some (.createVf c, true, false)
  | 0x02 => some (.assign c, true, false)
  | 0x03 => some (.loadPolicy c, true, false)
  | 0x04 => some (.pause c, true, false)
  | 0x05 => some (.resume c, true, false)
  | 0x06 => some (.evict c, true, false)
  | 0x07 => some (.resetVf c, true, false)
  | 0x08 => some (.destroy c, true, false)
  | 0x09 => some (.readJournal c, true, true)
  | 0x0A => some (.queryCounters c, true, false)
  | 0x0B => some (.linkRestore c, true, false)
  | 0x0C => some (.identify c, true, true)
  | 0x0D => some (.podForm c, true, false)
  | 0x0E => some (.nodeTable c, true, false)
  | 0x40 => some (.submit c, false, true)
  | 0x41 => some (.cancel c, false, true)
  | 0x42 => some (.setS1root c, false, true)
  | 0x43 => some (.s1Inval c, false, true)
  | 0x44 => some (.ctrConfig c, true, true)
  | 0x45 => some (.rekey c, false, true)
  | 0x46 => some (.migrate c, true, true)
  | _ => none

/-- A submission entry as read: its code, handle and body, or the reason that refuses it. -/
structure Submission where
  kind : Nat
  handle : Word
  body : List Byte
  bad : Option Nat := none

/-- Open a submission entry (R410). On a virtual function's mailbox the message inside holds the code (1 byte), the handle (4
bytes) and the body (log 42). -/
def State.openEntry (s : State) (fn : Option Nat) (e : BitVec 512) : Submission :=
  let kind := field e 64 8
  let handle : Word := e.extractLsb' 96 32
  let at' := field e 128 64
  let len := field e 192 32
  let bytes := leBytes 64 e.toNat
  if field e 72 24 ≠ 0 ∨ field e 224 32 ≠ 0 ∨ 2 ^ 20 < len ∨ (at' = 0 ∧ 32 < len) then { kind, handle, body := [], bad := some 0x86 }
  else
    let body := if at' = 0 then (bytes.drop 32).take len else Memory.readN s.host at' len
    match fn with
    | none => { kind, handle, body }
    | some v =>
      if kind ≠ 0x3F then { kind, handle, body := [], bad := some 0x86 }
      else match if (s.vf? v).any fun (x : Vf) => x.spdm then Config.spdmOpen (v + 1) (bytes.take 32) body else none with
        | none => { kind, handle, body := [], bad := some 0x8A }
        | some m =>
          { kind := bytesAt m 0 1, handle := BitVec.ofNat 32 (bytesAt m 1 4), body := m.drop 5, bad := if m.length < 5 then some 0x86 else none }

/-- An earlier entry with the same CTAG and function (R415). -/
def State.sameCommand (s : State) (fn : Option Nat) (ctag : Dword) : Option JEntry :=
  s.root.journal.reverse.find? fun (e : JEntry) => e.ctag == ctag && e.step == 0 &&
    (match fn with
     | none => e.origin == 1
     | some v => e.origin == 0 && e.vf == v)

/-- A state-changing command waits for the function's earlier ones, and is then answered as accepted; else it starts (R414). -/
def State.enqueue (s : State) (c : Cmd) (mk : Cmd → Instr) : State :=
  let vf := match c.fn with
    | some v => some v
    | none => s.vfOf c.handle
  match vf.bind s.vf? with
  | some v =>
    if (cmdOf (mk c)).isNone then s.pushFront [mk c]
    else if v.waiting.isEmpty then (s.modVf v.num fun v => { v with waiting := [mk c] }).pushFront [mk c]
    else
      (s.modVf v.num fun v => { v with waiting := v.waiting ++ [mk { c with answered := true }] }).complete c.fn c.ctag c.seq 0 0 0
  | none => s.pushFront [mk c]

/-- Why a submission is refused before its command starts: a TDI in ERROR first, then malformed, not in this mailbox's set, or the
function's state (R413, R418, R419). -/
def State.refusal (s : State) (fn : Option Nat) (x : Submission) : Option Nat :=
  match if (fn.bind s.vf?).any fun v => v.tdi == .error then some 0x87 else x.bad with
  | some c => some c
  | none =>
    match fn, commandOf x.kind { fn, seq := 0, ctag := 0, handle := 0, body := [] } with
    | _, none => some 0x86
    | none, some (_, pf, _) => if pf then none else some 0x86
    | some v, some (_, _, vfOk) =>
      if !vfOk then some 0x86
      else if (s.vf? v).any fun v => v.tdi == .run && (v.state == .ready || v.state == .paused) then none else some 0x87

/-- Journal an entry that has been read, and refuse or start its command (R414). -/
def State.takeCommand (s : State) (fn : Option Nat) (ctag : Dword) (x : Submission) : State :=
  let vf := match fn with
    | some v => v
    | none => (s.vfOf x.handle).getD 0
  let r := s.journalAdd { seq := 0, handle := x.handle, kind := x.kind, origin := if fn.isNone then 1 else 0, vf, ctag }
  match r.2 with
  | none => r.1.complete fn ctag 0 0 0x88 3
  | some seq =>
    let c : Cmd := { fn, seq, ctag, handle := x.handle, body := x.body }
    match r.1.refusal fn x with
    | some code => r.1.refuse c code
    | none => r.1.enqueue c fun c => ((commandOf x.kind c).map (·.1)).getD (.identify c)

/-- Read the next entry of a mailbox. -/
def State.readEntry (s : State) (fn : Option Nat) (m : Mailbox) : State :=
  let e : BitVec 512 := BitVec.ofNat 512 (leNat (Memory.readN s.host (m.sqbase.toNat + 64 * m.sqhead) 64))
  let ctag : Dword := e.extractLsb' 0 64
  let s := s.modMailbox fn fun m => { m with sqhead := (m.sqhead + 1) % m.sqn }
  if s.root.fenced then s.complete fn ctag 0 0 0x8C 3
  else
    match s.sameCommand fn ctag with
    | some j => s.complete fn ctag j.seq (if j.made then j.handle else j.result) j.code j.state
    | none => s.takeCommand fn ctag (s.openEntry fn e)

/-- SUBMISSION_READ: at each command boundary the root beats for its watchdog and checks its ROM, whose mismatch fences it (R427). -/
def execSubmissionRead (s : State) : Out :=
  .next (match s.nextTurn with
    | none => s
    | some t =>
      let fn := if t = 0 then none else some (t - 1)
      let s := { s with root := { s.root with turn := t, heartbeat := s.clock, fenced := s.root.fenced || !s.root.romOk } }
      match s.mailbox? fn with
      | none => s
      | some m => s.readEntry fn m)

end Sys2Proof.Machine
end

