-- ==== Sys2Proof/Machine/Tenants.lean ====
section
/-! DEFINITION. Functions, policies and partitions (R28, R308, R309, R413, R416, R418, R434): CREATE_VF, LOAD_POLICY, ASSIGN, PAUSE,
RESUME of a pause, and the key slots they take (R420). -/

namespace Sys2Proof.Machine

/-! ### Key slots (R420) -/

/-- The lowest free slot that no partition names. -/
def State.freeSlot (s : State) : Option Nat :=
  ((List.range 511).map (· + 1)).find? fun k =>
    !(s.root.slots.any fun (x : KeySlot) => x.slot == k) && !(s.parts.any fun (p : Partition) => p.key == k)

/-- Generate a key for a slot, in the cipher engines of some reticles. -/
def State.makeKey (s : State) (slot : Nat) (rets : List Nat) : State :=
  let k := s.root.keyCount + 1
  { s with root := { s.root with keyCount := k, slots := s.root.slots ++ [{ slot, state := .active, key := k, rets }] } }

/-- Zeroise a slot: its key is gone at once in the store; every live mirror has yet to confirm. -/
def State.zeroise (s : State) (slot : Nat) : State :=
  let k := s.root.keyCount + 1
  let dead (x : KeySlot) : KeySlot := { x with state := .zeroising, key := k, rets := x.rets.filter s.live }
  let s := { s with root := { s.root with keyCount := k, slots := s.root.slots.map fun (x : KeySlot) => if x.slot = slot then dead x else x } }
  s.settleSlots

/-! ### Range tables (R28, R329, R356) -/

/-- The range of a reticle's assignable DRAM (R28). -/
def homeRange (ret key : Nat) : Range :=
  { w := true, key, ia := ret * 2 ^ 42, nfr := framesPerReticle, pa := BitVec.ofNat 64 (0xFFFF * 2 ^ 48 + ret * 2 ^ 42) }

def Range.overlaps (a b : Range) : Bool := meets a.ia (a.nfr * 65536) b.ia (b.nfr * 65536)

/-- Whether a range maps DRAM of some reticles of this wafer. -/
def Range.onRets (r : Range) (rets : List Nat) : Bool := field r.pa 48 16 == 0xFFFF && rets.contains (field r.pa 42 6)

/-- Reticles of a function's top-level partitions. -/
def State.retsOf (s : State) (vf : Nat) : List Nat :=
  (s.parts.filter fun (p : Partition) => p.vf == vf && p.parent.isNone).flatMap fun (p : Partition) => p.rets.map (·.1)

/-- A function's own ranges. -/
def State.ownRanges (s : State) (v : Vf) : List Range := v.ranges.filter fun r => r.onRets (s.retsOf v.num)

/-- Add ranges to a function's table where they overlap none. -/
def Vf.addRanges (v : Vf) (rs : List Range) : Vf :=
  rs.foldl (fun (v : Vf) r => if v.ranges.any r.overlaps then v else { v with ranges := v.ranges ++ [r] }) v

/-- Whether function `v` names `u` as a post peer (R356). -/
def Vf.names (v u : Vf) : Bool := v.hasPolicy && v.num != u.num && v.policy.peers.contains u.tkd

/-- A range leaves a function's table: a stage-2 change, for which the command of a journal entry waits (R333, R334). -/
def State.dropRange' (s : State) (vf : Nat) (r : Range) (seq : Nat := 0) : State :=
  let s := s.modVf vf fun v => { v with ranges := v.ranges.filter fun x => x != r }
  s.startInval { id := 0, cause := 3, vf, seq, lo := field r.pa 0 48, hi := field r.pa 0 48 + r.nfr * 65536, node := field r.pa 48 16 }

/-- Put a function's own ranges into its peers' tables, and take them out of the others' (R329). A range that goes is a stage-2
change (R333). -/
def State.shareRanges (s : State) (vf : Nat) (seq : Nat := 0) : State :=
  match s.vf? vf with
  | none => s
  | some v =>
    let own := s.ownRanges v
    let mine (r : Range) : Bool := r.onRets (s.retsOf vf)
    s.vfs.foldl (fun (s : State) (u : Vf) =>
      if u.num = vf then s
      else if v.names u then s.modVf u.num fun u => u.addRanges own
      else
        (u.ranges.filter mine).foldl (fun (s : State) r => s.dropRange' u.num r seq) s) s

/-- Put the ranges of the functions that name this one as a peer into its table (R329). -/
def State.gatherRanges (s : State) (vf : Nat) : State :=
  match s.vf? vf with
  | none => s
  | some u =>
    let rs := s.vfs.flatMap fun (v : Vf) => if v.names u then s.ownRanges v else []
    s.modVf vf fun u => u.addRanges rs

/-- No table holds more than 48 ranges (R329). -/
def State.tablesFit (s : State) : Bool := s.vfs.all fun (v : Vf) => v.ranges.length ≤ 48

/-- Take a function's own ranges out of every table; what its peers lose is a stage-2 change (R333). -/
def State.dropRanges (s : State) (vf : Nat) (seq : Nat := 0) : State :=
  let rets := s.retsOf vf
  let s := s.vfs.foldl (fun (s : State) (u : Vf) =>
    if u.num = vf then s else (u.ranges.filter fun r => r.onRets rets).foldl (fun s r => s.dropRange' u.num r seq) s) s
  s.modVf vf fun v => { v with ranges := v.ranges.filter fun r => !r.onRets rets }

/-! ### Messages to the pod's roots (R382, R416). Layout: log 41 -/

/-- Pod peers of the wafer. -/
def State.podNodes (s : State) : List Nat := (s.port.nodes.filter fun (e : NodeEntry) => e.kind = 1).map (·.node)

/-- The messages that tell a function's binding: operations 1 and 2 carry the halves of its TKD, 0 its end. -/
def bindingMsgs (v : Vf) (made : Bool) : List (List Byte) :=
  let half (k : Nat) : List Byte := (leBytes 64 v.tkd.toNat).drop (32 * k) |>.take 32
  if made then [leBytes 2 v.num ++ [1, 0] ++ half 0, leBytes 2 v.num ++ [2, 0] ++ half 1] else [leBytes 2 v.num ++ [0, 0]]

/-- A message from this wafer's root to another's (R382). -/
def State.rootMsg (s : State) (node : Nat) (m : List Byte) : State :=
  s.outgo lodge { kind := 11, dest := globAddr node lodge 0, bytes := m.length, payload := m }

def State.tellBinding (s : State) (v : Vf) (made : Bool) : State :=
  s.podNodes.foldl (fun (s : State) n => (bindingMsgs v made).foldl (fun (s : State) m => s.rootMsg n m) s) s

/-- Tell the root of a bound function of another wafer, if it is a peer, which reticles a function holds (3), or no longer holds (4). -/
def State.tellPeer (s : State) (v : Vf) (op : Nat) (rets : List Nat) (b : Nat × Nat × BitVec 512) : State :=
  if v.hasPolicy && v.policy.peers.contains b.2.2 then
    rets.foldl (fun (s : State) r => s.rootMsg b.1 (leBytes 2 b.2.1 ++ [BitVec.ofNat 8 op, BitVec.ofNat 8 r])) s
  else s

/-- Tell the roots of all of a function's peers. -/
def State.tellRanges (s : State) (v : Vf) (op : Nat) (rets : List Nat) : State :=
  s.root.bindings.foldl (fun (s : State) b => s.tellPeer v op rets b) s

/-! ### CREATE_VF -/

/-- CREATE_VF (R413, R418): the lowest free function number, bound to the tenant's key digest. -/
def execCreateVf (cmd : Cmd) (s : State) : Out :=
  whenAccepted s cmd fun s =>
    if cmd.body.length ≠ 64 then s.refuse cmd 0x86
    else
      match (List.range 384).find? fun n => (s.vf? n).isNone with
      | none => s.refuse cmd 0x89
      | some n =>
        let r := s.drawHandle
        let v : Vf := { num := n, handle := r.2, tkd := BitVec.ofNat 512 (leNat cmd.body) }
        let s := { r.1 with vfs := r.1.vfs ++ [v] }
        let s := (s.gatherRanges n).tellBinding v true
        (s.journalSet cmd.seq fun e => { e with vf := n }).close cmd 2 0 (some r.2)

/-! ### LOAD_POLICY (R416) -/

/-- Bytes of the public key and of the signature at a policy's end. -/
def pubkeyLen : Nat := 2592
def sigLen : Nat := 4627

/-- One group of a policy blob, with the bytes it takes; no reticle twice, 0xFFFF and the wafer's own number being one node (R25,
R370, R416). -/
def parseGroup (own : Nat) (bs : List Byte) : Option (Group × Nat) :=
  let p := bytesAt bs 1 2
  let timeout := bytesAt bs 3 4
  let members := (List.range p).map fun i => (bytesAt bs (8 + 4 * i) 2, bytesAt bs (10 + 4 * i) 1)
  let zeros := (List.range p).all fun i => bytesAt bs (11 + 4 * i) 1 == 0
  if 64 ≤ bytesAt bs 0 1 ∨ p = 0 ∨ 1024 < p ∨ timeout = 0 ∨ 10000 < timeout ∨ bytesAt bs 7 1 ≠ 0 ∨ !zeros ∨
      (members.map fun m => (if m.1 = own then 0xFFFF else m.1, m.2)).eraseDups.length ≠ p ∨ members.any (fun m => 49 ≤ m.2) then none
  else some ({ handle := bytesAt bs 0 1, members, timeout }, 8 + 4 * p)

def parseGroups (own n : Nat) (bs : List Byte) : Option (List Group × List Byte) :=
  match n with
  | 0 => some ([], bs)
  | n + 1 =>
    match parseGroup own bs with
    | none => none
    | some (g, k) => (parseGroups own n (bs.drop k)).map fun r => (g :: r.1, r.2)

/-- Step 1 of R416: the policy and its public key; none when the blob is malformed. -/
def Policy.parse (own : Nat) (bs : List Byte) : Option (Policy × List Byte) :=
  let f (o n : Nat) : Nat := bytesAt bs o n
  let within (x lo hi : Nat) : Bool := lo ≤ x && x ≤ hi
  let classTo := (List.range 4).map fun i => f (40 + 4 * i) 4
  if f 0 4 ≠ 0x79504C01 ∨ f 4 4 ≠ bs.length ∨ f 8 8 = 0 ∨ !within (f 24 2) 1 384 ∨ !within (f 26 2) 1 1024 ∨ 3 < f 28 1 ∨
      !within (f 29 1) 1 64 ∨ !within (f 30 2) 1 1024 ∨ 3 < f 32 1 ∨ 3 < f 33 1 ∨ 7 < f 34 1 ∨ 7 < f 35 1 ∨
      !(classTo.all fun t => within t 1 10000) ∨ !within (f 60 1) 8 16 ∨ f 61 3 ≠ 0 ∨ f 64 8 % 64 ≠ 0 ∨ 64 < f 72 2 ∨ 383 < f 74 2 ∨
      f 76 4 ≠ 0 then none
  else
    match parseGroups own (f 72 2) (bs.drop 80) with
    | none => none
    | some (groups, rest) =>
      let np := f 74 2
      if rest.length ≠ 64 * np + pubkeyLen + sigLen ∨ (groups.map (·.handle)).eraseDups.length ≠ groups.length then none
      else
        some ({ version := f 8 8, retmask := BitVec.ofNat 64 (f 16 8), maxPart := f 24 2, budgetMax := f 26 2, prioMax := f 28 1,
                queues := f 29 1, bwshare := f 30 2, polscope := BitVec.ofNat 2 (f 32 1), memtc := f 33 1,
                rights := BitVec.ofNat 3 (f 34 1), sramSplit := f 35 1, pauseMax := f 36 4, classTo, pinQuota := f 56 4,
                errK := f 60 1, errBase := f 64 8, groups
                peers := (List.range np).map fun i => BitVec.ofNat 512 (bytesAt rest (64 * i) 64), digest := Config.sha3 bs },
              (rest.drop (64 * np)).take pubkeyLen)

/-- Steps 2 and 3 of R416: the key is the tenant's, and the signature verifies over the digest of bytes 0 to LEN - 4,628. -/
def policySigned (v : Vf) (key bs : List Byte) : Bool :=
  Config.sha3 key == v.tkd &&
    Config.mlDsaVerify key (Config.sha3 (bs.take (bs.length - sigLen))) (bs.drop (bs.length - sigLen))

/-- Pins that a partition holds on a reticle (R205). -/
def State.pinsOf (s : State) (p : Partition) (ret : Nat) : Nat :=
  (s.sectors.filter fun x => x.ret == ret && x.pinned && x.owner == p.key).length

/-- Step 5 of R416. -/
def State.policyFits (s : State) (v : Vf) (n : Policy) : Bool :=
  let ps := s.parts.filter fun (p : Partition) => p.vf == v.num
  decide (ps.length ≤ n.maxPart) &&
    (ps.all fun (p : Partition) => (p.rets.all fun r => n.retmask.getLsbD r.1) && p.queues ≤ n.queues && p.prioMax ≤ n.prioMax &&
      p.bwshare ≤ n.bwshare && (p.parent.isNone || p.budget ≤ n.budgetMax) && p.pinQuota ≤ n.pinQuota &&
      (p.parent.isSome || p.rets.all fun r => s.pinsOf p r.1 ≤ n.pinQuota)) &&
    (n.groups.all fun g => g.members.all fun m => !s.isHere m.1 || n.retmask.getLsbD m.2)

/-- Instances of a group that tasks have joined or that have seen a join. -/
def State.openInsts (s : State) (v : Vf) (grp : Nat) : List Nat :=
  (s.tasks.flatMap (fun (t : Task) => (t.particips fun p => p.vf == v.num && p.grp == grp && !p.done).map (·.inst)) ++
    (v.colls.filter fun (c : CollInst) => c.grp == grp).flatMap fun (c : CollInst) => c.started.map (·.1)).eraseDups

/-- Fail a group's open instances (R377), and forget its counts. -/
def State.dropGroup (s : State) (vf grp : Nat) : State :=
  match s.vf? vf with
  | none => s
  | some v =>
    let s := (s.openInsts v grp).foldl (fun (s : State) k => s.failInst true vf grp k) s
    s.modVf vf fun v => { v with colls := v.colls.filter fun (c : CollInst) => c.grp != grp }

/-- Install a policy (R416): groups that it drops or changes are failed first. -/
def State.install (s : State) (v : Vf) (n : Policy) (seq : Nat := 0) : State :=
  let changed := v.policy.groups.filter fun g => !n.groups.contains g
  let s := changed.foldl (fun (s : State) g => s.dropGroup v.num g.handle) s
  let s := s.modVf v.num fun v => { v with policy := n, hasPolicy := true, highest := n.version, state := .ready }
  (s.shareRanges v.num seq).tellRanges { v with policy := n, hasPolicy := true } 3 (s.retsOf v.num)

/-- LOAD_POLICY (R416): the first failing check decides and changes nothing. Where peers lose ranges it waits for those invalidations
(R334). -/
def execLoadPolicy (cmd : Cmd) (s : State) : Out :=
  whenAccepted s cmd fun s =>
    match s.vfByHandle cmd.handle with
    | none => s.refuse cmd 0x80
    | some v =>
      if v.state ≠ .created ∧ v.state ≠ .ready then s.refuse cmd 0x87
      else
        match Policy.parse s.port.node cmd.body with
        | none => s.refuse cmd 0x86
        | some (n, key) =>
          if !policySigned v key cmd.body then s.refuse cmd 0x84
          else if n.version ≤ v.highest then s.refuse cmd 0x85
          else if !s.policyFits v n then s.refuse cmd 0x8E
          else
            let s' := s.install v n cmd.seq
            if s'.tablesFit then s'.doneAfter cmd else s.refuse cmd 0x89

/-! ### ASSIGN (R28, R308, R309, R434) -/

/-- An ASSIGN body. -/
structure AssignBody where
  rets : List Nat
  bays : List Nat
  budget : Nat
  bwshare : Nat
  queues : Nat
  prioMax : Nat
  child : Bool
  pinQuota : Nat

/-- Read an ASSIGN body; none when it is malformed (R434). -/
def AssignBody.parse (bs : List Byte) : Option AssignBody :=
  let f (o n : Nat) : Nat := bytesAt bs o n
  let mask := f 0 8
  let rets := (List.range 64).filter fun r => mask.testBit r
  let child := f 14 1 == 1
  let bays := (List.range rets.length).map fun i => f (24 + i) 1
  let len := if child then 24 + rets.length else 24
  if bs.length ≠ len ∨ rets.isEmpty ∨ f 8 2 = 0 ∨ 1024 < f 8 2 ∨ (!child ∧ f 8 2 ≠ 1024) ∨ f 10 2 = 0 ∨ 1024 < f 10 2 ∨ f 12 1 = 0 ∨
      64 < f 12 1 ∨ 3 < f 13 1 ∨ 1 < f 14 1 ∨ f 15 1 ≠ 0 ∨ (child ∧ f 16 4 ≠ 0) ∨ f 20 4 ≠ 0 ∨ (child ∧ bays.contains 0) then none
  else some { rets, bays := if child then bays else rets.map fun _ => 255, budget := f 8 2, bwshare := f 10 2, queues := f 12 1,
              prioMax := f 13 1, child := child, pinQuota := f 16 4 }

/-- Bounds of the policy (R309, R413, R434), and what siblings already take of the parent's shares. -/
def State.assignBounds (s : State) (v : Vf) (parent : Option Partition) (b : AssignBody) : Bool :=
  let n := v.policy
  let sibs (f : Partition → Nat) : Nat := match parent with
    | some q => ((s.parts.filter fun (p : Partition) => p.parent == some q.num).map f).sum
    | none => 0
  decide ((s.parts.filter fun (p : Partition) => p.vf == v.num).length < n.maxPart) && b.bwshare ≤ n.bwshare && b.queues ≤ n.queues &&
    b.prioMax ≤ n.prioMax && b.pinQuota ≤ n.pinQuota &&
    (match parent with
     | some q => b.budget ≤ n.budgetMax && decide (sibs (·.budget) + b.budget ≤ q.budget) && decide (sibs (·.bwshare) + b.bwshare ≤ q.bwshare)
     | none => true)

/-- Placement (R28, R308, R433, R434): inside RETMASK, enabled and not fenced, and for a child on its parent's reticles. -/
def State.assignPlaces (s : State) (v : Vf) (parent : Option Partition) (b : AssignBody) : Bool :=
  b.rets.all fun r => v.policy.retmask.getLsbD r && s.live r && (match parent with
    | some q => q.rets.any fun x => x.1 == r
    | none => true)

/-- Resources: reticles that no other top-level partition owns, 64 queues of a reticle, 384 partitions. -/
def State.assignRoom (s : State) (parent : Option Partition) (b : AssignBody) : Bool :=
  decide (s.parts.length < 384) &&
    b.rets.all fun r => (parent.isSome || !(s.parts.any fun (p : Partition) => p.parent.isNone && p.rets.any fun x => x.1 == r)) &&
      decide (((s.parts.filter fun (p : Partition) => p.rets.any fun x => x.1 == r).map (·.queues)).sum + b.queues ≤ 64)

/-- The lowest free partition number (R311). -/
def State.freePart (s : State) : Nat := ((List.range 384).find? fun n => (s.part? n).isNone).getD 384

/-- The spare that stands in a frame's place now, through spares that have been retired in turn. -/
def State.spareNow (fuel : Nat) (s : State) (a : Nat) : State × Option Nat :=
  match fuel with
  | 0 => (s, none)
  | fuel + 1 =>
    match s.takeSpare a with
    | (s, some b) => if s.root.retired.contains b then State.spareNow fuel s b else (s, some b)
    | (s, none) => (s, none)

/-- Look a number up in a list of changes. -/
def renum (xs : List (Nat × Nat)) (k : Nat) : Nat := ((xs.find? fun x => x.1 = k).map (·.2)).getD k

/-- Map spares in the place of the retired frames of some reticles, unless an override names the frame already; none when 256
overrides do not suffice (R28, R329). `back` names the reticles whose DRAM stands at another's intermediate addresses. -/
def State.mapSpares (s : State) (vf : Nat) (rets : List Nat) (key : Nat) (back : List (Nat × Nat)) : Option State :=
  (s.root.retired.filter fun a => rets.contains (a / 2 ^ 42) && decide (a % 2 ^ 42 < offAssignable)).foldl
    (fun (acc : Option State) a => acc.bind fun s =>
      match s.vf? vf with
      | none => none
      | some v =>
        let f := (renum back (a / 2 ^ 42) * 2 ^ 42 + a % 2 ^ 42) / 65536
        if v.overrides.any fun (o : Override) => o.frame == f then some s
        else match s.spareNow 256 a with
          | (s, some b) => (v.override { frame := f, pa := BitVec.ofNat 64 (0xFFFF * 2 ^ 48 + b), key }).map fun v' =>
              s.modVf vf fun _ => v'
          | (s, none) => some s) (some s)

/-- The frames of a reticle that a save pool takes: the last of its assignable DRAM, in a number that the root fixes (R345; log 64). -/
def savePool (ret : Nat) : List Nat :=
  (List.range (min Config.savePoolFrames framesPerReticle)).map fun i => devAddr ret (65536 * (framesPerReticle - 1 - i))

/-- Create the partition: a top-level one with its key slot and ranges, or a child that shares its parent's (R28, R308). -/
def State.createPart (s : State) (v : Vf) (parent : Option Partition) (b : AssignBody) (handle : Word) (key : Nat) : Option State :=
  let p : Partition := {
    num := s.freePart, uid := s.nextUid + 1, handle, vf := v.num, parent := parent.map (·.num),
    rets := (b.rets.zip b.bays).map (fun x => (x.1, BitVec.ofNat 8 x.2)), budget := b.budget, bwshare := b.bwshare, queues := b.queues,
    prioMax := b.prioMax, pinQuota := b.pinQuota, sramSplit := (parent.map (·.sramSplit)).getD v.policy.sramSplit, key
    pool := if parent.isSome then [] else b.rets.flatMap savePool }
  let s := { s with parts := s.parts ++ [p], nextUid := s.nextUid + 1 }
  if parent.isSome then some s
  else
    let s := (s.makeKey key b.rets).modVf v.num fun v => v.addRanges (b.rets.map fun r => homeRange r key)
    (s.mapSpares v.num b.rets key []).bind fun s =>
      let s := (s.shareRanges v.num).tellRanges v 3 b.rets
      if s.tablesFit then some s else none

/-- ASSIGN (R434). -/
def execAssign (cmd : Cmd) (s : State) : Out :=
  whenAccepted s cmd fun s =>
    let parent := s.partByHandle cmd.handle
    match (match parent with
      | some p => s.vf? p.vf
      | none => s.vfByHandle cmd.handle) with
    | none => s.refuse cmd 0x80
    | some v =>
      if v.state ≠ .ready then s.refuse cmd 0x87
      else
        match AssignBody.parse cmd.body with
        | none => s.refuse cmd 0x86
        | some b =>
          if b.child != parent.isSome then s.refuse cmd 0x80
          else if parent.any fun p => p.parent.isSome then s.refuse cmd 0x86
          else if !s.assignPlaces v parent b then s.refuse cmd 0x82
          else if !s.assignBounds v parent b then s.refuse cmd 0x83
          else if !s.assignRoom parent b then s.refuse cmd 0x89
          else if parent.isNone && (v.ranges.any fun r => b.rets.any fun x => r.overlaps (homeRange x 0)) then s.refuse cmd 0x89
          else
            match (match parent with
              | some p => some p.key
              | none => s.freeSlot) with
            | none => s.refuse cmd 0x89
            | some key =>
              let r := s.drawHandle
              match r.1.createPart v parent b r.2 key with
              | some s => s.close cmd 2 0 (some r.2)
              | none => s.refuse cmd 0x89

/-! ### PAUSE and its end (R418) -/

/-- Stop a function's dispatch: every running task is marked as at a slice end (R342). -/
def State.stopDispatch (s : State) (vf : Nat) : State :=
  s.markTasks ((s.tasks.filter fun (t : Task) => t.vf == vf && t.phase == .running && t.copyOf.isNone).map (·.uid))

/-- PAUSE (R413, R418). -/
def execPause (cmd : Cmd) (s : State) : Out :=
  whenAccepted s cmd fun s =>
    match s.vfByHandle cmd.handle with
    | none => s.refuse cmd 0x80
    | some v =>
      if v.state ≠ .ready then s.refuse cmd 0x87
      else if !v.policy.rights.getLsbD 0 then s.refuse cmd 0x81
      else ((s.modVf v.num fun v => { v with state := .paused, pausedAt := s.clock }).stopDispatch v.num).done cmd

/-- Cycles of one millisecond. -/
def msCycles : Nat := 1600000

/-- Whether a function's pause has lasted PAUSEMAX (R418). -/
def Vf.pauseOver (v : Vf) (now : Nat) : Bool :=
  v.state == .paused && v.policy.pauseMax != 0 && decide (v.pausedAt + v.policy.pauseMax * msCycles ≤ now)

/-- PAUSEMAX_EXPIRY (R418, R423): the root resumes the function, and journals a RESUME of its own. -/
def execPausemaxExpiry (vf : Nat) (s : State) : Out :=
  .next (match s.vf? vf with
    | none => s
    | some v =>
      if !s.root.fenced && v.pauseOver s.clock then
        ((s.modVf vf fun v => { v with state := .ready }).journalAdd { seq := 0, handle := v.handle, kind := 0x05, state := 2, origin := 2, vf }).1
      else s)

end Sys2Proof.Machine
end

