-- ==== Sys2Proof/Machine/Evict.lean ====
section
/-! DEFINITION. Eviction and its images, RESUME, RESET_VF and DESTROY (R347, R413, R418, R421, R422, R433). -/

namespace Sys2Proof.Machine

/-! ### EVICT (R421) -/

/-- The eviction counter of a function (R421, R433). -/
def State.evictions (s : State) (vf : Nat) : Nat := tget 0 s.root.evictions vf

def State.countEviction (s : State) (vf : Nat) : State :=
  { s with root := { s.root with evictions := tput 0 s.root.evictions vf (s.evictions vf + 1) } }

/-- Every running task of a function stops before its next bundle, to be saved whole (R342, R344, R421); one that has reached TEND completes
(R320). -/
def State.saveAll (s : State) (vf : Nat) : State :=
  { s with tasks := s.tasks.map fun (t : Task) =>
    if t.vf = vf ∧ t.phase = .running ∧ t.copyOf = none ∧ t.saveStart = none ∧ t.tend = false then
      { t with mark := some (t.mark.getD s.clock), saveStart := some s.clock } else t }

/-- EVICT (R413, R418, R421): dispatch stops and every task is to be saved whole; EVICT_IMAGE_WRITTEN ends the command. -/
def execEvict (cmd : Cmd) (s : State) : Out :=
  whenAccepted s cmd fun s =>
    match s.vfByHandle cmd.handle with
    | none => s.refuse cmd 0x80
    | some v =>
      if v.state ≠ .ready ∧ v.state ≠ .paused then s.refuse cmd 0x87
      else if !v.policy.rights.getLsbD 1 then s.refuse cmd 0x81
      else if cmd.body.length ≠ 8 then s.refuse cmd 0x86
      else (((s.modVf v.num fun v => { v with state := .evicted }).countEviction v.num).saveAll v.num).runs cmd

/-- The eviction that runs for a function: its command, once no task of the function holds a span or is ending. -/
def State.evicting (s : State) (v : Vf) : Option Cmd :=
  match v.waiting with
  | .evict c :: _ =>
    if v.state == .evicted && (s.root.journal.any fun e => e.seq == c.seq && e.state == 1) && !s.root.fenced && s.issue.isNone && !s.invalsOf c.seq &&
        s.tasks.all fun (t : Task) => t.vf != v.num || t.copyOf.isSome || (t.waiting && t.fate.isNone && t.hits.isEmpty) then some c
    else none
  | _ => none

/-- Key slots of a function's partitions, with the new slot of a re-encryption. -/
def State.keysOf (s : State) (vf : Nat) : List Nat :=
  let ps := s.parts.filter fun (p : Partition) => p.vf == vf && p.parent.isNone
  ps.map (·.key) ++ (s.root.rekeys.filter fun (r : Rekeying) => ps.any fun p => p.num == r.part).map (·.new)

/-- Write back and drop what the caches hold under some key slots. -/
def State.flushKeys (s : State) (keys : List Nat) : State :=
  let s := (s.lines.filter fun (l : L1Line) => keys.contains l.key && l.dirty != 0).foldl (fun (s : State) (l : L1Line) => s.cleanLine l) s
  let s := { s with lines := s.lines.filter fun (l : L1Line) => !keys.contains l.key }
  (s.sectors.filter fun (x : Sector) => keys.contains x.owner).foldl (fun (s : State) (x : Sector) => s.evictSector x) s

/-- The ciphertext of an image: a free number of free bytes (log 1, 43). -/
def imageBytes (ix : Nat) : List Byte := (List.range (Config.freeNat ix)).map fun i => Config.freeByte (ix + 1 + i)

/-- Written segments that stand under some key slots, with the slot of each. -/
def State.segsUnder (s : State) (keys : List Nat) : List (Nat × Nat) :=
  s.segKey.filterMap fun (e : Nat × Nat) => (keys.find? fun k => s.keyIn k = e.2).map fun k => (e.1, k)

/-- What a function's image holds. -/
def State.imageOf (s : State) (v : Vf) (handle : Word) (addr : Nat) : Image :=
  let segs := s.segsUnder (s.keysOf v.num)
  { handle, vf := v.num, count := s.evictions v.num, addr, parts := s.parts.filter fun (p : Partition) => p.vf = v.num
    policy := v.policy, tasks := s.tasks.filter fun (t : Task) => t.vf = v.num
    launches := s.launches.filter fun (l : Launch) => l.vf = v.num, graphs := s.graphs.filter fun (g : Graph) => g.vf = v.num
    jobs := s.jobs.filter fun (j : Job) => j.vf = v.num, ranges := s.ownRanges v, overrides := v.overrides
    frames := s.dram.filter fun (c : Nat × Byte) => segs.any fun e => e.1 == c.1 / 32, segs
    counters := (s.counters ++ s.contexts).filter fun (c : Counter) => c.owner = some v.num
    pins := (s.sectors.filter fun (x : Sector) => x.pinned && (s.keysOf v.num).contains x.owner).map fun (x : Sector) => (x.ret, x.base, x.pc)
    colls := v.colls, ix := s.freeIx }

/-- Remove everything that a function has on the part but its own record: partitions, ranges, tasks, work and keys. What peers lose of its
ranges are invalidations that the command waits for (R333, R334). -/
def State.clearVf (s : State) (v : Vf) (seq : Nat := 0) : State :=
  let keys := s.keysOf v.num
  let nums := (s.parts.filter fun (p : Partition) => p.vf == v.num).map (·.num)
  let s := (s.dropRanges v.num seq).tellRanges v 4 (s.retsOf v.num)
  let s := { s with
    tasks := s.tasks.filter fun (t : Task) => t.vf != v.num
    launches := s.launches.filter fun (l : Launch) => l.vf != v.num
    graphs := s.graphs.filter fun (g : Graph) => g.vf != v.num
    jobs := s.jobs.filter fun (j : Job) => j.vf != v.num
    parts := s.parts.filter fun (p : Partition) => p.vf != v.num
    root := { s.root with rekeys := s.root.rekeys.filter fun (r : Rekeying) => !nums.contains r.part } }
  let s := s.modVf v.num fun v => { v with ranges := [], overrides := [] }
  let s := { s with root := { s.root with
    cands := s.root.cands.filter fun c => c.1 != v.num
    moved := s.root.moved.filter fun (m : Moved) => m.vf != v.num } }
  keys.foldl (fun (s : State) k => s.zeroise k) s

/-- EVICT_IMAGE_WRITTEN (R421): the image is in host memory; the partitions are freed and their slots zeroised, and the function's
collective memberships lie in the image. The command ends with its last invalidation. -/
def execEvictImageWritten (vf : Nat) (s : State) : Out :=
  .next (match s.vf? vf with
    | none => s
    | some v =>
      match s.evicting v with
      | none => s
      | some c =>
        let s := { s with tasks := s.tasks.map fun (t : Task) => if t.vf = vf then t.restartTranslation else t }
        let q := s.drawHandle
        let x := { (q.1.flushKeys (s.keysOf vf)).imageOf v q.2 (leNat c.body) with pins := (s.imageOf v q.2 0).pins }
        let s := q.1.flushKeys (s.keysOf vf)
        let bs := imageBytes s.freeIx
        let s := { s with
          host := Memory.writeN s.host x.addr bs
          counters := s.counters.filter fun (c : Counter) => c.owner != some vf
          contexts := s.contexts.filter fun (c : Counter) => c.owner != some vf
          root := { s.root with images := s.root.images ++ [x] } }
        let s := ((s.bumpFree (1 + bs.length)).clearVf v c.seq).modVf vf fun v => { v with colls := [] }
        (s.journalSet c.seq fun e => { e with result := q.2 }).finishCmd c.seq)

/-! ### RESUME (R422) -/

/-- What changes when an image is restored: reticles, partition numbers, key slots. -/
structure Moves where
  rets : List (Nat × Nat)
  parts : List (Nat × Nat)
  keys : List (Nat × Nat)

/-- Reticles for an image's partitions: its own where they are free, else the lowest free ones of RETMASK (R422). -/
def State.placeImage (s : State) (mask : BitVec 64) (rets : List Nat) : Option (List (Nat × Nat)) :=
  let free (r : Nat) : Bool := s.live r && mask.getLsbD r &&
    !(s.parts.any fun (p : Partition) => p.parent.isNone && p.rets.any fun x => x.1 == r)
  rets.foldl (fun (acc : Option (List (Nat × Nat))) r => acc.bind fun m =>
    if free r then some (m ++ [(r, r)])
    else ((List.range 49).find? fun q => free q && !rets.contains q && !(m.any fun x => x.2 == q)).map fun q => m ++ [(r, q)]) (some [])

/-- Free numbers for partitions, and free slots for keys, in order. -/
def freeNumbers (n : Nat) (taken : Nat → Bool) (lo hi : Nat) : List Nat :=
  (((List.range (hi - lo)).map (· + lo)).filter fun k => !taken k).take n

/-- A device address after the reticles' change. -/
def Moves.dev (m : Moves) (a : Nat) : Nat := renum m.rets (a / 2 ^ 42) * 2 ^ 42 + a % 2 ^ 42

/-- A global address of this wafer after the reticles' change. -/
def Moves.pa (m : Moves) (pa : Dword) : Dword :=
  if field pa 48 16 = 0xFFFF then BitVec.ofNat 64 (0xFFFF * 2 ^ 48 + m.dev (field pa 0 48)) else pa

def Moves.part (m : Moves) (p : Partition) : Partition :=
  { p with num := renum m.parts p.num, parent := p.parent.map (renum m.parts), key := renum m.keys p.key, pool := p.pool.map m.dev
           rets := p.rets.map fun x => (renum m.rets x.1, x.2) }

def Moves.task (m : Moves) (t : Task) : Task :=
  { t with part := renum m.parts t.part, ret := renum m.rets t.ret, extents := [], savedIn := t.savedIn.map m.dev }

def Moves.launch (m : Moves) (l : Launch) : Launch :=
  { l with part := renum m.parts l.part, rets := l.rets.map (renum m.rets), master := renum m.rets l.master, home := renum m.rets l.home
           pend := l.pend.map (fun (p : Pend) => { p with ret := renum m.rets p.ret })
           chunks := l.chunks.map fun (c : Chunk) => { c with ret := renum m.rets c.ret } }

/-- Write an image's bytes into their frames, under the new keys. -/
def State.restoreFrames (s : State) (x : Image) (m : Moves) : State :=
  x.segs.foldl (fun (s : State) e =>
    let a := m.dev (e.1 * 32)
    let bs := (List.range 32).map fun i => tget 0 x.frames (e.1 * 32 + i)
    { s with dram := Memory.writeN s.dram a bs, segKey := tput 0 s.segKey (a / 32) (s.keyIn (renum m.keys e.2)) }) s

/-- The collective memberships of an image on the reticles of its restore, beside what the function has seen of other groups since. -/
def Moves.colls (m : Moves) (x : Image) (now : List CollInst) : List CollInst :=
  let old := x.colls.map fun (c : CollInst) => { c with ret := renum m.rets c.ret }
  old ++ now.filter fun (c : CollInst) => !old.any fun d => d.grp == c.grp && d.ret == c.ret

/-- Restore an image (R422); none where no reticle, key or table entry is left for it. The image keeps its handle, and its counter lets no
second restore pass. Its pins are not set again. -/
def State.restoreImage (s : State) (v : Vf) (x : Image) : Option State :=
  let tops := x.parts.filter fun (p : Partition) => p.parent.isNone
  match s.placeImage v.policy.retmask (tops.flatMap fun p => p.rets.map (·.1)) with
  | none => none
  | some rets =>
    let nums := freeNumbers x.parts.length (fun k => (s.part? k).isSome) 0 384
    let slots := freeNumbers tops.length (fun k => (s.root.slots.any fun (y : KeySlot) => y.slot == k) ||
      s.parts.any fun (p : Partition) => p.key == k) 1 512
    if nums.length < x.parts.length ∨ slots.length < tops.length then none
    else
      let m : Moves := { rets, parts := (x.parts.map (·.num)).zip nums, keys := (tops.map (·.key)).zip slots }
      let parts := x.parts.map m.part
      let s := (parts.filter fun (p : Partition) => p.parent.isNone).foldl (fun (s : State) p => s.makeKey p.key (p.rets.map (·.1))) s
      let s := { s with
        parts := s.parts ++ parts
        tasks := s.tasks ++ x.tasks.map m.task
        launches := s.launches ++ x.launches.map m.launch
        graphs := s.graphs ++ x.graphs.map fun (g : Graph) => { g with part := renum m.parts g.part }
        jobs := s.jobs ++ x.jobs.map fun (j : Job) => { j with part := renum m.parts j.part }
        counters := s.counters ++ (x.counters.filter fun (c : Counter) => c.cu.isNone).map fun (c : Counter) => { c with ret := renum m.rets c.ret }
        contexts := s.contexts ++ x.counters.filter fun (c : Counter) => c.cu.isSome
        root := { s.root with spares := rets.foldl (fun (t : Table Nat) (r : Nat × Nat) => tput 0 t r.2 (max (tget 0 t r.1) (tget 0 t r.2))) s.root.spares } }
      let ranges := x.ranges.map fun (r : Range) => { r with key := renum m.keys r.key, pa := m.pa r.pa }
      let overrides := x.overrides.map fun (o : Override) => { o with key := renum m.keys o.key, pa := m.pa o.pa }
      let s := ((s.restoreFrames x m).modVf v.num fun v => { v.addRanges ranges with overrides, state := .ready, colls := m.colls x v.colls }).countEviction v.num
      let s := tops.foldl (fun (acc : Option State) p => acc.bind fun s =>
        s.mapSpares v.num (p.rets.map fun r => renum rets r.1) (renum m.keys p.key) (rets.map fun r => (r.2, r.1))) (some s)
      s.bind fun s =>
        let s := ((s.shareRanges v.num).gatherRanges v.num).tellRanges v 3 (s.retsOf v.num)
        if s.tablesFit then some s else none

/-- Whether host memory still holds an image as it was written, and no later eviction or restore has passed it (R421, R422). -/
def State.imageGood (s : State) (x : Image) : Bool :=
  let bs := imageBytes x.ix
  Memory.readN s.host x.addr bs.length == bs && x.count == s.evictions x.vf

/-- RESUME (R418, R422): ends a pause, or restores an eviction image. -/
def execResume (cmd : Cmd) (s : State) : Out :=
  whenAccepted s cmd fun s =>
    match s.vfByHandle cmd.handle, s.imageByHandle cmd.handle with
    | some v, _ => if v.state = .paused then (s.modVf v.num fun v => { v with state := .ready }).done cmd else s.refuse cmd 0x87
    | none, some x =>
      match s.vf? x.vf with
      | none => s.refuse cmd 0x80
      | some v =>
        if v.state ≠ .evicted then s.refuse cmd 0x87
        else if !s.imageGood x then s.refuse cmd 0x8B
        else match s.restoreImage v x with
          | some s => s.done cmd
          | none => s.refuse cmd 0x89
    | none, none => s.refuse cmd 0x80

/-! ### RESET_VF and DESTROY (R347, R414, R418, R433) -/

/-- The step entry of a reset (R423). -/
def State.journalStep (s : State) (c : Cmd) (vf kind step : Nat) (h : Word) : State :=
  (s.journalAdd { seq := 0, handle := h, kind, state := 2, step, origin := 1, vf, ctag := c.ctag }).1

/-- Commands that a reset ends with reason 0x8D: the running state-changing one, and the jobs (R414, R417). An invalidation that
served the command completes without it. -/
def State.cutCommands (s : State) (v : Vf) (all : Bool) : State :=
  let seqs := (if all then v.waiting else v.waiting.take 1).filterMap cmdSeq
  let jobs := (s.jobs.filter fun (j : Job) => j.vf == v.num && !j.done).map (·.seq)
  let s := (seqs ++ jobs).foldl (fun (s : State) q => s.journalSet q fun e => if e.state < 2 then { e with state := 3, code := 0x8D } else e) s
  { s with root := { s.root with invals := s.root.invals.map fun (x : Inval) => if seqs.contains x.seq then { x with seq := 0, move := none } else x } }

/-- Withdraw every collective that a function takes part in (R347 step 3). -/
def State.withdrawAll (s : State) (v : Vf) : State :=
  v.policy.groups.foldl (fun (s : State) g => s.dropGroup v.num g.handle) s

/-- A function's posts and packets that have not been sent go (R347 step 2). -/
def State.dropUnsent (s : State) (vf : Nat) : State :=
  { s with
    port := { s.port with reqs := s.port.reqs.filter fun (q : PortReq) => q.sent || q.req.vf != vf
                          outgoing := s.port.outgoing.filter fun x => x.2.vf != vf || (x.2.kind != 7 && !(4 ≤ x.2.kind && x.2.kind ≤ 6)) }
    uet := s.uet.map fun (u : Uet) => { u with sent := u.sent.filter fun (p : UetPacket) => !(p.unsent && p.flit.vf == vf) } }

/-- LLC sectors under some key slots, their L1 copies and their pins go without write-back (R347 step 5). -/
def State.dropKeys (s : State) (keys : List Nat) : State :=
  { s with lines := s.lines.filter (fun (l : L1Line) => !keys.contains l.key)
           sectors := s.sectors.filter fun (x : Sector) => !keys.contains x.owner }

/-- The seven steps of R347. -/
def State.resetSteps (s : State) (c : Cmd) (v : Vf) (kind : Nat) (all : Bool) : State :=
  let note (n : Nat) (s : State) : State := s.journalStep c v.num kind n v.handle
  let keys := s.keysOf v.num
  -- collectives are withdrawn while the tasks that joined still stand; their messages belong to step 3
  let s := (s.cutCommands v all).withdrawAll v
  let s := { s with issue := s.issue.filter fun (is : Issue) => is.task.vf != v.num }
  let s := note 1 { s with tasks := s.tasks.filter fun (t : Task) => t.vf != v.num }
  let s := note 3 (note 2 (s.dropUnsent v.num))
  let s := note 4 { s with
    launches := s.launches.filter fun (l : Launch) => l.vf != v.num
    graphs := s.graphs.filter fun (g : Graph) => g.vf != v.num
    jobs := s.jobs.filter fun (j : Job) => j.vf != v.num }
  let s := note 6 (note 5 (s.dropKeys keys))
  note 7 (s.clearVf v c.seq)

/-- The function after its reset: no policy, the highest version kept, its interface unlocked (R418). -/
def Vf.afterReset (v : Vf) : Vf :=
  { v with state := .created, policy := {}, hasPolicy := false, s1root := 0, colls := [], tdi := .unlocked, pausedAt := 0 }

/-- RESET_VF (R347): starts at once; a state-changing command that runs ends with 0x8D, and the next one starts. -/
def execResetVf (cmd : Cmd) (s : State) : Out :=
  whenAccepted s cmd fun s =>
    match s.vfByHandle cmd.handle with
    | none => s.refuse cmd 0x80
    | some v =>
      let s := (s.resetSteps cmd v 0x07 false).modVf v.num Vf.afterReset
      let s := (s.modVf v.num fun v => { v with waiting := v.waiting.drop 1 }).pushFront ((v.waiting.drop 1).take 1)
      s.doneAfter cmd

/-- DESTROY (R418): a reset, then the binding, the version and the handle go. -/
def execDestroy (cmd : Cmd) (s : State) : Out :=
  whenAccepted s cmd fun s =>
    match s.vfByHandle cmd.handle with
    | none => s.refuse cmd 0x80
    | some v =>
      let s := s.resetSteps cmd v 0x08 true
      let s := { s with
        vfs := s.vfs.filter fun (u : Vf) => u.num != v.num
        counters := s.counters.filter fun (c : Counter) => c.owner != some v.num
        contexts := s.contexts.filter fun (c : Counter) => c.owner != some v.num
        root := { s.root with images := s.root.images.filter fun (x : Image) => x.vf != v.num } }
      (s.tellBinding v false).doneAfter cmd

end Sys2Proof.Machine
end

