-- ==== Sys2Proof/Machine/Commands.lean ====
section
/-! DEFINITION. The other root commands (R298, R326, R333, R390, R398, R399, R409, R413, R420, R426, R430, R434) and root
messages (R382, R416). Bodies that the specification does not lay out: log 42. -/

namespace Sys2Proof.Machine

/-- The function whose mailbox carries a tenant command. -/
def State.tenant (s : State) (c : Cmd) : Option Vf := c.fn.bind s.vf?

/-! ### REKEY (R420) -/

/-- The device address of a frame by its place in the re-encryption. -/
def rekeyAddr (r : Rekeying) (i : Nat) : Nat := devAddr (r.rets.getD (i / framesOfRet) 0) (i % framesOfRet * 65536)

/-- REKEY (R413, R420): a second slot is allocated; FRAME_REENCRYPTED passes the frames. -/
def execRekey (cmd : Cmd) (s : State) : Out :=
  whenAccepted s cmd fun s =>
    match s.tenant cmd, s.partByHandle cmd.handle with
    | some v, some p =>
      let top := (p.parent.bind s.part?).getD p
      if p.vf ≠ v.num then s.refuse cmd 0x80
      else
        match s.freeSlot with
        | none => s.refuse cmd 0x89
        | some slot =>
          let rets := top.rets.map (·.1)
          let s := s.makeKey slot rets
          let r : Rekeying := { part := top.num, rets, old := top.key, new := slot, seq := cmd.seq, next := 0, deferred := [] }
          let retire (x : KeySlot) : KeySlot := if x.slot = top.key then { x with state := .retiring } else x
          State.runs { s with root := { s.root with rekeys := s.root.rekeys ++ [r], slots := s.root.slots.map retire } } cmd
    | _, _ => s.refuse cmd 0x80

/-- Re-encrypt the written segments of a device range that stand under a key. -/
def State.reencrypt (s : State) (lo n old new : Nat) : State :=
  let k := s.keyIn old
  let k' := s.keyIn new
  { s with segKey := s.segKey.map fun (e : Nat × Nat) => if lo / 32 ≤ e.1 ∧ e.1 < (lo + n) / 32 ∧ e.2 = k then (e.1, k') else e }

def State.modRekey (s : State) (part : Nat) (f : Rekeying → Rekeying) : State :=
  { s with root := { s.root with rekeys := s.root.rekeys.map fun (r : Rekeying) => if r.part = part then f r else r } }

/-- The frames that overrides put outside the partition's reticles, as the last invalidation of a re-encryption. -/
def State.rekeyRest (s : State) (r : Rekeying) (vf : Nat) : Inval :=
  let away := match s.vf? vf with
    | some v => (v.overrides.filter fun (o : Override) => o.key == r.old && !r.rets.contains (field o.pa 42 6)).map fun (o : Override) => field o.pa 0 48
    | none => []
  { id := 0, cause := 4, vf, lo := 0, hi := 0, frames := away }

/-- The last frame has been passed: everything that names the old slot names the new one, and the old slot is zeroised (R420). -/
def State.finishRekey (s : State) (r : Rekeying) (vf : Nat) : State :=
  let sw (k : Nat) : Nat := if k = r.old then r.new else k
  let s := s.reencrypt 0 (2 ^ 48) r.old r.new
  let s := { s with
    parts := s.parts.map fun (p : Partition) => { p with key := sw p.key }
    vfs := s.vfs.map fun (v : Vf) => { v with
      ranges := v.ranges.map (fun (x : Range) => { x with key := sw x.key })
      overrides := v.overrides.map fun (x : Override) => { x with key := sw x.key } }
    lines := s.lines.map fun (l : L1Line) => { l with key := sw l.key }
    sectors := s.sectors.map fun (x : Sector) => { x with owner := sw x.owner }
    root := { s.root with rekeys := s.root.rekeys.filter fun (x : Rekeying) => x.part != r.part } }
  (s.zeroise r.old).endCmd vf r.seq 0

/-- The invalidations of a function's key changes that are not complete (R335). -/
def State.keyInvals (s : State) (vf : Nat) : Bool := s.root.invals.any fun x => x.cause == 4 && x.vf == vf

/-- End a re-encryption that has passed every frame and whose invalidations have completed (R335): the frames that overrides put outside
the partition's reticles come last, once no pinned task defers them (R334), and are counted as one frame more. -/
def State.endRekey (s : State) (r : Rekeying) (vf : Nat) : State :=
  let rest := s.rekeyRest r vf
  if r.next < rekeyFrames r || !r.deferred.isEmpty || s.keyInvals vf then s
  else if r.next = rekeyFrames r && !rest.frames.isEmpty then
    if s.deferred rest then s
    else ((s.startInval rest).reencrypt 0 (2 ^ 48) r.old r.new).modRekey r.part fun r => { r with next := r.next + 1 }
  else s.finishRekey r vf

/-- FRAME_REENCRYPTED (R333, R334, R420): each frame is an invalidation; a frame under a pinned task waits for its end (R433). A
frame after the last one stands for the end. -/
def execFrameReencrypted (part frame : Nat) (s : State) : Out :=
  .next (match s.root.rekeys.find? fun (r : Rekeying) => r.part = part, s.part? part with
    | some r, some p =>
      let isNext := frame == r.next && decide (frame < rekeyFrames r)
      if s.root.fenced then s
      else if rekeyFrames r ≤ frame then s.endRekey r p.vf
      else if !(isNext || r.deferred.contains frame) then s
      else
        let a := rekeyAddr r frame
        let x : Inval := { id := 0, cause := 4, vf := p.vf, lo := a, hi := a + 65536 }
        if s.deferred x then
          if isNext then s.modRekey part fun r => { r with next := r.next + 1, deferred := r.deferred ++ [frame] } else s
        else
          let s := (s.startInval x).reencrypt a 65536 r.old r.new
          let r' : Rekeying := if isNext then { r with next := r.next + 1 } else { r with deferred := r.deferred.filter fun f => f != frame }
          (s.modRekey part fun _ => r').endRekey r' p.vf
    | _, _ => s)

/-- ZEROISE_CONFIRM (R420): a mirror confirms; with the last one the slot is free. -/
def execZeroiseConfirm (slot ret : Nat) (s : State) : Out :=
  let hit (k : KeySlot) : Bool := k.slot == slot && k.state == .zeroising && k.rets.contains ret
  whenOk s (s.root.slots.any hit) fun s =>
    let less (k : KeySlot) : KeySlot := if hit k then { k with rets := k.rets.filter fun r => r != ret } else k
    State.settleSlots { s with root := { s.root with slots := s.root.slots.map less } }

/-- KEY_SLOT_ECC_ERROR (R427): the slot is zeroised and the tasks of its partition and its children terminate, those that are queued
included. Slot 0 is root storage: its loss fences the root. -/
def execKeySlotEccError (slot : Nat) (s : State) : Out :=
  .next (
    if slot = 0 then { s with root := { s.root with fenced := true } }
    else
      let nums := (s.parts.filter fun (p : Partition) => p.key == slot).map (·.num)
      let hit (t : Task) : Bool := nums.contains t.part && t.copyOf.isNone
      let s := { s with tasks := s.tasks.map fun (t : Task) => if hit t then t.terminate cHW_ERROR 0 else t }
      s.zeroise slot)

/-! ### MIGRATE (R333, R341, R413). The body's layout: log 42 -/

/-- MIGRATE: an explicit move of a range of intermediate frames, as a stage-2 change. Bytes 0 to 3 hold the first frame, 4 to 7 the
count, 8 the target reticle. -/
def execMigrate (cmd : Cmd) (s : State) : Out :=
  whenAccepted s cmd fun s =>
    match s.vfByHandle cmd.handle with
    | none => s.refuse cmd 0x80
    | some v =>
      let first := bytesAt cmd.body 0 4
      let n := bytesAt cmd.body 4 4
      let ret := bytesAt cmd.body 8 1
      let places := (List.range n).filterMap fun i => (s.frameAt v (first + i)).map (·.1)
      if cmd.fn.any fun f => f != v.num then s.refuse cmd 0x80
      else if v.state ≠ .ready ∧ v.state ≠ .paused then s.refuse cmd 0x87
      else if cmd.fn.isNone && !v.policy.rights.getLsbD 2 then s.refuse cmd 0x81
      else if cmd.body.length ≠ 16 ∨ n = 0 ∨ bytesAt cmd.body 9 7 ≠ 0 then s.refuse cmd 0x86
      else if 256 < n then s.refuse cmd 0x89
      else if !(s.retsOf v.num).contains ret || !s.live ret || places.length ≠ n then s.refuse cmd 0x82
      else (s.runs cmd).startInval { id := 0, cause := 3, vf := v.num, lo := 0, hi := 0, seq := cmd.seq, move := some (first, n, ret), frames := places }

/-! ### READ_JOURNAL (R423, R426, R434) -/

/-- The 32 bytes of a journal entry, as the physical function sees it or whole. -/
def JEntry.bytes (e : JEntry) (pf : Bool) : List Byte :=
  let hide := pf && e.origin == 0
  let kind := if hide then 0x3F else e.kind
  let result := if hide then 0 else e.result.toNat
  leBytes 32 (e.seq % 2 ^ 64 + e.handle.toNat * 2 ^ 64 + result * 2 ^ 96 + kind % 256 * 2 ^ 128 + e.code % 256 * 2 ^ 136 +
    e.state % 8 * 2 ^ 144 + e.step % 8 * 2 ^ 147 + e.origin % 4 * 2 ^ 150 + e.vf % 512 * 2 ^ 152 + e.ctag.toNat * 2 ^ 192)

/-- READ_JOURNAL: entries from a SEQ on, to a host buffer, in one step. -/
def execReadJournal (cmd : Cmd) (s : State) : Out :=
  whenAccepted s cmd fun s =>
    let count := bytesAt cmd.body 8 4
    let buf := bytesAt cmd.body 16 8
    if cmd.handle ≠ 0 ∨ cmd.body.length ≠ 24 ∨ count = 0 ∨ 4096 < count ∨ bytesAt cmd.body 12 4 ≠ 0 ∨ buf % 32 ≠ 0 then s.refuse cmd 0x86
    else
      let es := (s.root.journal.filter fun (e : JEntry) => bytesAt cmd.body 0 8 ≤ e.seq && (match cmd.fn with
        | none => true
        | some v => e.vf == v)).take count
      let s := { s with host := Memory.writeN s.host buf (es.flatMap fun (e : JEntry) => e.bytes cmd.fn.isNone) }
      s.close cmd 2 0 none 0 (BitVec.ofNat 32 es.length)

/-! ### Counters (R398, R399, R413, R429, R430, R432). Body layouts: log 42 -/

/-- QUERY_COUNTERS. Byte 0 selects, bytes 1 to 3 name: 0 the raw counters and the retrain level of a link (site, port); 1 a probe's
result (site, fibre, direction); 2 a counter (reticle, CU or 255, index); 3 every counter bound to a function (bytes 1 and 2, 0xFFFF
for the physical one), 16 bytes each, the saved ones of R431 after those in place. The answer goes out beside the completion. -/
def State.queryAnswer (s : State) (sel a b c : Nat) : Option (List Byte) :=
  if sel = 0 then
    let l := s.link a b
    let x := s.switch a
    let raw (i : Nat) : Nat :=
      if i = 8 ∧ b < 4 then x.deflect % 2 ^ 48 else if i = 9 then x.reinjected % 2 ^ 48 else tget 0 l.raw (0x300 + i)
    some ((List.range 12).flatMap (fun i => leBytes 8 (raw i)) ++ leBytes 8 l.level)
  else if sel = 1 then some (leBytes 8 (tget 0 s.port.probes (a * 16 + b * 2 + c)).toNat)
  else if sel = 2 then
    let cu := if b = 255 then none else some b
    some (match s.counters.find? fun (x : Counter) => x.ret = a ∧ x.cu = cu ∧ x.idx = c with
      | some x => leBytes 8 x.val.toNat
      | none => leBytes 8 0)
  else if sel = 3 ∧ c = 0 then
    let owner := if a + 256 * b = 0xFFFF then none else some (a + 256 * b)
    let entry (saved : Nat) (x : Counter) : List Byte :=
      leBytes 8 (x.ret + 256 * (x.cu.getD 255) + 65536 * x.idx + 16777216 * saved) ++ leBytes 8 x.val.toNat
    some ((s.counters.filter fun (x : Counter) => x.owner = owner).flatMap (entry 0) ++
      (s.contexts.filter fun (x : Counter) => x.owner = owner).flatMap (entry 1))
  else none

def execQueryCounters (cmd : Cmd) (s : State) : Out :=
  whenAccepted s cmd fun s =>
    let f (i : Nat) : Nat := bytesAt cmd.body i 1
    match if cmd.body.length = 4 then s.queryAnswer (f 0) (f 1) (f 2) (f 3) else none with
    | none => s.refuse cmd 0x86
    | some bs => (s.send (.answer cmd.fn bs)).done cmd

/-- Listed event codes (R432). -/
def eventListed (e : Nat) : Bool :=
  (1 ≤ e && e ≤ 0xA) || (0x101 ≤ e && e ≤ 0x107) || (0x200 ≤ e && e ≤ 0x204) || (0x300 ≤ e && e ≤ 0x30B)

/-- A counter's control word as a function reads it (R430). -/
def Counter.control (c : Counter) (vf : Bool) : Nat :=
  let b (x : Bool) (k : Nat) : Nat := if x then 2 ^ k else 0
  c.event % 1024 + b c.en 10 + b c.ovie 11 + b c.ovf 12 + c.vec % 32 * 2 ^ 13 + 2 ^ 18 + (if vf then 0 else (c.owner.getD 0) % 512 * 2 ^ 19) +
    c.link % 32 * 2 ^ 32

/-- Whether a function may configure a counter: a virtual one of a CU or reticle of its own partitions, free or its own; the physical
one any, which stays bound as it is (R430). -/
def State.mayConfigure (s : State) (fn : Option Nat) (ret : Nat) (cu : Option Nat) (idx : Nat) : Bool :=
  let at' (c : Counter) : Bool := c.ret == ret && c.cu == cu && c.idx == idx
  ret < 49 && (match cu with
    | some k => k < 32 && idx < 8
    | none => idx < 16) &&
  (fn.isNone || s.counters.all fun (c : Counter) => !at' c || c.owner == fn) &&
  (match fn with
   | none => true
   | some v => s.parts.any fun (p : Partition) => p.vf == v && (match cu with
     | some k => (p.cus ret).contains k
     | none => p.rets.any fun x => x.1 == ret))

/-- Whether a control word names a listed event and, for a link event, an existing link (R430): LINK is ignored for other events. -/
def controlValid (w : Nat) : Bool := eventListed (w % 1024) && (w % 1024 < 0x300 || w / 2 ^ 32 % 32 < 20)

/-- Write a counter's control word: binds it where it is free; OVF clears where 1 is written. -/
def State.configure (s : State) (fn : Option Nat) (ret : Nat) (cu : Option Nat) (idx : Nat) (w : Nat) : State :=
  let bit (k : Nat) : Bool := w.testBit k
  let set (c : Counter) : Counter := { c with
    event := w % 1024, en := bit 10, ovie := bit 11, ovf := c.ovf && !bit 12, vec := w / 2 ^ 13 % 32, link := w / 2 ^ 32 % 32 }
  let at' (c : Counter) : Bool := c.ret == ret && c.cu == cu && c.idx == idx
  if s.counters.any at' then { s with counters := s.counters.map fun c => if at' c then set c else c }
  else { s with counters := s.counters ++ [set { ret, cu, idx, val := 0, event := 0, en := false, ovie := false, ovf := false, vec := 0, link := 0, owner := fn }] }

/-- CTR_CONFIG (R430). Byte 0: 0 reads, 1 writes; bytes 1 to 3: reticle, CU or 255, index; bytes 8 to 15: the control word. -/
def execCtrConfig (cmd : Cmd) (s : State) : Out :=
  whenAccepted s cmd fun s =>
    let f (i n : Nat) : Nat := bytesAt cmd.body i n
    let ret := f 1 1
    let cu := if f 2 1 = 255 then none else some (f 2 1)
    let w := f 8 8
    if cmd.body.length ≠ 16 ∨ 1 < f 0 1 ∨ f 4 4 ≠ 0 then s.refuse cmd 0x86
    else if !s.mayConfigure cmd.fn ret cu (f 3 1) then s.refuse cmd 0x80
    else if f 0 1 = 0 then
      let bs := match s.counters.find? fun (c : Counter) => c.ret = ret ∧ c.cu = cu ∧ c.idx = f 3 1 with
        | some c => leBytes 8 (c.control cmd.fn.isSome)
        | none => leBytes 8 0
      (s.send (.answer cmd.fn bs)).done cmd
    else if !controlValid w then s.refuse cmd 0x86
    else (s.configure cmd.fn ret cu (f 3 1) w).done cmd

/-! ### IDENTIFY (R30, R409) -/

/-- The identity block: 96 fixed bytes, 49 site records, and the node-distance table. -/
def State.identityBlock (s : State) : List Byte :=
  let absent := (List.range 49).foldl (fun n r => n + (if r = 24 ∨ s.ident.absent.contains r then 2 ^ r else 0)) 0
  leBytes 96 (Config.vendorId.toNat + Config.deviceId.toNat * 2 ^ 16 + Config.stepping.toNat * 2 ^ 32 +
    (if s.ident.code46 then 2 ^ 40 else 0) + absent * 2 ^ 48 + Config.romHash.toNat * 2 ^ 128 + Config.serial.toNat * 2 ^ 640) ++
  (List.range (49 * 48)).map siteByte ++
  (List.range (49 * 49)).map fun i => BitVec.ofNat 8 (siteDistance (i / 49) (i % 49))

/-- IDENTIFY: the block goes out beside the completion. -/
def execIdentify (cmd : Cmd) (s : State) : Out :=
  whenAccepted s cmd fun s => (s.send (.answer cmd.fn s.identityBlock)).done cmd

/-! ### Links, the pod and the node table (R351, R390, R413). Body layouts: log 42 -/

/-- LINK_RESTORE: bytes 0 and 1 name the site and the port. The link returns at level 0 under a new route-table version (R390). DESIGN
CHOICE (log 90): one without a wavelength left is refused with 0x87, since it would be retired again at once (R394). -/
def execLinkRestore (cmd : Cmd) (s : State) : Out :=
  whenAccepted s cmd fun s =>
    let site := bytesAt cmd.body 0 1
    let port := bytesAt cmd.body 1 1
    if cmd.body.length ≠ 2 ∨ 49 ≤ site ∨ 20 ≤ port ∨ (port < 4 ∧ meshPeer site port = none) then s.refuse cmd 0x86
    else if !(s.link site port).retired || (isOptical port && 4 ≤ (s.link site port).lost) then s.refuse cmd 0x87
    else
      let ends := linkEnds site port
      let s := ends.foldl (fun (s : State) e => s.modLink e.1 e.2 fun l => { l with
        retired := false, retraining := false, level := 0, levelAt := s.clock, lseq := 0, expect := 0, nakSent := false }) s
      -- the switch of a disabled site stays unpowered (R21)
      let keys := (ends.map fun e => linkKey e.1 e.2).filter fun k => !s.ident.noLinks.contains k
      let s := State.bumpRoutes { s with port := { s.port with out := s.port.out.filter fun k => !keys.contains k } }
      s.done cmd

/-- POD_FORM: bytes 0 and 1 the logical node, 2 the slot, 3 zero, then the nodes of the other 15 slots in ascending slot order,
0xFFFF for an empty one. Each peer's root is authenticated and holds the same slot table (log 9). -/
def execPodForm (cmd : Cmd) (s : State) : Out :=
  whenAccepted s cmd fun s =>
    let node := bytesAt cmd.body 0 2
    let slot := bytesAt cmd.body 2 1
    let others := (List.range 15).map fun i => (if i < slot then i else i + 1, bytesAt cmd.body (4 + 2 * i) 2)
    let peers := others.filter fun x => x.2 != 0xFFFF
    let names := node :: peers.map (·.2)
    if !s.parts.isEmpty then s.refuse cmd 0x87
    else if cmd.body.length ≠ 34 ∨ node = 0xFFFF ∨ 16 ≤ slot ∨ bytesAt cmd.body 3 1 ≠ 0 ∨ names.eraseDups.length ≠ names.length then s.refuse cmd 0x86
    else if !(peers.all fun x => Config.spdmAccepts (1024 + x.2) 0 cmd.body) then s.refuse cmd 0x8A
    else
      let far := s.port.nodes.filter fun (e : NodeEntry) => e.kind == 2 && !names.contains e.node
      let pod := peers.map fun x => ({ node := x.2, kind := 1, slot := x.1 } : NodeEntry)
      -- the node table has 1,024 entries (R351)
      if 1024 < pod.length + far.length then s.refuse cmd 0x89 else
      let s := State.bumpRoutes { s with port := { s.port with node, slot, nodes := pod ++ far }, root := { s.root with bindings := [] } }
      (s.vfs.foldl (fun (s : State) (v : Vf) => s.tellBinding v true) s).done cmd

/-- NODE_TABLE: entries of 4 bytes: the node, then 1 to add or change, 0 to remove, then zero. DESIGN CHOICE (log 88): before the first
POD_FORM the table is taken under a new version all the same, and its entries serve once POD_FORM has given this wafer its number. -/
def execNodeTable (cmd : Cmd) (s : State) : Out :=
  whenAccepted s cmd fun s =>
    let n := cmd.body.length / 4
    let items := (List.range n).map fun i => (bytesAt cmd.body (4 * i) 2, bytesAt cmd.body (4 * i + 2) 1)
    let own (x : Nat) : Bool := x == s.port.node || x == 0xFFFF || s.port.nodes.any fun (e : NodeEntry) => e.kind == 1 && e.node == x
    if n = 0 ∨ cmd.body.length % 4 ≠ 0 ∨ items.any (fun x => own x.1 || 1 < x.2) ∨
        (List.range n).any (fun i => bytesAt cmd.body (4 * i + 3) 1 != 0) then s.refuse cmd 0x86
    else
      let nodes := items.foldl (fun (ns : List NodeEntry) x =>
        let rest := ns.filter fun (e : NodeEntry) => e.node != x.1
        if x.2 = 1 then rest ++ [{ node := x.1, kind := 2, slot := 0 }] else rest) s.port.nodes
      if 1024 < nodes.length then s.refuse cmd 0x89
      else (State.bumpRoutes { s with port := { s.port with nodes } }).done cmd

/-- The first free intermediate slot for a remote peer's reticle: numbers that no reticle has, then the Lodge's, then those of the highest
reticles (log 41). -/
def Vf.freeSlotIA (v : Vf) : Option Nat :=
  ((List.range 15).map (· + 49) ++ lodge :: (List.range 49).reverse).find? fun k =>
    !(v.ranges.any fun (r : Range) => meets r.ia (r.nfr * 65536) (k * 2 ^ 42) (framesPerReticle * 65536))

/-- Write or erase the range by which a function reaches a reticle of a peer on another wafer (R329, R333, R356). -/
def State.peerRange (s : State) (vf node ret : Nat) (add : Bool) : State :=
  let pa : Dword := BitVec.ofNat 64 (node * 2 ^ 48 + ret * 2 ^ 42)
  match s.vf? vf with
  | none => s
  | some v =>
    if add then
      match v.freeSlotIA with
      | some k =>
        if v.ranges.length < 48 && !(v.ranges.any fun r => r.pa == pa) then
          s.modVf vf fun v => { v with ranges := v.ranges ++ [{ w := true, key := 0, ia := k * 2 ^ 42, nfr := framesPerReticle, pa }] }
        else s
      | none => s
    else (v.ranges.filter fun r => r.pa == pa).foldl (fun s r => s.dropRange' vf r) s

/-- Set half of a binding's digest. -/
def setHalf (x : BitVec 512) (hi : Bool) (h : BitVec 256) : BitVec 512 :=
  if hi then h ++ x.extractLsb' 0 256 else x.extractLsb' 256 256 ++ h

/-- Learn half of a binding (R416); its root is told the reticles of the functions here that name it as a peer (R329). -/
def State.learnBinding (s : State) (node vf : Nat) (hi : Bool) (h : BitVec 256) : State :=
  let mine (b : Nat × Nat × BitVec 512) : Bool := b.1 == node && b.2.1 == vf
  let old := ((s.root.bindings.find? mine).map (·.2.2)).getD 0
  let b := (node, vf, setHalf old hi h)
  let s := { s with root := { s.root with bindings := s.root.bindings.filter (fun b => !mine b) ++ [b] } }
  s.vfs.foldl (fun (s : State) (v : Vf) => s.tellPeer v 3 (s.retsOf v.num) b) s

/-- ROOT_MESSAGE (R382, R416): of a pod peer's root only. Operations: 0 a binding ends, 1 and 2 its halves, 3 and 4 a reticle that
a peer of a function here holds, or no longer holds (log 41). -/
def execRootMessage (srcRet srcNode : Nat) (payload : List Byte) (s : State) : Out :=
  whenOk s (srcRet == 24 && s.podNodes.contains srcNode && !s.root.fenced && 4 ≤ payload.length) fun s =>
    let vf := bytesAt payload 0 2
    let ret := bytesAt payload 3 1
    let half : BitVec 256 := BitVec.ofNat 256 (bytesAt payload 4 32)
    match bytesAt payload 2 1 with
    | 0 => { s with root := { s.root with bindings := s.root.bindings.filter fun b => !(b.1 == srcNode && b.2.1 == vf) } }
    | 1 => s.learnBinding srcNode vf false half
    | 2 => s.learnBinding srcNode vf true half
    | 3 => if ret < 49 then s.peerRange vf srcNode ret true else s
    | 4 => s.peerRange vf srcNode ret false
    | _ => s

/-! ### SUBMIT and CANCEL (R295, R298, R413, R434) -/

/-- Read a job descriptor: its phases, or the code that ends the job. -/
def State.readJob (s : State) (v : Vf) (va : Nat) : Except Nat (List (Nat × Nat)) :=
  match s.readVA v va 16 with
  | none => .error cTRANSLATION_FAULT
  | some h =>
    if bytesAt h 2 14 ≠ 0 then .error 0x86
    else
      let n := bytesAt h 0 2
      match s.readVA v (va + 16) (16 * n) with
      | none => .error cTRANSLATION_FAULT
      | some bs =>
        let ps := (List.range n).map fun i => (bytesAt bs (16 * i) 8, bytesAt bs (16 * i + 8) 8)
        -- a phase has at most 65,535 graphs (R295)
        if ps.any fun p => 65535 < p.2 then .error 0x86 else .ok ps

/-- SUBMIT: the job is created, and its first graph opened. A descriptor that cannot be read fails the job. -/
def execSubmit (cmd : Cmd) (s : State) : Out :=
  whenAccepted s cmd fun s =>
    match s.tenant cmd, s.partByHandle cmd.handle with
    | some v, some p =>
      let va := bytesAt cmd.body 0 8
      if p.vf ≠ v.num then s.refuse cmd 0x80
      else if cmd.body.length ≠ 16 ∨ va % 16 ≠ 0 ∨ bytesAt cmd.body 8 8 ≠ 0 then s.refuse cmd 0x86
      else if 16 ≤ (s.jobs.filter fun (j : Job) => j.part == p.num && !j.done).length then s.refuse cmd 0x83
      else
        match s.readJob v va with
        | .error 0x86 => s.refuse cmd 0x86
        | r =>
          let q := s.drawHandle
          let h := q.2.toNat
          let s := q.1.close cmd 1 0 (some q.2)
          let phases := match r with
            | .ok ps => ps
            | .error _ => []
          let fail := match r with
            | .ok _ => none
            | .error c => some c
          let j : Job := { handle := h, vf := v.num, part := p.num, seq := cmd.seq, phases, fail }
          State.advanceJob { s with jobs := s.jobs ++ [j] } h
    | _, _ => s.refuse cmd 0x80

/-- What CANCEL names (R434). -/
structure CancelBody where
  level : Nat
  phase : Nat
  graph : Nat
  node : Nat

/-- A CANCEL body; none where a field is out of range or one that the level does not use is set. -/
def CancelBody.parse (bs : List Byte) : Option CancelBody :=
  let x : CancelBody := { level := bytesAt bs 0 1, phase := bytesAt bs 4 2, graph := bytesAt bs 6 2, node := bytesAt bs 8 2 }
  if bs.length ≠ 16 ∨ 3 < x.level ∨ bytesAt bs 1 3 ≠ 0 ∨ bytesAt bs 10 6 ≠ 0 ∨ (x.level = 3 ∧ x.phase ≠ 0) ∨ (2 ≤ x.level ∧ x.graph ≠ 0) ∨
      (1 ≤ x.level ∧ x.node ≠ 0) then none
  else some x

/-- The nodes of a graph of a job: as it was read when it started, or as its descriptor stands; none where that cannot be read. -/
def State.jobNodes (s : State) (j : Job) (phase graph : Nat) : Option (List Node) :=
  let here := if phase = j.phase ∧ graph = j.graph then s.graphs.find? fun (g : Graph) => g.job == j.handle && g.started else none
  match here, s.vf? j.vf, j.phases[phase]? with
  | some g, _, _ => some g.nodes
  | none, some v, some p => (s.readVA v (p.1 + 8 * graph) 8).bind fun bs => (s.readGraph v (leNat bs)).toOption.map (·.1)
  | _, _, _ => none

/-- Whether a cancel's indices lie within the job, and a node is a launch node (R434). Of a graph that cannot be read, DESIGN CHOICE
(log 87), any node below 4,096 passes. -/
def State.cancelNames (s : State) (j : Job) (x : CancelBody) : Bool :=
  (x.level == 3 || decide (x.phase < j.phases.length)) &&
  (2 ≤ x.level || (j.phases[x.phase]?).any fun p => decide (x.graph < p.2)) &&
  (1 ≤ x.level || (match s.jobNodes j x.phase x.graph with
    | some ns => (ns[x.node]?).any fun n => n.kind == 0
    | none => x.node < 4096))

/-- Where a place of the job lies: 0 past, 1 present, 2 to come. -/
def Job.when (j : Job) (x : CancelBody) : Nat :=
  if x.level = 3 then 1
  else if x.level = 2 then (if x.phase < j.phase then 0 else if x.phase = j.phase then 1 else 2)
  else if x.phase < j.phase ∨ (x.phase = j.phase ∧ x.graph < j.graph) then 0
  else if x.phase = j.phase ∧ x.graph = j.graph then 1 else 2

/-- Cancel a level of a running job (R298): what runs is cancelled now, what has not started when it would start. DESIGN CHOICE (log 87): a
graph that has been opened and not started is finished at once with STATE cancelled in its header; of one that lies later nothing is
written. -/
def State.cancelJob (s : State) (j : Job) (x : CancelBody) : State :=
  let later (s : State) : State := s.modJob j.handle fun j => { j with cancels := j.cancels ++ [(x.level, x.phase, x.graph, x.node)] }
  if j.done then s
  else match j.when x, s.graphs.find? fun (g : Graph) => g.job = j.handle with
    | 0, _ => s
    | 1, some g =>
      if x.level = 0 then
        if g.started then (s.cancelNode g.id x.node).settleGraph g.id else later s
      else ((s.cancelGraph g.id x.level).modGraph g.id fun g => { g with started := true }).settleGraph g.id
    | _, _ => later s

/-- CANCEL (R298, R434). -/
def execCancel (cmd : Cmd) (s : State) : Out :=
  whenAccepted s cmd fun s =>
    match s.tenant cmd, s.jobs.find? fun (j : Job) => j.handle = cmd.handle.toNat with
    | some v, some j =>
      if j.vf ≠ v.num then s.refuse cmd 0x80
      else match CancelBody.parse cmd.body with
        | none => s.refuse cmd 0x86
        | some x => if s.cancelNames j x then (s.cancelJob j x).done cmd else s.refuse cmd 0x86
    | _, _ => s.refuse cmd 0x80

/-! ### Stage-1 commands (R326, R333, R434) -/

/-- SET_S1ROOT: writes S1ROOT, and invalidates every virtual address. -/
def execSetS1root (cmd : Cmd) (s : State) : Out :=
  whenAccepted s cmd fun s =>
    match s.tenant cmd with
    | none => s.refuse cmd 0x80
    | some v =>
      let root := bytesAt cmd.body 0 8
      if cmd.handle ≠ v.handle then s.refuse cmd 0x80
      else if cmd.body.length ≠ 8 ∨ root % 512 ≠ 0 ∨ 2 ^ 48 ≤ root then s.refuse cmd 0x86
      else ((s.runs cmd).modVf v.num fun v => { v with s1root := root }).startInval { id := 0, cause := 2, vf := v.num, lo := 0, hi := 2 ^ 52, seq := cmd.seq }

/-- S1_INVAL: invalidates a range of virtual addresses. -/
def execS1Inval (cmd : Cmd) (s : State) : Out :=
  whenAccepted s cmd fun s =>
    match s.tenant cmd with
    | none => s.refuse cmd 0x80
    | some v =>
      let va := bytesAt cmd.body 0 8
      let len := bytesAt cmd.body 8 8
      if cmd.handle ≠ v.handle then s.refuse cmd 0x80
      else if cmd.body.length ≠ 16 ∨ len = 0 ∨ 2 ^ 52 < va + len then s.refuse cmd 0x86
      else (s.runs cmd).startInval { id := 0, cause := 2, vf := v.num, lo := va, hi := va + len, seq := cmd.seq }

end Sys2Proof.Machine
end

