-- ==== Sys2Proof/Machine/Control.lean ====
section
/-! DEFINITION. Control, plane and synchronisation instructions (R127 to R156) and the task instructions as a coach
issues them (R153 to R155, R317). -/

namespace Sys2Proof.Machine

/-! ### SYS (R127 to R129) -/

/-- NOP (R128). -/
def execNop (s : State) : Out := .next s

/-- YIELD n: the fragment is not ready for n cycles after the bundle (R128). -/
def execYieldN (n : BitVec 8) (s : State) : Out :=
  .next (s.onIssue fun is =>
    if is.qon then { is with yieldN := some (max n.toNat (is.yieldN.getD 0)) } else is)

/-- A special register as it stood before the chained group (R44, R52), for a lane; `hi` selects the second word of
CLOCK. -/
def Issue.special (is : Issue) (clock node : Nat) (num : Nat) (hi : Bool) (l : Nat) : Word :=
  let c := is.snap
  let t := is.task
  match num with
  | 0 => BitVec.ofNat 32 (l - 8 * c.octet0)
  | 1 => BitVec.ofNat 32 (l / 8)
  | 2 => BitVec.ofNat 32 c.num
  | 3 => BitVec.ofNat 32 t.index
  | 4 => BitVec.ofNat 32 t.tidx.1
  | 5 => BitVec.ofNat 32 t.tidx.2.1
  | 6 => BitVec.ofNat 32 t.tidx.2.2
  | 7 => (c.piget l).zeroExtend 32
  | 8 => BitVec.ofNat 32 (2 ^ is.frag.ctx.plog)
  | 9 => c.gmode
  | 10 => 0
  | 11 => c.exv
  | 12 => if hi then hiWord (BitVec.ofNat 64 clock) else loWord (BitVec.ofNat 64 clock)
  | 13 => BitVec.ofNat 32 t.ret
  | 14 => BitVec.ofNat 32 node
  | 15 => c.cpstat
  | 16 => BitVec.ofNat 32 ((laneList c.parked).length % 256 + 256 * is.oldest)
  | n => c.gget (n - 64)

/-- SRD d, sel (R52, R128, R129). -/
def execSrd (gdst : Bool) (d num : BitVec 7) (s : State) : Out :=
  .next (s.onIssue fun is =>
    if is.qon then
      let val (hi : Bool) (l : Nat) : Word := is.special s.clock s.port.node num.toNat hi l
      let two := num == 12
      if gdst then
        is.onCoach fun c =>
          let c := c.gput d.toNat (val false (lowLane is.pass))
          if two then c.gput (d.toNat + 1) (val true 0) else c
      else
        is.onCoach fun c =>
          let c := c.vputs d.toNat (laneList is.pass) (val false)
          if two then c.vputs (d.toNat + 1) (laneList is.pass) (val true) else c
    else is)

/-- SWR sel, gS: GMODE, SRSEED or EXV (R52, R74, R76, R78). -/
def execSwr (src num : BitVec 7) (s : State) : Out :=
  .next (s.onIssue fun is =>
    if is.qon then
      let x := is.snap.gget src.toNat
      if num = 9 then
        if gmRM x = 0 ∨ gmRM x = 7 then is.raise cILLEGAL_FIELD
        else is.onCoach fun c => { c with gmode := swrGmode x is.flags }
      else if num = 10 then
        is.onCoach fun c =>
          (laneList c.lanes).foldl (fun c l => c.srput l (srSeed x is.task.ret is.task.cu l)) c
      else is.onCoach fun c => { c with exv := x }
    else is)

/-- TRAP (R118, R128). -/
def execTrap (s : State) : Out := .next (s.onIssue fun is => if is.qon then is.raise cTRAP else is)

/-- BRKPT (R118, R128). -/
def execBrkpt (s : State) : Out := .next (s.onIssue fun is => if is.qon then is.raise cBREAKPOINT else is)

/-- CTRRD d, m (R128, R129, R429). -/
def execCtrrd (gdst : Bool) (d : BitVec 7) (m : BitVec 5) (s : State) : Out :=
  .next (s.onIssue fun is =>
    if is.qon then
      let x := s.ctrRead is.task.ret is.task.cu is.task.vf m.toNat
      if gdst then is.onCoach fun c => (c.gput d.toNat (loWord x)).gput (d.toNat + 1) (hiWord x)
      else is.onCoach fun c =>
        (c.vputs d.toNat (laneList is.pass) fun _ => loWord x).vputs (d.toNat + 1) (laneList is.pass) fun _ => hiWord x
    else is)

/-! ### Transfers (R130 to R135) -/

/-- Target of a B-format word (R48). -/
def Issue.target (is : Issue) (disp : BitVec 23) : Word := is.frag.off + (disp.signExtend 32 <<< 4)

/-- Take a control transfer at the next fetch (R38, R47). -/
def Issue.transfer (is : Issue) (n : Next) : Issue :=
  { is with next := n, frag := { is.frag with xfer := some { off := is.frag.off, slot := is.cur.slot, hdr := is.frag.ctx.hdr } } }

/-- BRA label (R131). -/
def execBra (disp : BitVec 23) (s : State) : Out :=
  .next (s.onIssue fun is => if is.qon then is.transfer (.jump (is.target disp)) else is)

/-- BRU label (R131). -/
def execBru (disp : BitVec 23) (s : State) : Out :=
  .next (s.onIssue fun is => if is.qon then is.transfer (.jump (is.target disp)) else is)

/-- Entries of the split table that are taken: the fragments, and the entry of every split whose bundle is held before its end
(R47, R100). -/
def Coach.entries (c : Coach) : Nat :=
  c.frags.length + (c.frags.filter fun f => match f.next with
    | .split .. => f.mid
    | _ => false).length

/-- BRD label (R100, R131): its new fragment's entry is taken when it issues. -/
def execBrd (disp : BitVec 23) (s : State) : Out :=
  .next (s.onIssue fun is =>
    let t := is.active &&& is.snap.penable is.cur.pred
    if t = 0 then is
    else if t = is.active then is.transfer (.jump (is.target disp))
    else if 8 ≤ is.coach.entries then is.raise cSPLIT_OVERFLOW
    else is.transfer (.split t (is.target disp)))

/-- The common part of CALL and CALLI (R134). -/
def Issue.callTo (s : State) (is : Issue) (hdr : Dword) : Issue :=
  if hdr.toNat % 16 ≠ 0 then is.raise cMISALIGNED_TARGET hdr
  else match s.readHeader is.task hdr with
    | none => is.raise cILLEGAL_FIELD
    | some ctx => if 16 ≤ is.frag.calls.length then is.raise cILLEGAL_FIELD else is.transfer (.call ctx)

/-- CALL name (R132, R134). -/
def execCall (disp : BitVec 23) (s : State) : Out :=
  .next (s.onIssue fun is =>
    if is.qon then
      is.callTo s (is.frag.ctx.base + is.frag.off.zeroExtend 64 + (disp.signExtend 64 <<< 4))
    else is)

/-- CALLI gN (R134). -/
def execCalli (k : BitVec 5) (s : State) : Out :=
  .next (s.onIssue fun is => if is.qon then is.callTo s (is.snap.gpair (2 * k.toNat)) else is)

/-- RET (R134, R135). -/
def execRet (s : State) : Out :=
  .next (s.onIssue fun is => if is.qon then is.transfer .ret else is)

/-- EXIT (R135). -/
def execExit (s : State) : Out :=
  .next (s.onIssue fun is => if is.qon then is.transfer .exit else is)

/-- BRXU gN (R134). -/
def execBrxu (k : BitVec 5) (s : State) : Out :=
  .next (s.onIssue fun is =>
    if is.qon then
      is.transfer (.jump (is.snap.gget (2 * k.toNat) + (is.snap.gget (2 * k.toNat + 1) <<< 4)))
    else is)

/-! ### Convergence, planes, resizing (R136 to R141) -/

/-- RCVSET rbk, label (R136); fragments held at RCVWAIT rbk are measured against the new contents at once (R137), but stay
held in a stopping or ending task (R156, R316). -/
def execRcvset (k : BitVec 2) (disp : BitVec 23) (s : State) : Out :=
  .next (s.onIssue fun is =>
    if is.qon then
      is.onCoach fun c =>
        let c := c.rbPut k (some { off := is.target disp, hdr := is.frag.ctx.hdr, mask := is.frag.mask })
        if is.task.stopSince.isSome || is.task.tend then c else c.settleRcv s.clock k
    else is)

/-- RCVWAIT rbk (R137): holds where rbk names this bundle. -/
def execRcvwait (k : BitVec 2) (s : State) : Out :=
  .next (s.onIssue fun is =>
    if is.qon && (is.coach.rbGet k).any is.frag.atRcv then { is with hold := .rcv k } else is)

/-- PLSET n (R139). -/
def execPlset (n : BitVec 3) (s : State) : Out :=
  .next (s.onIssue fun is =>
    is.onCoach fun c => { c with pi := (laneList is.enabled).foldl (fun t l => tput 0 t l n) c.pi })

/-- PLSETR vS (R139). -/
def execPlsetr (src : BitVec 7) (s : State) : Out :=
  .next (s.onIssue fun is =>
    let plane (l : Nat) : BitVec 3 := (is.snap.vget src.toNat l).extractLsb' 0 3
    is.onCoach fun c => { c with pi := (laneList is.enabled).foldl (fun t l => tput 0 t l (plane l)) c.pi })

/-- CSPLIT w (R104, R140). -/
def execCsplit (wl : BitVec 2) (s : State) : Out :=
  .next (s.onIssue fun is =>
    if is.qon then
      match is.splitFault wl with
      | some code => is.raise code
      | none => { is.onCoach (fun c => c.sealOpen is.site s.clock) with hold := .csplit (2 ^ wl.toNat) }
    else is)

/-- CFUSE (R105, R140). -/
def execCfuse (s : State) : Out :=
  .next (s.onIssue fun is =>
    if is.qon then
      if is.coach.frags.length ≠ 1 then is.raise cCONVERGENCE_REQUIRED
      else if is.coach.sibs.isEmpty then is
      else { is.onCoach (fun c => c.sealOpen is.site s.clock) with hold := .cfuse }
    else is)

/-- A coach's only fragment and the width of the CSPLIT at which it is held with its counters at zero. -/
def Coach.splitReady (c : Coach) : Option (Frag × Nat) :=
  match c.frags with
  | [f] => match f.hold with
    | .csplit w => if c.idle then some (f, w) else none
    | _ => none
  | _ => none

/-- A number that no sibling set of the task has. -/
def Task.freshSet (t : Task) : Nat := (t.coaches.flatMap fun c => c.sibs.map (·.id + 1)).foldl max 0

/-- Whether a coach held at CSPLIT may go on to its split (R156): in a task that neither stops nor ends, and in one that stops
because an operation of the coach itself ended in an error that parked a lane of it. -/
def Task.splits (t : Task) (c : Coach) : Bool := !t.tend && !t.halted && (t.stopSince.isNone || c.parked != 0)

/-- CSPLIT_COMPLETE: the counters have reached zero, and the siblings start (R104, R141). -/
def execCsplitComplete (t c : Nat) (s : State) : Out :=
  whenOk s ((s.coach? t c).any fun x => x.2.splitReady.isSome && x.1.splits x.2) fun s =>
    match s.coach? t c with
    | some (tk, co) => match co.splitReady with
      | some (f, w) => s.modTask t fun tk' => tk'.splitCoach s.clock w tk.freshSet co f
      | none => s
    | none => s

/-! ### Barriers (R107 to R111, R142 to R144) -/

/-- The barrier id of a BAR slot (R142). -/
def Issue.barId (is : Issue) (i : Bool) (id : BitVec 8) : Nat :=
  if i then (is.snap.gget id.toNat).toNat else id.toNat

/-- Place the fragment at a barrier (R108, R143). -/
def barHold (sync i : Bool) (id : BitVec 8) (k : BitVec 5) (s : State) : Out :=
  .next (s.onIssue fun is =>
    if is.qon then
      let n := is.barId i id
      if is.task.shape.barriers ≤ n then is.raise cILLEGAL_FIELD
      else { is with hold := .bar sync n k.toNat }
    else is)

/-- BAR.SYNC n, k (R109). -/
def execBarSync (i : Bool) (id : BitVec 8) (k : BitVec 5) (s : State) : Out := barHold true i id k s

/-- BAR.ARR n, k (R109). -/
def execBarArr (i : Bool) (id : BitVec 8) (k : BitVec 5) (s : State) : Out := barHold false i id k s

/-- BAR.WAIT n (R109, R143): holds until the generation of the coach's latest BAR.ARR on n has completed. -/
def execBarWait (i : Bool) (id : BitVec 8) (s : State) : Out :=
  .next (s.onIssue fun is =>
    if is.qon then
      let n := is.barId i id
      if is.task.shape.barriers ≤ n then is.raise cILLEGAL_FIELD
      else match is.coach.arrived.find? fun x => x.1 = n with
        | some (_, g) => if g ≤ (is.task.barrier n).gen then is else { is with hold := .gen false n g }
        | none => is
    else is)

/-- The k of a fragment held at a BAR.SYNC or BAR.ARR slot of a barrier. -/
def Frag.barK (f : Frag) (id : Nat) : Option Nat :=
  match f.hold with
  | .bar _ n k => if n = id then some k else none
  | _ => none

/-- Fragments of a coach that have active lanes. -/
def Coach.activeFrags (c : Coach) : List Frag := c.frags.filter fun f => c.activeOf f != 0

/-- Whether an operation takes part in a barrier's release: everything the coach asked of memory (R110, R236). -/
def Op.isMemory (o : Op) : Bool :=
  match o.body with
  | .load .. => true
  | .store .. => true
  | .atom .. => true
  | .ldaxis .. => true
  | .pin .. => true
  | .fence .. => true
  | _ => false

/-- Whether every live lane of the coach stands at a BAR slot that names the barrier, with its accesses performed
(R108, R110, R236). DESIGN CHOICE (log 75): a fragment held at BAR.WAIT, which makes no arrival (R109), does not count as
standing there. -/
def Coach.standsAt (c : Coach) (id : Nat) : Bool :=
  !c.stopped && !c.activeFrags.isEmpty && (c.activeFrags.all fun f => (f.barK id).isSome) &&
    c.ops.all fun o => o.done || !o.isMemory

/-- The fragment whose hold completed the arrival: the one held last (R108). -/
def lastHeld (fs : List Frag) : Option Frag :=
  fs.foldl (fun a f => match a with
    | none => some f
    | some g => if g.heldAt ≤ f.heldAt then some f else some g) none

/-- A coach arrives at a barrier (R107 to R109), or its arrival raises ILLEGAL_FIELD. -/
def Task.arrive (t : Task) (now id : Nat) (c : Coach) : Task :=
  let fs := c.activeFrags
  let ks := (fs.filterMap fun f => f.barK id).eraseDups
  let b := t.barrier id
  let k := ks.headD 0
  if ks.length ≠ 1 || (b.count ≠ 0 && b.k ≠ k) then
    match lastHeld fs with
    | some f => t.fetchFault now c
        (fetchRec c f cILLEGAL_FIELD f.heldPlane f.heldSlot f.heldLow f.off f.ctx.hdr 0)
    | none => t
  else
    let done := b.count + 1 = k
    let t := t.setBarrier id (if done then { count := 0, k, gen := b.gen + 1 } else { count := b.count + 1, k, gen := b.gen })
    let arr := fs.any fun f => f.hold == .bar false id k
    t.modCoach c.num fun c =>
      { c with
        frags := c.frags.map fun f => match f.hold with
          | .bar sync _ _ => { f with hold := .gen true id (if sync then b.gen + 1 else 0) }
          | _ => f
        arrived := if arr then c.arrived.filter (fun x => x.1 != id) ++ [(id, b.gen + 1)] else c.arrived }

/-- BARRIER_ARRIVAL (R108 to R110). A task with a parked lane or stopped coach releases no barrier (R111, R156). -/
def execBarrierArrival (t c id : Nat) (s : State) : Out :=
  whenOk s ((s.coach? t c).any fun x => x.1.stopSince.isNone && !x.1.tend && x.1.fate.isNone && x.2.standsAt id) fun s =>
    match s.coach? t c with
    | some (_, co) => s.modTask t fun tk => (tk.arrive s.clock id co).settle s.clock
    | none => s

/-! ### Waits and holds that end (R6, R145, R212) -/

/-- Whether every counter is at or below its threshold, 31 ignoring it (R7, R145). -/
def Coach.below (c : Coach) (l sc cc t n : BitVec 5) : Bool :=
  let ok (th : BitVec 5) (k : Cls) : Bool := th == 31 || c.count k ≤ th.toNat
  ok l .l && ok sc .s && ok cc .c && ok t .t && ok n .n

/-- WAIT l, s, c, t, n (R145). -/
def execWait (l sc cc t n : BitVec 5) (s : State) : Out :=
  .next (s.onIssue fun is =>
    if !is.qon then is
    else if is.coach.below l sc cc t n then is.onCoach fun c => c.observe is.frag.mask l sc cc t n
    else { is with hold := .wait l sc cc t n })

/-- Whether the hold of a fragment at WAIT may end. -/
def Coach.waitOver (c : Coach) (f : Frag) : Bool :=
  match f.hold with
  | .wait l sc cc t n => c.below l sc cc t n
  | _ => false

/-- Whether the hold of a fragment at a full counter may end (R6). -/
def Coach.counterOver (c : Coach) (f : Frag) : Bool :=
  match f.hold with
  | .counter k n => c.count k + n ≤ 63
  | _ => false

/-- Whether the hold of a fragment at a full store queue may end (R212). -/
def Coach.roomOver (c : Coach) (f : Frag) : Bool := f.hold == .queue && c.queued.length < 16

/-- End the hold of one fragment when a condition holds. -/
def endHold (t c age : Nat) (ends : Coach → Frag → Bool) (s : State) : Out :=
  whenOk s ((s.coach? t c).any fun x => (x.2.frag? age).any (ends x.2)) fun s =>
    s.modCoach t c fun co => co.release s.clock 0 false fun f => f.age == age

/-- What the WAIT at which a fragment is held observes (R46). -/
def Coach.observeAt (c : Coach) (age : Nat) : Coach :=
  match c.frag? age with
  | some f => match f.hold with
    | .wait l sc cc t n => c.observe f.mask l sc cc t n
    | _ => c
  | none => c

/-- WAIT_RELEASE (R145). -/
def execWaitRelease (t c age : Nat) (s : State) : Out :=
  whenOk s ((s.coach? t c).any fun x => (x.2.frag? age).any x.2.waitOver) fun s =>
    s.modCoach t c fun co => (co.observeAt age).release s.clock 0 false fun f => f.age == age

/-- COUNTER_HOLD_RELEASE (R6). -/
def execCounterHoldRelease (t c age : Nat) (s : State) : Out := endHold t c age Coach.counterOver s

/-- STORE_QUEUE_ROOM (R212). -/
def execStoreQueueRoom (t c age : Nat) (s : State) : Out := endHold t c age Coach.roomOver s

/-! ### Loops (R147 to R149) -/

/-- The STEP words that follow a LOOP in its bundle (R147). -/
def Issue.stepWords (is : Issue) (ns : Nat) : List StepWord :=
  ((is.items.filter fun it => is.cur.slot < it.slot && isStep it.word).take ns).map fun it =>
    { file := it.word.getLsbD 24, reg := bits it.word 17 7, inc := bits it.word 0 17 }

/-- LOOP gT, B (R149). -/
def execLoop (b t : BitVec 6) (ns : BitVec 2) (s : State) : Out :=
  .next (s.onIssue fun is =>
    if is.qon then
      let f := is.frag
      let trips := is.snap.gget t.toNat
      let stop := f.off.toNat + 16 * b.toNat
      let inner := match f.loops with
        | e :: _ => e.depth == f.calls.length && e.stop.toNat < stop
        | [] => false
      if 16 * f.ctx.len ≤ stop || 4 ≤ f.loops.length || inner then is.raise cILLEGAL_FIELD
      else if trips = 0 then { is with next := .skip (BitVec.ofNat 32 (stop + 16)) }
      else
        let e : LoopEntry := { start := f.off + 16, stop := BitVec.ofNat 32 stop, left := trips,
                               steps := is.stepWords ns.toNat, depth := f.calls.length }
        { is with frag := { f with loops := e :: f.loops } }
    else is)

/-- STEP: a STEP word acts only through its LOOP (R149). -/
def execStep (_file : Bool) (_reg : BitVec 7) (_inc : BitVec 17) (s : State) : Out := .next s

/-! ### Task instructions (R153 to R155, R317) -/

/-- TEND (R154, R316): from its chained group on no coach of the task fetches another bundle; the slots after it in its own
bundle issue as far as no hold stops them. -/
def execTend (s : State) : Out :=
  .next (s.onIssue fun is =>
    if is.qon then
      let is := is.transfer .tend
      { is with task := { is.task with tend := true }, coach := { is.coach with tended := true } }
    else is)

/-- TSPAWN gN: checked at issue and handed to the dispatcher (R155, R317). -/
def execTspawn (k : BitVec 5) (s : State) : Out :=
  .next (s.onIssue fun is =>
    if is.qon then
      let va := is.snap.gpair (2 * k.toNat)
      let l := lowLane is.active
      if va.toNat % 64 ≠ 0 then is.park s.clock l cMISALIGNED_ACCESS va
      else if (is.task.extent? .read va.toNat 64).isNone then is.park s.clock l cWINDOW_VIOLATION va
      else { is with task := { is.task with
        signals := is.task.signals ++ [{ coach := is.coach.num, seq := is.coach.seq, spawn := true, val := va }] } }
    else is)

/-- TSIG gN: handed to the dispatcher (R155, R319). -/
def execTsig (g : BitVec 6) (s : State) : Out :=
  .next (s.onIssue fun is =>
    if is.qon then
      { is with task := { is.task with signals := is.task.signals ++
        [{ coach := is.coach.num, seq := is.coach.seq, spawn := false, val := (is.snap.gget g.toNat).zeroExtend 64 }] } }
    else is)

end Sys2Proof.Machine
end

