-- ==== Sys2Proof/Machine/Exchange.lean ====
section
/-! DEFINITION. Lane exchange and coach-wide operations (R177 to R182). Lanes are numbered within the coach here, as
the LANE register numbers them. Registers are read as they stood before the chained group (R44, log 11). -/

namespace Sys2Proof.Machine

/-- Participants of a cross-lane word (R178). -/
def Issue.parts (is : Issue) : Lanes := is.enabled

/-- The CU lane of a coach lane. -/
def Coach.cuLane (c : Coach) (l : Nat) : Nat := 8 * c.octet0 + l

/-- XCH (R179): `src` gives the coach lane that a participant names, if any. -/
def xchOp (d a b : BitVec 7) (src : Issue → Nat → Word → Option Nat) (s : State) : Out :=
  .next (s.onIssue fun is =>
    let o := 8 * is.coach.octet0
    let val (l : Nat) : Word :=
      match src is (l - o) (is.snap.vget b.toNat l) with
      | some k =>
        if k < 8 * is.coach.width && is.active.getLsbD (o + k) then is.snap.vget a.toNat (o + k)
        else is.snap.vget a.toNat l
      | none => is.snap.vget a.toNat l
    is.onCoach fun c => c.vputs d.toNat (laneList is.parts) val)

def execIdxO (d a b : BitVec 7) (s : State) : Out :=
  xchOp d a b (fun _ l x => some (8 * (l / 8) + field x 0 3)) s
def execIdxC (d a b : BitVec 7) (s : State) : Out := xchOp d a b (fun _ _ x => some x.toNat) s
def execUpC (d a b : BitVec 7) (s : State) : Out :=
  xchOp d a b (fun _ l x => if l < x.toNat then none else some (l - x.toNat)) s
def execDownC (d a b : BitVec 7) (s : State) : Out := xchOp d a b (fun _ l x => some (l + x.toNat)) s
def execXorC (d a b : BitVec 7) (s : State) : Out := xchOp d a b (fun _ l x => some (Nat.xor l x.toNat)) s
def execBcastC (d a : BitVec 7) (s : State) : Out :=
  xchOp d a 0 (fun is _ _ => some (lowLane is.parts - 8 * is.coach.octet0)) s

/-- Whether a group-file result is written: under the always-false predicate the slot takes no effect (R42, R180,
log 21). -/
def Issue.takesEffect (is : Issue) : Bool := is.cur.pred != 0xF

/-- Participants in which pA holds. -/
def Issue.votes (is : Issue) (pa : BitVec 3) : Lanes := is.parts &&& is.snap.pget pa

def voteQ (qd : BitVec 3) (f : Issue → Bool) (s : State) : Out :=
  .next (s.onIssue fun is => if is.takesEffect then is.onCoach fun c => c.qput qd (f is) else is)

def voteG (gd : BitVec 6) (f : Issue → Word) (s : State) : Out :=
  .next (s.onIssue fun is => if is.takesEffect then is.onCoach fun c => c.gput gd.toNat (f is) else is)

def execVoteAny (qd pa : BitVec 3) (s : State) : Out := voteQ qd (fun is => is.votes pa != 0) s
def execVoteAll (qd pa : BitVec 3) (s : State) : Out := voteQ qd (fun is => is.votes pa == is.parts) s

/-- VOTE.BALLOT gD, pA: the pair g(D+1):g(D) by coach lane (R180). -/
def execVoteBallot (gd : BitVec 6) (pa : BitVec 3) (s : State) : Out :=
  .next (s.onIssue fun is =>
    if is.takesEffect then
      let m := is.votes pa >>> (8 * is.coach.octet0)
      is.onCoach fun c => (c.gput gd.toNat (loWord m)).gput (gd.toNat + 1) (hiWord m)
    else is)

def execVoteCount (gd : BitVec 6) (pa : BitVec 3) (s : State) : Out :=
  voteG gd (fun is => BitVec.ofNat 32 (laneList (is.votes pa)).length) s
def execVoteFirst (gd : BitVec 6) (pa : BitVec 3) (s : State) : Out :=
  voteG gd (fun is => match laneList (is.votes pa) with
    | [] => 0xFFFFFFFF#32
    | l :: _ => BitVec.ofNat 32 (l - 8 * is.coach.octet0)) s

/-- Combine two values of a reduction (R181). `none` is the skipped identity of FMIN and FMAX. -/
def rdcCombine (op : BitVec 3) (x y : Option Word) : Option Word :=
  match x, y with
  | none, y => y
  | x, none => x
  | some x, some y =>
    some (match op.toNat with
      | 0 => x + y
      | 1 => addRNE x y
      | 2 => if x.slt y then x else y
      | 3 => if x.slt y then y else x
      | 4 => BitVec.ofNat 32 (fFP32.minmax false false false x.toNat y.toNat).code
      | 5 => BitVec.ofNat 32 (fFP32.minmax false true false x.toNat y.toNat).code
      | 6 => x &&& y
      | _ => x ||| y)

/-- Identity of a reduction (R181). -/
def rdcIdentity (op : BitVec 3) : Option Word :=
  match op.toNat with
  | 0 => some 0
  | 1 => some 0x80000000#32
  | 2 => some 0x7FFFFFFF#32
  | 3 => some 0x80000000#32
  | 4 => none
  | 5 => none
  | 6 => some 0xFFFFFFFF#32
  | _ => some 0

/-- One stage of a tree over neighbours (R181, R375): an element without a partner stands. -/
def treeStage {α : Type} (f : α → α → α) (xs : List α) : List α :=
  match xs with
  | x :: y :: rest => f x y :: treeStage f rest
  | xs => xs

/-- The whole tree: stages until one element is left; `fuel` is at least the log of the length. -/
def treeFold {α : Type} (f : α → α → α) (fuel : Nat) (xs : List α) : List α :=
  match fuel with
  | 0 => xs
  | fuel + 1 => treeFold f fuel (treeStage f xs)

/-- RDC.op gD, vA (R181). A minimum or maximum over nothing, or over NaNs only, is the default NaN. -/
def execRdc (op : BitVec 3) (gd : BitVec 6) (a : BitVec 7) (s : State) : Out :=
  voteG gd (fun is =>
    let o := 8 * is.coach.octet0
    let xs := (List.range (8 * is.coach.width)).map fun i =>
      if is.parts.getLsbD (o + i) then some (is.snap.vget a.toNat (o + i)) else rdcIdentity op
    match treeFold (rdcCombine op) 6 xs with
    | some x :: _ =>
      if (op = 4 || op = 5) && (fFP32.decode x.toNat).isNan then 0x7FC00000#32 else x
    | _ => 0x7FC00000#32) s

/-- PRFX (R182): running sums in ascending lane order. -/
def execPrfx (form : BitVec 2) (d a : BitVec 7) (s : State) : Out :=
  .next (s.onIssue fun is =>
    let fp := form.getLsbD 1
    let excl := form.getLsbD 0
    let step (acc : Issue × Word) (l : Nat) : Issue × Word :=
      let x := is.snap.vget a.toNat l
      let t := if fp then addRNE acc.2 x else acc.2 + x
      (acc.1.onCoach fun c => c.vput d.toNat l (if excl then acc.2 else t), t)
    ((laneList is.parts).foldl step (is, if fp then 0x80000000#32 else 0)).1)

end Sys2Proof.Machine
end

