-- ==== Sys2Proof/Machine/Integer.lean ====
section
/-! DEFINITION. Integer instructions (R161 to R169). None reads or sets a GMODE flag (R65). -/

namespace Sys2Proof.Machine

/-- Clamp an integer to the I32 range (R161). -/
def clamp32 (t : Int) : Word :=
  if 2147483647 < t then 0x7FFFFFFF#32 else if t < -2147483648 then 0x80000000#32 else BitVec.ofInt 32 t

/-- Shift left; 0 when the count is 32 or more (R161). -/
def shl32 (a : Word) (n : Nat) : Word := if 32 ≤ n then 0 else a <<< n

/-- Logical shift right; 0 when the count is 32 or more (R161). -/
def shr32 (a : Word) (n : Nat) : Word := if 32 ≤ n then 0 else a >>> n

/-- Arithmetic shift right; the sign when the count is 32 or more (R161). -/
def sar32 (a : Word) (n : Nat) : Word := a.sshiftRight (min n 31)

/-- Number of set bits (R162). -/
def popcount (a : Word) : Nat := ((List.range 32).filter fun i => a.getLsbD i).length

/-- Number of leading zero bits; 32 for 0 (R162). -/
def clz32 (a : Word) : Nat := if a = 0 then 32 else 31 - Nat.log2 a.toNat

/-- Bits in reverse order (R162). -/
def rev32 (a : Word) : Word := a.reverse

/-- Index of the least significant set bit; all ones for 0 (R162). -/
def ffs32 (a : Word) : Word :=
  match (List.range 32).find? fun i => a.getLsbD i with
  | some i => BitVec.ofNat 32 i
  | none => 0xFFFFFFFF#32

/-- Position and length of a bit field from b (R162). -/
def fieldPos (b : Word) : Nat := field b 0 5

def fieldLen (b : Word) : Nat := min (field b 8 6) (32 - fieldPos b)

def fieldMask (b : Word) : Word := BitVec.ofNat 32 ((2 ^ fieldLen b - 1) * 2 ^ fieldPos b)

def bfen32 (a b : Word) : Word := (a &&& fieldMask b) >>> fieldPos b

/-- The field sign-extended from its top bit; 0 for an empty field (R162). -/
def bfe32 (a b : Word) : Word :=
  let x := bfen32 a b
  if fieldLen b = 0 then 0
  else if x.getLsbD (fieldLen b - 1) then x ||| ~~~(BitVec.ofNat 32 (2 ^ fieldLen b - 1)) else x

def bfi32 (a b d : Word) : Word := (d &&& ~~~fieldMask b) ||| ((a <<< fieldPos b) &&& fieldMask b)

/-- One byte of BSHUF under its 6-bit control (R162). -/
def bshufByte (a d : Word) (c : Nat) : Nat :=
  let src := if c / 4 % 2 = 1 then d else a
  let v := BitVec.ofNat 8 (src.toNat >>> (8 * (c % 4)))
  let v := if c / 32 % 2 = 1 then v.reverse else v
  match c / 8 % 4 with
  | 0 => v.toNat
  | 1 => 0
  | 2 => if v.getLsbD 7 then 0xFF else 0
  | _ => 0xFF

def bshuf32 (a b d : Word) : Word :=
  BitVec.ofNat 32 (bshufByte a d (field b 0 6) + 2 ^ 8 * bshufByte a d (field b 6 6)
    + 2 ^ 16 * bshufByte a d (field b 12 6) + 2 ^ 24 * bshufByte a d (field b 18 6))

/-- Conditions of ICMP (R163). -/
def icmpHolds (cc : BitVec 3) (a b : Word) : Bool :=
  match cc.toNat with
  | 0 => a == b
  | 1 => a != b
  | 2 => a.slt b
  | 3 => a.sle b
  | 4 => b.slt a
  | 5 => b.sle a
  | 6 => a.ult b
  | _ => b.ule a

/-- An immediate of an I word, sign-extended (R166). -/
def imm32 (imm : BitVec 7) : Word := imm.signExtend 32

def execIadd (u : Bool) (d a b : BitVec 7) (s : State) : Out := alu3 u d a b (fun x y _ => x + y) s
def execIsub (u : Bool) (d a b : BitVec 7) (s : State) : Out := alu3 u d a b (fun x y _ => x - y) s
def execImin (u : Bool) (d a b : BitVec 7) (s : State) : Out := alu3 u d a b (fun x y _ => if x.slt y then x else y) s
def execImax (u : Bool) (d a b : BitVec 7) (s : State) : Out := alu3 u d a b (fun x y _ => if x.slt y then y else x) s
def execIminn (u : Bool) (d a b : BitVec 7) (s : State) : Out := alu3 u d a b (fun x y _ => if x.ult y then x else y) s
def execImaxn (u : Bool) (d a b : BitVec 7) (s : State) : Out := alu3 u d a b (fun x y _ => if x.ult y then y else x) s
def execIadds (u : Bool) (d a b : BitVec 7) (s : State) : Out := alu3 u d a b (fun x y _ => clamp32 (x.toInt + y.toInt)) s
def execIsubs (u : Bool) (d a b : BitVec 7) (s : State) : Out := alu3 u d a b (fun x y _ => clamp32 (x.toInt - y.toInt)) s
def execAnd (u : Bool) (d a b : BitVec 7) (s : State) : Out := alu3 u d a b (fun x y _ => x &&& y) s
def execOr (u : Bool) (d a b : BitVec 7) (s : State) : Out := alu3 u d a b (fun x y _ => x ||| y) s
def execXor (u : Bool) (d a b : BitVec 7) (s : State) : Out := alu3 u d a b (fun x y _ => x ^^^ y) s
def execAndn (u : Bool) (d a b : BitVec 7) (s : State) : Out := alu3 u d a b (fun x y _ => x &&& ~~~y) s
def execShl (u : Bool) (d a b : BitVec 7) (s : State) : Out := alu3 u d a b (fun x y _ => shl32 x (field y 0 8)) s
def execShr (u : Bool) (d a b : BitVec 7) (s : State) : Out := alu3 u d a b (fun x y _ => shr32 x (field y 0 8)) s
def execSar (u : Bool) (d a b : BitVec 7) (s : State) : Out := alu3 u d a b (fun x y _ => sar32 x (field y 0 8)) s
def execRotr (u : Bool) (d a b : BitVec 7) (s : State) : Out := alu3 u d a b (fun x y _ => x.rotateRight (field y 0 5)) s
def execImul (u : Bool) (d a b : BitVec 7) (s : State) : Out := alu3 u d a b (fun x y _ => x * y) s
/-- High half of the signed product (R161). -/
def execImulh (u : Bool) (d a b : BitVec 7) (s : State) : Out :=
  alu3 u d a b (fun x y _ => BitVec.ofInt 32 (x.toInt * y.toInt / 2 ^ 32)) s
def execImulhn (u : Bool) (d a b : BitVec 7) (s : State) : Out :=
  alu3 u d a b (fun x y _ => BitVec.ofNat 32 (x.toNat * y.toNat / 2 ^ 32)) s
def execImad (u : Bool) (d a b : BitVec 7) (s : State) : Out := alu3 u d a b (fun x y z => x * y + z) s
def execPopc (u : Bool) (d a : BitVec 7) (s : State) : Out := alu1 u d a (fun x => BitVec.ofNat 32 (popcount x)) s
def execClz (u : Bool) (d a : BitVec 7) (s : State) : Out := alu1 u d a (fun x => BitVec.ofNat 32 (clz32 x)) s
def execBrev (u : Bool) (d a : BitVec 7) (s : State) : Out := alu1 u d a rev32 s
def execBfe (u : Bool) (d a b : BitVec 7) (s : State) : Out := alu3 u d a b (fun x y _ => bfe32 x y) s
def execBfen (u : Bool) (d a b : BitVec 7) (s : State) : Out := alu3 u d a b (fun x y _ => bfen32 x y) s
def execBfi (u : Bool) (d a b : BitVec 7) (s : State) : Out := alu3 u d a b bfi32 s
def execBshuf (u : Bool) (d a b : BitVec 7) (s : State) : Out := alu3 u d a b bshuf32 s
def execFfs (u : Bool) (d a : BitVec 7) (s : State) : Out := alu1 u d a ffs32 s

/-- ICMP.cc pD, a, b (R163). -/
def execIcmp (u : Bool) (cc pd : BitVec 3) (a b : BitVec 7) (s : State) : Out := cmp2 u pd a b (icmpHolds cc) s

/-- SEL d, pI, a, b: the selecting predicate is read per lane, apart from the slot predicate (R164). -/
def execSel (u : Bool) (ps : BitVec 3) (d a b : BitVec 7) (s : State) : Out :=
  .next (s.onIssue fun is =>
    is.put u d
      (fun l => if (is.snap.pget ps).getLsbD l then is.snap.vget a.toNat l else is.snap.vget b.toNat l)
      (if is.snap.qget ps then is.snap.gget a.toNat else is.snap.gget b.toNat))

/-- LEA d, a, b, s (R165). -/
def execLea (u : Bool) (sh : BitVec 3) (d a b : BitVec 7) (s : State) : Out :=
  alu3 u d a b (fun x y _ => x + (y <<< sh.toNat)) s

def execIaddi (u : Bool) (d a imm : BitVec 7) (s : State) : Out := alu1 u d a (fun x => x + imm32 imm) s
def execAndi (u : Bool) (d a imm : BitVec 7) (s : State) : Out := alu1 u d a (fun x => x &&& imm32 imm) s
def execOri (u : Bool) (d a imm : BitVec 7) (s : State) : Out := alu1 u d a (fun x => x ||| imm32 imm) s
def execXori (u : Bool) (d a imm : BitVec 7) (s : State) : Out := alu1 u d a (fun x => x ^^^ imm32 imm) s
def execShli (u : Bool) (d a imm : BitVec 7) (s : State) : Out := alu1 u d a (fun x => shl32 x imm.toNat) s
def execShri (u : Bool) (d a imm : BitVec 7) (s : State) : Out := alu1 u d a (fun x => shr32 x imm.toNat) s
def execSari (u : Bool) (d a imm : BitVec 7) (s : State) : Out := alu1 u d a (fun x => sar32 x imm.toNat) s

/-- ICMPI.EQ pD, a, imm (R166). -/
def execIcmpiEq (u : Bool) (pd : BitVec 3) (a imm : BitVec 7) (s : State) : Out :=
  cmp2 u pd a 0 (fun x _ => x == imm32 imm) s

/-- MOVI d, imm16 (R167). -/
def execMovi (u : Bool) (d : BitVec 7) (imm : BitVec 16) (s : State) : Out :=
  alu3 u d 0 0 (fun _ _ _ => imm.zeroExtend 32) s

/-- MOVI.H d, imm16: the low half keeps its value (R167). -/
def execMoviH (u : Bool) (d : BitVec 7) (imm : BitVec 16) (s : State) : Out :=
  alu3 u d 0 0 (fun _ _ z => imm ++ z.extractLsb' 0 16) s

/-- ICARRY (R168, R169): a carry in and out of each lane's cy, or of gcy. -/
def carryOp (u : Bool) (d a b : BitVec 7) (f : Word → Word → Bool → Word × Bool) (s : State) : Out :=
  .next (s.onIssue fun is =>
    if u then
      if is.qon then
        let r := f (is.snap.gget a.toNat) (is.snap.gget b.toNat) is.snap.gcy
        is.onCoach fun c => { c.gput d.toNat r.1 with gcy := r.2 }
      else is
    else
      let r (l : Nat) := f (is.snap.vget a.toNat l) (is.snap.vget b.toNat l) (is.snap.cy.getLsbD l)
      is.onCoach fun c =>
        { c.vputs d.toNat (laneList is.enabled) (fun l => (r l).1) with
          cy := (c.cy &&& ~~~is.enabled) ||| (laneMask (fun l => (r l).2) &&& is.enabled) })

/-- Sum with a carry in: the low word and the carry out (R169). -/
def addCarry (a b : Word) (c : Bool) : Word × Bool :=
  let t := a.toNat + b.toNat + c.toNat
  (BitVec.ofNat 32 t, decide (2 ^ 32 ≤ t))

/-- Difference with a borrow in: the low word and the borrow out (R169). -/
def subBorrow (a b : Word) (c : Bool) : Word × Bool :=
  (a - b - BitVec.ofNat 32 c.toNat, decide (a.toNat < b.toNat + c.toNat))

def execIaddCo (u : Bool) (d a b : BitVec 7) (s : State) : Out := carryOp u d a b (fun x y _ => addCarry x y false) s
def execIaddCiCo (u : Bool) (d a b : BitVec 7) (s : State) : Out := carryOp u d a b addCarry s
def execIsubBo (u : Bool) (d a b : BitVec 7) (s : State) : Out := carryOp u d a b (fun x y _ => subBorrow x y false) s
def execIsubBiBo (u : Bool) (d a b : BitVec 7) (s : State) : Out := carryOp u d a b subBorrow s

end Sys2Proof.Machine
end

