-- ==== Sys2Proof/Machine/Module.lean ====
section
/-! DEFINITION. The module as a whole: MODULE_RESET, power, the root's own fence (R424, R427, R428, R435), and the responder for
SPDM, TDISP and IDE_KM (R419). -/

namespace Sys2Proof.Machine

/-! ### The root's fence (R427, R428) -/

/-- A fenced root takes no further command. -/
def State.fenceRoot (s : State) : State := { s with root := { s.root with fenced := true } }

/-- Cycles of 100 ms. -/
def watchdogCycles : Nat := 160000000

/-- WATCHDOG_EXPIRY: 100 ms without a command-boundary heartbeat. -/
def execWatchdogExpiry (s : State) : Out := whenOk s (s.root.heartbeat + watchdogCycles ≤ s.clock) State.fenceRoot

/-- ROOT_ECC_ERROR: an uncorrectable error in root storage. -/
def execRootEccError (s : State) : Out := .next s.fenceRoot

/-! ### MODULE_RESET and power (R424, R435) -/

/-- The journal with every command that ran ended by reason 0x8D (R433). -/
def endAll (js : List JEntry) : List JEntry := js.map fun e => if e.state < 2 then { e with state := 3, code := 0x8D } else e

/-- Retired links, which stay retired (R390, R435). -/
def State.retiredLinks (s : State) : List Link :=
  (s.links.filter fun (l : Link) => l.retired).map fun (l : Link) => { site := l.site, port := l.port, retired := true }

/-- The mesh links of the disabled sites, at both ends, retired from reset on (R21). -/
def Ident.retiredLinks (i : Ident) : List Link :=
  (i.absent.filter fun x => x != 24).flatMap fun site =>
    (meshNeighbours site).flatMap fun n => [{ site, port := n.1, retired := true }, { site := n.2, port := (n.1 + 2) % 4, retired := true }]

/-- Links that are retired after a reset: those of disabled sites, and those that were and stay so (R21, R390, R435). -/
def State.resetLinks (s : State) : List Link :=
  let own := s.ident.retiredLinks
  own ++ s.retiredLinks.filter fun l => !own.any fun x => x.site == l.site && x.port == l.port

/-- The module after a reset: the power-up state, with what R435 keeps. Host memory, what has been sent, the coming inputs and the
counters of the model's free values are no part of the module. -/
def State.afterReset (s : State) : State :=
  let links := s.resetLinks
  { State.reset with
    ident := s.ident, inputs := s.inputs, outbox := s.outbox, host := s.host, freeIx := s.freeIx, nextUid := s.nextUid
    dram := s.dram, segKey := s.segKey, links
    port := { node := s.port.node, slot := s.port.slot, nodes := s.port.nodes, version := s.port.version + 1
              out := (s.ident.noLinks ++ links.map fun (l : Link) => linkKey l.site l.port).eraseDups }
    root := { journal := endAll s.root.journal, nextSeq := s.root.nextSeq, retired := s.root.retired, spares := s.root.spares
              spareOf := s.root.spareOf, evictions := s.root.evictions, keyCount := s.root.keyCount, draws := s.root.draws
              handles := s.root.handles, romOk := s.root.romOk } }

/-- MODULE_RESET: acts even on a fenced root. -/
def execModuleReset (s : State) : Out := .next s.afterReset

/-- The module with power gone: its storage is lost, the journal with it. The retired frames and the eviction counters are taken as
kept, since no frame is ever mapped again and no older image is ever taken (R28, R421; log 44). -/
def State.unpowered (s : State) (off : Bool) : State :=
  { State.reset with
    off, ident := s.ident, links := s.ident.retiredLinks, port := { out := s.ident.noLinks }, inputs := s.inputs, outbox := s.outbox, host := s.host, freeIx := s.freeIx, nextUid := s.nextUid
    root := { retired := s.root.retired, spares := s.root.spares, spareOf := s.root.spareOf, evictions := s.root.evictions
              draws := s.root.draws, keyCount := s.root.keyCount, romOk := s.root.romOk } }

/-- POWER_LOSS (R424). -/
def execPowerLoss (s : State) : Out := .next (s.unpowered true)

/-- POWER_UP (R435): the power-up state, with an empty journal and CLOCK at 0. -/
def execPowerUp (s : State) : Out := whenOk s s.off fun s => s.unpowered false

/-! ### SPDM (R419) -/

/-- The responder's session of a function; 0 is the physical function's. -/
def session (fn : Option Nat) : Nat := (fn.map (· + 1)).getD 0

def State.hasSession (s : State) (fn : Option Nat) : Bool :=
  match fn with
  | none => s.root.spdm
  | some v => (s.vf? v).any fun (v : Vf) => v.spdm

def State.setSession (s : State) (fn : Option Nat) (x : Bool) : State :=
  match fn with
  | none => { s with root := { s.root with spdm := x } }
  | some v => s.modVf v fun v => { v with spdm := x }

/-- A function that can be spoken to. -/
def State.responds (s : State) (fn : Option Nat) : Bool :=
  match fn with
  | none => true
  | some v => (s.vf? v).isSome

/-- The measurements (R419): ROM digest, identity block, the function's TKD and policy version, the digest of the installed policy,
stepping and fuse state. -/
def State.measurements (s : State) (fn : Option Nat) : List Byte :=
  let own := match fn.bind s.vf? with
    | some v => leBytes 64 v.tkd.toNat ++ leBytes 8 v.policy.version ++ leBytes 64 v.policy.digest.toNat
    | none => []
  leBytes 64 Config.romHash.toNat ++ s.identityBlock ++ own ++ leBytes 1 Config.stepping.toNat ++ leBytes 8 Config.fuses.toNat

/-- Answer a request: the response's bytes are the standard's (log 9). -/
def State.respond (s : State) (fn : Option Nat) (code : Nat) (msg : List Byte) : State :=
  if s.responds fn then s.send (.answer fn (Config.spdmAnswer (session fn) code msg)) else s

/-- Whether a request passes its standard's checks. -/
def State.passes (s : State) (fn : Option Nat) (code : Nat) (msg : List Byte) : Bool :=
  s.responds fn && Config.spdmAccepts (session fn) code msg

/-- GET_VERSION. -/
def execGetVersion (vf : Option Nat) (msg : List Byte) (s : State) : Out := .next (s.respond vf 0x84 msg)

/-- GET_CAPABILITIES. -/
def execGetCapabilities (vf : Option Nat) (msg : List Byte) (s : State) : Out := .next (s.respond vf 0xE1 msg)

/-- NEGOTIATE_ALGORITHMS. -/
def execNegotiateAlgorithms (vf : Option Nat) (msg : List Byte) (s : State) : Out := .next (s.respond vf 0xE3 msg)

/-- GET_DIGESTS. -/
def execGetDigests (vf : Option Nat) (msg : List Byte) (s : State) : Out := .next (s.respond vf 0x81 msg)

/-- GET_CERTIFICATE. -/
def execGetCertificate (vf : Option Nat) (msg : List Byte) (s : State) : Out := .next (s.respond vf 0x82 msg)

/-- CHALLENGE: the answer covers the measurements. -/
def execChallenge (vf : Option Nat) (msg : List Byte) (s : State) : Out := .next (s.respond vf 0x83 (msg ++ s.measurements vf))

/-- GET_MEASUREMENTS: the answer covers the measurements as they stand. -/
def execGetMeasurements (vf : Option Nat) (msg : List Byte) (s : State) : Out := .next (s.respond vf 0xE0 (msg ++ s.measurements vf))

/-- KEY_EXCHANGE: begins a handshake; one session per function stands at a time. -/
def execKeyExchange (vf : Option Nat) (msg : List Byte) (s : State) : Out :=
  .next (s.respond vf (if s.hasSession vf then 0 else 0xE4) msg)

/-- FINISH: an accepted one establishes the session. -/
def execFinish (vf : Option Nat) (msg : List Byte) (s : State) : Out :=
  .next (
    let t := s.respond vf 0xE5 msg
    if s.passes vf 0xE5 msg && !s.hasSession vf then t.setSession vf true else t)

/-- KEY_UPDATE: within the session. -/
def execKeyUpdate (vf : Option Nat) (msg : List Byte) (s : State) : Out := .next (s.respond vf 0xE9 msg)

/-- HEARTBEAT: keeps the session. -/
def execHeartbeat (vf : Option Nat) (msg : List Byte) (s : State) : Out := .next (s.respond vf 0xE8 msg)

/-- END_SESSION: an accepted one ends the session. -/
def execEndSession (vf : Option Nat) (msg : List Byte) (s : State) : Out :=
  .next (
    let t := s.respond vf 0xEC msg
    if s.passes vf 0xEC msg then t.setSession vf false else t)

/-- VENDOR_DEFINED_REQUEST. -/
def execVendorDefinedRequest (vf : Option Nat) (msg : List Byte) (s : State) : Out := .next (s.respond vf 0xFE msg)

/-! ### TDISP and IDE_KM (R419) -/

/-- A TDISP request within the function's session: it moves the interface, or any error moves it to ERROR, where only RESET_VF
helps. -/
def State.tdisp (s : State) (vf code : Nat) (msg : List Byte) (f : TdiState → Option TdiState) : State :=
  match s.vf? vf with
  | none => s
  | some v =>
    let t := s.respond (some vf) code msg
    match if v.spdm && v.tdi != .error && Config.spdmAccepts (vf + 1) code msg then f v.tdi else none with
    | some x => t.modVf vf fun v => { v with tdi := x }
    | none => t.modVf vf fun v => { v with tdi := .error }

/-- LOCK_INTERFACE: from CONFIG_UNLOCKED to CONFIG_LOCKED. -/
def execLockInterface (vf : Nat) (msg : List Byte) (s : State) : Out :=
  .next (s.tdisp vf 0x83 msg fun x => if x = .unlocked then some .locked else none)

/-- GET_DEVICE_INTERFACE_REPORT: in CONFIG_LOCKED or RUN. -/
def execGetDeviceInterfaceReport (vf : Nat) (msg : List Byte) (s : State) : Out :=
  .next (s.tdisp vf 0x84 msg fun x => if x = .locked ∨ x = .run then some x else none)

/-- START_INTERFACE: from CONFIG_LOCKED to RUN. -/
def execStartInterface (vf : Nat) (msg : List Byte) (s : State) : Out :=
  .next (s.tdisp vf 0x86 msg fun x => if x = .locked then some .run else none)

/-- STOP_INTERFACE: back to CONFIG_UNLOCKED. -/
def execStopInterface (vf : Nat) (msg : List Byte) (s : State) : Out :=
  .next (s.tdisp vf 0x87 msg fun x => if x = .error then none else some .unlocked)

/-- IDE_KM: an accepted message within the session keys the function's selective IDE stream, of at most 256. -/
def execIdeKmMessage (vf : Nat) (msg : List Byte) (s : State) : Out :=
  .next (
    let t := s.respond (some vf) 0x100 msg
    let n := (s.vfs.filter fun (v : Vf) => v.ide && v.num != vf).length
    if s.hasSession (some vf) && Config.spdmAccepts (vf + 1) 0x100 msg && decide (n < 256) then t.modVf vf fun v => { v with ide := true }
    else t)

end Sys2Proof.Machine
end

