-- ==== Sys2Proof/Machine/Dispatch.lean ====
section
/-! DEFINITION. The one dispatch from an instruction to its meaning. -/

namespace Sys2Proof.Machine

def exec (i : Instr) (s : State) : Host.Outcome State Fault Refusal :=
  match i with
  | .bundleFetch t c => Sys2Proof.Machine.execBundleFetch t c s
  | .yieldHintEnd t c => Sys2Proof.Machine.execYieldHintEnd t c s
  | .fragmentReady t c age => Sys2Proof.Machine.execFragmentReady t c age s
  | .issueReservation t c => Sys2Proof.Machine.execIssueReservation t c s
  | .fragmentPriority t c age => Sys2Proof.Machine.execFragmentPriority t c age s
  | .nop => Sys2Proof.Machine.execNop s
  | .yieldN n => Sys2Proof.Machine.execYieldN n s
  | .yieldExpiry t c age => Sys2Proof.Machine.execYieldExpiry t c age s
  | .srd gdst d sel => Sys2Proof.Machine.execSrd gdst d sel s
  | .swr src sel => Sys2Proof.Machine.execSwr src sel s
  | .trap => Sys2Proof.Machine.execTrap s
  | .brkpt => Sys2Proof.Machine.execBrkpt s
  | .ctrrd gdst d m => Sys2Proof.Machine.execCtrrd gdst d m s
  | .bra disp => Sys2Proof.Machine.execBra disp s
  | .bru disp => Sys2Proof.Machine.execBru disp s
  | .brd disp => Sys2Proof.Machine.execBrd disp s
  | .call disp => Sys2Proof.Machine.execCall disp s
  | .calli k => Sys2Proof.Machine.execCalli k s
  | .ret => Sys2Proof.Machine.execRet s
  | .exit => Sys2Proof.Machine.execExit s
  | .brxu k => Sys2Proof.Machine.execBrxu k s
  | .rcvset k disp => Sys2Proof.Machine.execRcvset k disp s
  | .rcvwait k => Sys2Proof.Machine.execRcvwait k s
  | .plset n => Sys2Proof.Machine.execPlset n s
  | .plsetr src => Sys2Proof.Machine.execPlsetr src s
  | .csplit wl => Sys2Proof.Machine.execCsplit wl s
  | .csplitComplete t c => Sys2Proof.Machine.execCsplitComplete t c s
  | .cfuse => Sys2Proof.Machine.execCfuse s
  | .barSync ind id k => Sys2Proof.Machine.execBarSync ind id k s
  | .barArr ind id k => Sys2Proof.Machine.execBarArr ind id k s
  | .barWait ind id => Sys2Proof.Machine.execBarWait ind id s
  | .barrierArrival t c id => Sys2Proof.Machine.execBarrierArrival t c id s
  | .wait l src c t n => Sys2Proof.Machine.execWait l src c t n s
  | .waitRelease t c age => Sys2Proof.Machine.execWaitRelease t c age s
  | .counterHoldRelease t c age => Sys2Proof.Machine.execCounterHoldRelease t c age s
  | .storeQueueRoom t c age => Sys2Proof.Machine.execStoreQueueRoom t c age s
  | .loop b t ns => Sys2Proof.Machine.execLoop b t ns s
  | .step file reg inc => Sys2Proof.Machine.execStep file reg inc s
  | .tend => Sys2Proof.Machine.execTend s
  | .tspawn k => Sys2Proof.Machine.execTspawn k s
  | .tsig g => Sys2Proof.Machine.execTsig g s
  | .iadd u d a b => Sys2Proof.Machine.execIadd u d a b s
  | .isub u d a b => Sys2Proof.Machine.execIsub u d a b s
  | .imin u d a b => Sys2Proof.Machine.execImin u d a b s
  | .imax u d a b => Sys2Proof.Machine.execImax u d a b s
  | .iminn u d a b => Sys2Proof.Machine.execIminn u d a b s
  | .imaxn u d a b => Sys2Proof.Machine.execImaxn u d a b s
  | .iadds u d a b => Sys2Proof.Machine.execIadds u d a b s
  | .isubs u d a b => Sys2Proof.Machine.execIsubs u d a b s
  | .and u d a b => Sys2Proof.Machine.execAnd u d a b s
  | .or u d a b => Sys2Proof.Machine.execOr u d a b s
  | .xor u d a b => Sys2Proof.Machine.execXor u d a b s
  | .andn u d a b => Sys2Proof.Machine.execAndn u d a b s
  | .shl u d a b => Sys2Proof.Machine.execShl u d a b s
  | .shr u d a b => Sys2Proof.Machine.execShr u d a b s
  | .sar u d a b => Sys2Proof.Machine.execSar u d a b s
  | .rotr u d a b => Sys2Proof.Machine.execRotr u d a b s
  | .imul u d a b => Sys2Proof.Machine.execImul u d a b s
  | .imulh u d a b => Sys2Proof.Machine.execImulh u d a b s
  | .imulhn u d a b => Sys2Proof.Machine.execImulhn u d a b s
  | .imad u d a b => Sys2Proof.Machine.execImad u d a b s
  | .popc u d a => Sys2Proof.Machine.execPopc u d a s
  | .clz u d a => Sys2Proof.Machine.execClz u d a s
  | .brev u d a => Sys2Proof.Machine.execBrev u d a s
  | .bfe u d a b => Sys2Proof.Machine.execBfe u d a b s
  | .bfen u d a b => Sys2Proof.Machine.execBfen u d a b s
  | .bfi u d a b => Sys2Proof.Machine.execBfi u d a b s
  | .bshuf u d a b => Sys2Proof.Machine.execBshuf u d a b s
  | .ffs u d a => Sys2Proof.Machine.execFfs u d a s
  | .icmp u cc pd a b => Sys2Proof.Machine.execIcmp u cc pd a b s
  | .sel u ps d a b => Sys2Proof.Machine.execSel u ps d a b s
  | .lea u src d a b => Sys2Proof.Machine.execLea u src d a b s
  | .iaddi u d a imm => Sys2Proof.Machine.execIaddi u d a imm s
  | .andi u d a imm => Sys2Proof.Machine.execAndi u d a imm s
  | .ori u d a imm => Sys2Proof.Machine.execOri u d a imm s
  | .xori u d a imm => Sys2Proof.Machine.execXori u d a imm s
  | .shli u d a imm => Sys2Proof.Machine.execShli u d a imm s
  | .shri u d a imm => Sys2Proof.Machine.execShri u d a imm s
  | .sari u d a imm => Sys2Proof.Machine.execSari u d a imm s
  | .icmpiEq u pd a imm => Sys2Proof.Machine.execIcmpiEq u pd a imm s
  | .movi u d imm => Sys2Proof.Machine.execMovi u d imm s
  | .moviH u d imm => Sys2Proof.Machine.execMoviH u d imm s
  | .iaddCo u d a b => Sys2Proof.Machine.execIaddCo u d a b s
  | .iaddCiCo u d a b => Sys2Proof.Machine.execIaddCiCo u d a b s
  | .isubBo u d a b => Sys2Proof.Machine.execIsubBo u d a b s
  | .isubBiBo u d a b => Sys2Proof.Machine.execIsubBiBo u d a b s
  | .fadd u rnd d a b => Sys2Proof.Machine.execFadd u rnd d a b s
  | .fsub u rnd d a b => Sys2Proof.Machine.execFsub u rnd d a b s
  | .fmul u rnd d a b => Sys2Proof.Machine.execFmul u rnd d a b s
  | .ffma u rnd d a b => Sys2Proof.Machine.execFfma u rnd d a b s
  | .fmin u d a b => Sys2Proof.Machine.execFmin u d a b s
  | .fmax u d a b => Sys2Proof.Machine.execFmax u d a b s
  | .fminm u d a b => Sys2Proof.Machine.execFminm u d a b s
  | .fmaxm u d a b => Sys2Proof.Machine.execFmaxm u d a b s
  | .fabs u d a => Sys2Proof.Machine.execFabs u d a s
  | .fneg u d a => Sys2Proof.Machine.execFneg u d a s
  | .fcopysign u d a b => Sys2Proof.Machine.execFcopysign u d a b s
  | .fclass u d a => Sys2Proof.Machine.execFclass u d a s
  | .fcmp u cc pd a b => Sys2Proof.Machine.execFcmp u cc pd a b s
  | .rcp u rnd d a => Sys2Proof.Machine.execRcp u rnd d a s
  | .rsq u rnd d a => Sys2Proof.Machine.execRsq u rnd d a s
  | .sqrt u rnd d a => Sys2Proof.Machine.execSqrt u rnd d a s
  | .exp2 u rnd d a => Sys2Proof.Machine.execExp2 u rnd d a s
  | .log2 u rnd d a => Sys2Proof.Machine.execLog2 u rnd d a s
  | .sinpi u rnd d a => Sys2Proof.Machine.execSinpi u rnd d a s
  | .cospi u rnd d a => Sys2Proof.Machine.execCospi u rnd d a s
  | .tanh u rnd d a => Sys2Proof.Machine.execTanh u rnd d a s
  | .cvt u rnd d a code => Sys2Proof.Machine.execCvt u rnd d a code s
  | .badd2 rnd d a b => Sys2Proof.Machine.execBadd2 rnd d a b s
  | .bmul2 rnd d a b => Sys2Proof.Machine.execBmul2 rnd d a b s
  | .bfma2 rnd d a b => Sys2Proof.Machine.execBfma2 rnd d a b s
  | .rand d => Sys2Proof.Machine.execRand d s
  | .randf d => Sys2Proof.Machine.execRandf d s
  | .idxO d a b => Sys2Proof.Machine.execIdxO d a b s
  | .idxC d a b => Sys2Proof.Machine.execIdxC d a b s
  | .upC d a b => Sys2Proof.Machine.execUpC d a b s
  | .downC d a b => Sys2Proof.Machine.execDownC d a b s
  | .xorC d a b => Sys2Proof.Machine.execXorC d a b s
  | .bcastC d a => Sys2Proof.Machine.execBcastC d a s
  | .voteAny qd pa => Sys2Proof.Machine.execVoteAny qd pa s
  | .voteAll qd pa => Sys2Proof.Machine.execVoteAll qd pa s
  | .voteBallot gd pa => Sys2Proof.Machine.execVoteBallot gd pa s
  | .voteCount gd pa => Sys2Proof.Machine.execVoteCount gd pa s
  | .voteFirst gd pa => Sys2Proof.Machine.execVoteFirst gd pa s
  | .rdc op gd a => Sys2Proof.Machine.execRdc op gd a s
  | .prfx form d a => Sys2Proof.Machine.execPrfx form d a s
  | .ld size d o k scale x => Sys2Proof.Machine.execLd size d o k scale x s
  | .st size d o k scale x => Sys2Proof.Machine.execSt size d o k scale x s
  | .lds size d o k scale x => Sys2Proof.Machine.execLds size d o k scale x s
  | .sts size d o k scale x => Sys2Proof.Machine.execSts size d o k scale x s
  | .atom size d o k scale x => Sys2Proof.Machine.execAtom size d o k scale x s
  | .atoms size d o k scale x => Sys2Proof.Machine.execAtoms size d o k scale x s
  | .loadComplete t c seq lanes remote => Sys2Proof.Machine.execLoadComplete t c seq lanes remote s
  | .storePerformed t c lanes => Sys2Proof.Machine.execStorePerformed t c lanes s
  | .fence scope kind => Sys2Proof.Machine.execFence scope kind s
  | .fenceComplete t c seq => Sys2Proof.Machine.execFenceComplete t c seq s
  | .pin d a pitch => Sys2Proof.Machine.execPin d a pitch s
  | .unpin a pitch => Sys2Proof.Machine.execUnpin a pitch s
  | .pf a pitch level => Sys2Proof.Machine.execPf a pitch level s
  | .ldaxis d a pitch width => Sys2Proof.Machine.execLdaxis d a pitch width s
  | .remoteRequestArrive ret req => Sys2Proof.Machine.execRemoteRequestArrive ret req s
  | .remoteRefusal t c seq => Sys2Proof.Machine.execRemoteRefusal t c seq s
  | .classTimeout t c seq => Sys2Proof.Machine.execClassTimeout t c seq s
  | .cpT n c src => Sys2Proof.Machine.execCpT n c src s
  | .cpLLd a src => Sys2Proof.Machine.execCpLLd a src s
  | .cpLSt a src => Sys2Proof.Machine.execCpLSt a src s
  | .cpSeal g => Sys2Proof.Machine.execCpSeal g s
  | .cpQry g => Sys2Proof.Machine.execCpQry g s
  | .copyChunkWrite t c seq idx remote => Sys2Proof.Machine.execCopyChunkWrite t c seq idx remote s
  | .batchComplete t c => Sys2Proof.Machine.execBatchComplete t c s
  | .mldb gd gs => Sys2Proof.Machine.execMldb gd gs s
  | .mldbComplete t c seq => Sys2Proof.Machine.execMldbComplete t c seq s
  | .mma ac a t afmt => Sys2Proof.Machine.execMma ac a t afmt s
  | .mmg ac a t afmt => Sys2Proof.Machine.execMmg ac a t afmt s
  | .matrixPassStart t group => Sys2Proof.Machine.execMatrixPassStart t group s
  | .matrixPartComplete t c seq octet => Sys2Proof.Machine.execMatrixPartComplete t c seq octet s
  | .mzero ac => Sys2Proof.Machine.execMzero ac s
  | .mrd ac col d => Sys2Proof.Machine.execMrd ac col d s
  | .mst ac a gc => Sys2Proof.Machine.execMst ac a gc s
  | .mstSc ac a gc => Sys2Proof.Machine.execMstSc ac a gc s
  | .mstPartComplete t c seq octet => Sys2Proof.Machine.execMstPartComplete t c seq octet s
  | .mqry gd gt clr => Sys2Proof.Machine.execMqry gd gt clr s
  | .postW a src scope tc => Sys2Proof.Machine.execPostW a src scope tc s
  | .postS a ind scope tc => Sys2Proof.Machine.execPostS a ind scope tc s
  | .postQ a src scope tc fmt => Sys2Proof.Machine.execPostQ a src scope tc fmt s
  | .postComplete t c seq => Sys2Proof.Machine.execPostComplete t c seq s
  | .coll src g scope tc => Sys2Proof.Machine.execColl src g scope tc s
  | .collInstanceProceed vf grp k remote => Sys2Proof.Machine.execCollInstanceProceed vf grp k remote s
  | .collComplete t c seq => Sys2Proof.Machine.execCollComplete t c seq s
  | .collTimeout vf grp k => Sys2Proof.Machine.execCollTimeout vf grp k s
  | .collWithdrawMsg vf grp k => Sys2Proof.Machine.execCollWithdrawMsg vf grp k s
  | .nxqry gd gg sel => Sys2Proof.Machine.execNxqry gd gg sel s
  | .taskStopTimeout t => Sys2Proof.Machine.execTaskStopTimeout t s
  | .taskComplete t => Sys2Proof.Machine.execTaskComplete t s
  | .graphStart g => Sys2Proof.Machine.execGraphStart g s
  | .nodeComplete g n => Sys2Proof.Machine.execNodeComplete g n s
  | .tsigApply t => Sys2Proof.Machine.execTsigApply t s
  | .tspawnApply t => Sys2Proof.Machine.execTspawnApply t s
  | .spawnEntryFree ret => Sys2Proof.Machine.execSpawnEntryFree ret s
  | .copyNodePerformed g n remote => Sys2Proof.Machine.execCopyNodePerformed g n remote s
  | .chunkReport l ind => Sys2Proof.Machine.execChunkReport l ind s
  | .taskTranslate t => Sys2Proof.Machine.execTaskTranslate t s
  | .atsTranslationCompletion t va pa r w => Sys2Proof.Machine.execAtsTranslationCompletion t va pa r w s
  | .prgResponse t va code => Sys2Proof.Machine.execPrgResponse t va code s
  | .taskPlace ret => Sys2Proof.Machine.execTaskPlace ret s
  | .coopLaunchPlace l => Sys2Proof.Machine.execCoopLaunchPlace l s
  | .atsInvalidationRequest vf va len => Sys2Proof.Machine.execAtsInvalidationRequest vf va len s
  | .invalidationComplete ind => Sys2Proof.Machine.execInvalidationComplete ind s
  | .budgetPeriod ret => Sys2Proof.Machine.execBudgetPeriod ret s
  | .preemptSave t => Sys2Proof.Machine.execPreemptSave t s
  | .preemptTimeout t => Sys2Proof.Machine.execPreemptTimeout t s
  | .preemptForced t => Sys2Proof.Machine.execPreemptForced t s
  | .taskRestore t => Sys2Proof.Machine.execTaskRestore t s
  | .eccUncorrectable site => Sys2Proof.Machine.execEccUncorrectable site s
  | .scratchEccUncorrectable t => Sys2Proof.Machine.execScratchEccUncorrectable t s
  | .fillCountPeriod ret => Sys2Proof.Machine.execFillCountPeriod ret s
  | .frameMigrate vf frame => Sys2Proof.Machine.execFrameMigrate vf frame s
  | .frameSettleEnd vf frame => Sys2Proof.Machine.execFrameSettleEnd vf frame s
  | .temperatureTrip ret => Sys2Proof.Machine.execTemperatureTrip ret s
  | .flitReceive site port ch bits => Sys2Proof.Machine.execFlitReceive site port ch bits s
  | .drainRaise site ch => Sys2Proof.Machine.execDrainRaise site ch s
  | .nakReceive site port lack => Sys2Proof.Machine.execNakReceive site port lack s
  | .retrainComplete site port => Sys2Proof.Machine.execRetrainComplete site port s
  | .retrainDecay site port => Sys2Proof.Machine.execRetrainDecay site port s
  | .laserFailure site fibre => Sys2Proof.Machine.execLaserFailure site fibre s
  | .keyRotationRequest site port => Sys2Proof.Machine.execKeyRotationRequest site port s
  | .keyInstall site port incoming => Sys2Proof.Machine.execKeyInstall site port incoming s
  | .flitCountLimit site port => Sys2Proof.Machine.execFlitCountLimit site port s
  | .reflectometryProbe site fibre dir event dist loss => Sys2Proof.Machine.execReflectometryProbe site fibre dir event dist loss s
  | .uetPacketReceive ret peer psn f => Sys2Proof.Machine.execUetPacketReceive ret peer psn f s
  | .uetSackReceive ret peer acked missing => Sys2Proof.Machine.execUetSackReceive ret peer acked missing s
  | .uetRetransmitTimer ret peer psn => Sys2Proof.Machine.execUetRetransmitTimer ret peer psn s
  | .rootMessage srcRet srcNode payload => Sys2Proof.Machine.execRootMessage srcRet srcNode payload s
  | .submissionRead => Sys2Proof.Machine.execSubmissionRead s
  | .createVf cmd => Sys2Proof.Machine.execCreateVf cmd s
  | .assign cmd => Sys2Proof.Machine.execAssign cmd s
  | .loadPolicy cmd => Sys2Proof.Machine.execLoadPolicy cmd s
  | .pause cmd => Sys2Proof.Machine.execPause cmd s
  | .resume cmd => Sys2Proof.Machine.execResume cmd s
  | .evict cmd => Sys2Proof.Machine.execEvict cmd s
  | .resetVf cmd => Sys2Proof.Machine.execResetVf cmd s
  | .destroy cmd => Sys2Proof.Machine.execDestroy cmd s
  | .readJournal cmd => Sys2Proof.Machine.execReadJournal cmd s
  | .queryCounters cmd => Sys2Proof.Machine.execQueryCounters cmd s
  | .linkRestore cmd => Sys2Proof.Machine.execLinkRestore cmd s
  | .identify cmd => Sys2Proof.Machine.execIdentify cmd s
  | .podForm cmd => Sys2Proof.Machine.execPodForm cmd s
  | .nodeTable cmd => Sys2Proof.Machine.execNodeTable cmd s
  | .submit cmd => Sys2Proof.Machine.execSubmit cmd s
  | .cancel cmd => Sys2Proof.Machine.execCancel cmd s
  | .setS1root cmd => Sys2Proof.Machine.execSetS1root cmd s
  | .s1Inval cmd => Sys2Proof.Machine.execS1Inval cmd s
  | .ctrConfig cmd => Sys2Proof.Machine.execCtrConfig cmd s
  | .rekey cmd => Sys2Proof.Machine.execRekey cmd s
  | .migrate cmd => Sys2Proof.Machine.execMigrate cmd s
  | .pausemaxExpiry vf => Sys2Proof.Machine.execPausemaxExpiry vf s
  | .watchdogExpiry => Sys2Proof.Machine.execWatchdogExpiry s
  | .journalRecopy ret => Sys2Proof.Machine.execJournalRecopy ret s
  | .zeroiseConfirm slot ret => Sys2Proof.Machine.execZeroiseConfirm slot ret s
  | .interlockResultWritten t c => Sys2Proof.Machine.execInterlockResultWritten t c s
  | .creditExhausted ret part => Sys2Proof.Machine.execCreditExhausted ret part s
  | .frameReencrypted part frame => Sys2Proof.Machine.execFrameReencrypted part frame s
  | .evictImageWritten vf => Sys2Proof.Machine.execEvictImageWritten vf s
  | .mbctlWrite fn val => Sys2Proof.Machine.execMbctlWrite fn val s
  | .sqtailDoorbell fn val => Sys2Proof.Machine.execSqtailDoorbell fn val s
  | .cqheadDoorbell fn val => Sys2Proof.Machine.execCqheadDoorbell fn val s
  | .registerWrite fn off val => Sys2Proof.Machine.execRegisterWrite fn off val s
  | .moduleReset => Sys2Proof.Machine.execModuleReset s
  | .powerLoss => Sys2Proof.Machine.execPowerLoss s
  | .powerUp => Sys2Proof.Machine.execPowerUp s
  | .uncorrectableStateError ret => Sys2Proof.Machine.execUncorrectableStateError ret s
  | .keySlotEccError slot => Sys2Proof.Machine.execKeySlotEccError slot s
  | .rootEccError => Sys2Proof.Machine.execRootEccError s
  | .getVersion vf msg => Sys2Proof.Machine.execGetVersion vf msg s
  | .getCapabilities vf msg => Sys2Proof.Machine.execGetCapabilities vf msg s
  | .negotiateAlgorithms vf msg => Sys2Proof.Machine.execNegotiateAlgorithms vf msg s
  | .getDigests vf msg => Sys2Proof.Machine.execGetDigests vf msg s
  | .getCertificate vf msg => Sys2Proof.Machine.execGetCertificate vf msg s
  | .challenge vf msg => Sys2Proof.Machine.execChallenge vf msg s
  | .getMeasurements vf msg => Sys2Proof.Machine.execGetMeasurements vf msg s
  | .keyExchange vf msg => Sys2Proof.Machine.execKeyExchange vf msg s
  | .finish vf msg => Sys2Proof.Machine.execFinish vf msg s
  | .keyUpdate vf msg => Sys2Proof.Machine.execKeyUpdate vf msg s
  | .heartbeat vf msg => Sys2Proof.Machine.execHeartbeat vf msg s
  | .endSession vf msg => Sys2Proof.Machine.execEndSession vf msg s
  | .vendorDefinedRequest vf msg => Sys2Proof.Machine.execVendorDefinedRequest vf msg s
  | .lockInterface vf msg => Sys2Proof.Machine.execLockInterface vf msg s
  | .getDeviceInterfaceReport vf msg => Sys2Proof.Machine.execGetDeviceInterfaceReport vf msg s
  | .startInterface vf msg => Sys2Proof.Machine.execStartInterface vf msg s
  | .stopInterface vf msg => Sys2Proof.Machine.execStopInterface vf msg s
  | .ideKmMessage vf msg => Sys2Proof.Machine.execIdeKmMessage vf msg s

end Sys2Proof.Machine
end

