-- ==== Sys2Proof/Machine/Schedule.lean ====
section
/-! DEFINITION. The events that the part brings about by itself when nothing comes from outside, in the order in which a step tries
them (log 2): holds that end, engine work, bundles, the dispatcher, links, the root. -/

namespace Sys2Proof.Machine

/-- What a held or stalled fragment is due for. -/
def fragEvent (now : Nat) (t : Task) (c : Coach) (f : Frag) : Option Instr :=
  match f.hold with
  | .bar _ id _ => if t.stopSince.isNone && !t.tend && t.fate.isNone && c.standsAt id then some (.barrierArrival t.uid c.num id) else none
  | .wait .. => if c.waitOver f then some (.waitRelease t.uid c.num f.age) else none
  | .counter .. => if c.counterOver f then some (.counterHoldRelease t.uid c.num f.age) else none
  | .queue => if c.roomOver f then some (.storeQueueRoom t.uid c.num f.age) else none
  | .csplit _ => if c.splitReady.isSome && t.splits c then some (.csplitComplete t.uid c.num) else none
  | _ =>
    match f.stall with
    | some st =>
      if now < st.till then none
      else if st.yielded then some (.yieldExpiry t.uid c.num f.age) else some (.fragmentReady t.uid c.num f.age)
    | none => none

/-- What a coach is due for. -/
def coachEvent (now : Nat) (t : Task) (c : Coach) : Option Instr :=
  match c.frags.findSome? (fragEvent now t c) with
  | some e => some e
  | none =>
    if c.yieldTill != 0 && c.yieldTill ≤ now then some (.yieldHintEnd t.uid c.num)
    else if t.issuing && c.ready now && c.readySince + 32 ≤ now && !c.reserved then some (.issueReservation t.uid c.num)
    else if c.interlocks != 0 then some (.interlockResultWritten t.uid c.num)
    else none

/-- The next bundle to issue: of the coaches that may issue, on whichever CU, the one that has been ready longest (R112, R114). -/
def State.nextFetch (s : State) : Option Instr :=
  let all := s.tasks.flatMap fun t => (t.coaches.filter fun c => (s.fetchable t.uid c.num).isSome).map fun c => (t, c)
  (all.foldl (fun (a : Option (Task × Coach)) x => match a with
    | none => some x
    | some y => if goesBefore y.1 y.2 x.1 x.2 then some x else some y) none).map fun x => .bundleFetch x.1.uid x.2.num

/-- Hold releases and engine work of the coaches. -/
def State.nextHold (s : State) : Option Instr :=
  s.tasks.findSome? fun t => if t.phase = .running then t.coaches.findSome? (coachEvent s.clock t) else none

/-! ### Engines -/

/-- Lanes of an operation that wait for nothing from another wafer. -/
def State.nearLanes (s : State) (t : Task) (c : Coach) (o : Op) : Lanes :=
  laneMask fun l => o.lanes.any fun x => x.lane == l && (!x.loc.isAway || (s.laneAnswer t c o x).isSome)

/-- The sets of lanes whose parts may be performed together, the whole first. -/
def State.laneSets (s : State) (t : Task) (c : Coach) (o : Op) : List Lanes :=
  let m := s.nearLanes t c o
  m :: (laneList m).map laneBit

/-- What may end an outstanding operation (R210 to R242, R254 to R263, R271 to R284, R363 to R377). -/
def opEvents (t c : Nat) (lanes : List Lanes) (o : Op) : List Instr :=
  let parts (f : Nat → Instr) (ps : List Part) : List Instr := (ps.filter fun p => !p.done).map fun p => f p.octet
  List.flatten [
   if o.onL then lanes.map fun m => .loadComplete t c o.seq m [] else [],
   match o.body with
   | .fence .. => [.fenceComplete t c o.seq]
   | .mldb .. => [.mldbComplete t c o.seq]
   | .mma ps => parts (.matrixPartComplete t c o.seq) ps
   | .mzero ps => parts (.matrixPartComplete t c o.seq) ps
   | .mrd _ _ ps => parts (.matrixPartComplete t c o.seq) ps
   | .mst _ _ _ ps => parts (.mstPartComplete t c o.seq) ps
   | .post .. => [.postComplete t c o.seq]
   | .coll _ _ ps => List.flatten [
      ps.map fun p => .collInstanceProceed p.vf p.grp p.inst [],
      [.collComplete t c o.seq],
      ps.map fun p => .collTimeout p.vf p.grp p.inst]
   | _ => []]

/-- Engine work of a coach: operations in issue order, its store queue, its copies, then refusals and class timeouts. -/
def State.coachWork (s : State) (t : Task) (c : Coach) : List Instr :=
  let live := c.ops.filter fun o => !o.done
  let seqs := live.map (·.seq) ++ (if c.openBatch.isEmpty then [] else [c.seq])
  List.flatten [
   live.flatMap fun o => opEvents t.uid c.num (s.laneSets t c o) o,
   match c.queueHead with
   | some o => (s.laneSets t c o).map fun m => .storePerformed t.uid c.num m
   | none => [],
   (c.copies.filter fun x => !x.2.2.finished).map fun x => .copyChunkWrite t.uid c.num x.1 x.2.1 [],
   if c.oldestBatch.isSome then [.batchComplete t.uid c.num] else [],
   seqs.flatMap fun n => [.remoteRefusal t.uid c.num n, .classTimeout t.uid c.num n]]

/-- Engine work of all running tasks; passes of the matrix groups first. -/
def State.engineEvents (s : State) : List Instr :=
  (s.tasks.filter fun t => t.phase == .running).flatMap fun t =>
    (if t.coaches.any fun c => c.ops.any fun o => !o.body.parts.isEmpty then (List.range 8).map fun g => .matrixPassStart t.uid g else []) ++
    t.coaches.flatMap (s.coachWork t)

/-! ### The dispatcher -/

/-- Reticles on which a task waits or runs. -/
def State.busyRets (s : State) : List Nat := (s.tasks.map fun t => t.ret).eraseDups

/-- What the dispatcher may do (R295 to R346). -/
def State.dispatchEvents (s : State) : List Instr :=
  let live := s.tasks.filter fun t => t.copyOf.isNone
  List.flatten [
   (s.tasks.filter fun t => t.copyOf.isSome).map (fun t => .taskComplete t.uid),
   live.flatMap (fun t => [.taskComplete t.uid, .taskStopTimeout t.uid, .tsigApply t.uid, .tspawnApply t.uid]),
   s.busyRets.map (fun r => .spawnEntryFree r),
   s.graphs.flatMap (fun g => .graphStart g.id :: (List.range g.nodes.length).map fun n => .nodeComplete g.id n),
   s.tasks.filterMap (fun t => match t.copyOf with
     | some (g, n) => some (.copyNodePerformed g n [])
     | none => none),
   s.launches.flatMap (fun l => (List.range l.chunks.length).map fun i => .chunkReport l.id i),
   (s.tasks.filter fun t => t.phase == .queued).map (fun t => .taskTranslate t.uid),
   s.root.invals.map (fun x => .invalidationComplete x.id),
   live.flatMap (fun t => if t.mark.isSome then [.preemptSave t.uid, .preemptTimeout t.uid, .preemptForced t.uid] else []),
   s.busyRets.map (fun r => .taskPlace r),
   (s.launches.filter fun l => l.coop).map (fun l => .coopLaunchPlace l.id),
   (live.filter fun t => t.saved).map (fun t => .taskRestore t.uid),
   s.busyRets.map (fun r => .budgetPeriod r),
   s.busyRets.flatMap (fun r => (s.parts.filter fun p => p.rets.any fun x => x.1 == r).map fun p => .creditExhausted r p.num),
   s.root.cands.map (fun c => .frameMigrate c.1 c.2.1),
   s.root.moved.map (fun m => .frameSettleEnd m.vf m.frame),
   (s.root.fills.map fun (x : Nat × Nat) => x.1 / 64 * 65536 / 2 ^ 42).eraseDups.map fun r => .fillCountPeriod r]

/-! ### Links and the root -/

/-- What the wires of the mesh links of this wafer bring: the flit that the far end expects, and the acknowledgement of those that it has
accepted (R386, log 40). -/
def State.meshWires (s : State) : List Instr :=
  (s.links.filter fun l => !isOptical l.port && !l.replay.isEmpty).flatMap fun l =>
    match meshPeer l.site l.port with
    | none => []
    | some e =>
      let n := (s.link e.1 e.2).expect
      (match l.replay.find? fun f => f.lseq = n with
        | some f => [.flitReceive e.1 e.2 f.ch f.word]
        | none => []) ++
      (if 0 < l.before n then [.flitReceive l.site l.port 0 (controlFlit n false).word] else [])

/-- What a scale-out pair may do: rotate or get its key, and its timers (R360, R396). -/
def Uet.events (u : Uet) : List Instr :=
  let port := 20 + u.peer
  List.flatten [
   if u.keys.mayRotate then [.keyRotationRequest u.ret port, .flitCountLimit u.ret port] else [],
   if (u.keys.txKey u.keys.phase).isNone && u.sent.any (fun (p : UetPacket) => p.unsent) ||
       u.keys.rotating && (u.keys.txKey (!u.keys.phase)).isNone then [.keyInstall u.ret port false] else [],
   u.sent.map fun p => .uetRetransmitTimer u.ret u.peer p.psn]

/-- What links and transports may do (R360, R385, R390, R396, R398). -/
def State.linkEvents (s : State) : List Instr :=
  List.flatten [
   s.meshWires,
   s.probes,
   s.switches.flatMap fun x => (x.reinject.map fun e => e.2.ch).eraseDups.map fun ch => .drainRaise x.site ch,
   (s.links.filter fun l => l.level != 0).map fun l => .retrainDecay l.site l.port,
   (s.links.filter fun l => isOptical l.port && ((l.txKey l.phase).isNone || (l.rotating && (l.txKey (!l.phase)).isNone))).map
     fun l => .keyInstall l.site l.port false,
   s.links.flatMap fun l => if l.mayRotate then [.keyRotationRequest l.site l.port, .flitCountLimit l.site l.port] else [],
   s.uet.flatMap Uet.events]

/-- What the root may do (R414, R418, R420, R421, R425). -/
def State.rootEvents (s : State) : List Instr :=
  List.flatten [
   [.submissionRead],
   (s.root.journalAt ++ s.root.workAt).map fun r => .journalRecopy r,
   s.root.slots.flatMap fun k => if k.state = .zeroising then k.rets.map fun r => .zeroiseConfirm k.slot r else [],
   s.root.rekeys.flatMap fun r => .frameReencrypted r.part r.next :: r.deferred.map fun f => .frameReencrypted r.part f,
   s.vfs.flatMap fun v => [.evictImageWritten v.num, .pausemaxExpiry v.num]]

/-- Every event that may come by itself, in order; a bundle comes last, so that coaches which always have one to issue keep
nothing else from happening (R114, R119). -/
def State.events (s : State) : List Instr :=
  List.flatten [s.nextHold.toList, s.engineEvents, s.dispatchEvents, s.linkEvents, s.rootEvents, s.nextFetch.toList]

/-- What follows every event: records, holds, collectives, invalidations, queues, page requests, switches and port engines settle. -/
def State.settleStep (s : State) : State := s.settleRecords.settle.settleInvals.refill.settlePages.settleSwitches.settleOwed.settlePort

end Sys2Proof.Machine
end

