-- ==== Sys2Proof/Machine/Step.lean ====
section
/-! DEFINITION. One step of the part (log 2, 3, 4, 7). -/

namespace Sys2Proof.Machine

/-- Issue the slot at the head of the latch: decode its words, run it, and act on a hold it asks for. -/
def stepSlot (s : State) (is : Issue) (it : Item) : Out :=
  match decodeSlot is.task.shape.regs it.word it.ext with
  | .ok i => thenDo (exec i s.beginSlot) (State.afterSlot s.beginSlot)
  | .error _ => .fault (.latchWord it.word)

/-- A step with a bundle in issue: its next slot, a hold before that slot, or its end. -/
def stepIssue (s : State) (is : Issue) : Out :=
  if is.blocked = .none then
    match is.items with
    | it :: _ => stepSlot s is it
    | [] => .next (s.endBundle is).settlePort
  else .next (s.holdBundle is is.blocked).settlePort

/-- An input that comes while a bundle is in issue acts between two of its slots, with what they have done in sight (R46); one that
takes the bundle's task or coach from running waits for the bundle's end (log 2, log 4). -/
def stepWithin (s : State) (is : Issue) (x : Input) (rest : List Input) : Out :=
  match exec x.ev (((s.showIssue is).takeInput x rest).tick x.dt) with
  | .next t => match t.settleStep.resumeIssue is with
    | some u => .next u
    | none => stepIssue s is
  | _ => stepIssue s is

/-- A step with a bundle in issue: an input that comes within it, or the bundle's own next step. -/
def stepBundle (s : State) (is : Issue) : Out :=
  match s.inputs with
  | x :: rest => if x.within then stepWithin s is x rest else stepIssue s is
  | [] => stepIssue s is

/-- Whether an event changes anything when it comes. -/
def State.changedBy (s : State) (e : Instr) : Bool :=
  match exec e s with
  | .next t => t != s
  | _ => true

/-- The event that comes by itself: the first in order that changes anything (log 2). -/
def State.nextEvent (s : State) : Option Instr := s.events.find? s.changedBy

/-- A step without power: only POWER_UP acts (R435). -/
def stepOff (s : State) : Out :=
  match s.inputs with
  | x :: rest => if x.ev = .powerUp then exec .powerUp (s.takeInput x rest) else .next (s.takeInput x rest)
  | [] => .next s

/-- A step of the part: the bundle in issue first; then the next event from outside; then what the part brings about
by itself; else a cycle passes. -/
def step (s : State) : Host.Outcome State Fault Refusal :=
  if s.off then stepOff s
  else match s.issue with
  | some is => stepBundle s is
  | none =>
    match s.inputs with
    | x :: rest => thenDo (exec x.ev ((s.takeInput x rest).tick x.dt)) State.settleStep
    | [] =>
      match s.nextEvent with
      | some e => thenDo (exec e s) State.settleStep
      | none => .next (s.tick 1).settleStep

/-- The state with one instruction in the issue latch of a bare one-octet task, so that the next step runs it (log 7). -/
def State.withFetchWord (s : State) (_nbits w : Nat) : State :=
  let f : Frag := { mask := 0xFF, ctx := { len := 1 } }
  let c : Coach := { live := 0xFF, frags := [f] }
  let t : Task := { phase := .running, shape := { regs := 128 }, coaches := [c] }
  let it : Item := { lanes := 0xFF, word := BitVec.ofNat 32 w, ext := BitVec.ofNat 32 (w / 2 ^ 32) }
  { s with off := false, inputs := [], issue := some { task := t, coach := c, snap := c, frag := f, items := [it] } }

end Sys2Proof.Machine
end

