-- ==== Sys2Proof/Safety.lean ====
section
/-! DEFINITION. What counts as a run of the part that goes on: no step of it ends in a fault or a refusal. -/

namespace Sys2Proof

open Machine

/-- The step from a state answers a next state. -/
def GoesOn (s : State) : Prop := ∃ t, step s = .next t

/-- A property that every step keeps. -/
def StepKeeps (inv : State → Prop) : Prop := ∀ s t, inv s → step s = .next t → inv t

end Sys2Proof
end

