-- ==== Sys2Proof/Certificates/Slice0/Claim.lean ====
section
/-! DEFINITION. The words in which the statements of Obligations.lean are put: what a coach instruction leaves in the issue
latch, and what it leaves unchanged. -/

namespace Sys2Proof.Claim

open Machine

/-- The instruction completes: everything outside the issue latch stays as it was, and the latch then holds `js`. -/
def Leaves (i : Instr) (s : State) (js : Issue) : Prop := exec i s = .next { s with issue := some js }

/-- Only vector registers change: vd holds `x l` in each lane `l` of `m`; every other register and every other lane holds what
it held. -/
def VectorSet (is js : Issue) (d : Nat) (m : Lanes) (x : Nat → Word) : Prop :=
  ∃ v, js = { is with coach := { is.coach with v := v } } ∧
    ∀ r l, l < 64 → js.coach.vget r l = if r = d ∧ m.getLsbD l = true then x l else is.coach.vget r l

/-- Only group registers change: gd holds `x` where `on` holds; every other register holds what it held. -/
def GroupSet (is js : Issue) (d : Nat) (on : Bool) (x : Word) : Prop :=
  ∃ g, js = { is with coach := { is.coach with g := g } } ∧
    ∀ r, js.coach.gget r = if r = d ∧ on = true then x else is.coach.gget r

/-- Only lane predicates change: pd holds `x l` in each lane `l` of `m`, unless d is 7, whose write is discarded. -/
def PredicateSet (is js : Issue) (pd : BitVec 3) (m : Lanes) (x : Nat → Bool) : Prop :=
  ∃ p, js = { is with coach := { is.coach with p := p } } ∧
    ∀ j l, l < 64 → (js.coach.pget j).getLsbD l
      = if j = pd ∧ pd ≠ 7 ∧ m.getLsbD l = true then x l else (is.coach.pget j).getLsbD l

/-- Only group predicates change: qd holds `x` where `on` holds, unless d is 7, whose write is discarded. -/
def GroupPredicateSet (is js : Issue) (qd : BitVec 3) (on : Bool) (x : Bool) : Prop :=
  ∃ q, js = { is with coach := { is.coach with q := q } } ∧
    ∀ j, js.coach.qget j = if j = qd ∧ qd ≠ 7 ∧ on = true then x else is.coach.qget j

/-- An instruction with a register destination completes and sets it (R157): for U = 0 in every lane that the slot takes effect
for, for U = 1 once when the q predicate holds. -/
def Result (i : Instr) (u : Bool) (d : Nat) (lane : Issue → Nat → Word) (unif : Issue → Word) : Prop :=
  ∀ s is, s.issue = some is → ∃ js, Leaves i s js ∧
    if u then GroupSet is js d is.qon (unif is) else VectorSet is js d is.enabled (lane is)

/-- The same for a predicate destination. -/
def Verdict (i : Instr) (u : Bool) (pd : BitVec 3) (lane : Issue → Nat → Bool) (unif : Issue → Bool) : Prop :=
  ∀ s is, s.issue = some is → ∃ js, Leaves i s js ∧
    if u then GroupPredicateSet is js pd is.qon (unif is) else PredicateSet is js pd is.enabled (lane is)

/-- d := f a b d in one register file, the sources read as they stood before the chained group (R44, R157, R158). -/
def Ternary (mk : Bool → BitVec 7 → BitVec 7 → BitVec 7 → Instr) (f : Word → Word → Word → Word) : Prop :=
  ∀ u d a b, Result (mk u d a b) u d.toNat
    (fun is l => f (is.snap.vget a.toNat l) (is.snap.vget b.toNat l) (is.snap.vget d.toNat l))
    (fun is => f (is.snap.gget a.toNat) (is.snap.gget b.toNat) (is.snap.gget d.toNat))

/-- d := f a b. -/
def Binary (mk : Bool → BitVec 7 → BitVec 7 → BitVec 7 → Instr) (f : Word → Word → Word) : Prop :=
  Ternary mk fun a b _ => f a b

/-- d := f a. -/
def Unary (mk : Bool → BitVec 7 → BitVec 7 → Instr) (f : Word → Word) : Prop :=
  ∀ u d a, Result (mk u d a) u d.toNat (fun is l => f (is.snap.vget a.toNat l)) (fun is => f (is.snap.gget a.toNat))

/-- d := f a imm. -/
def WithImm (mk : Bool → BitVec 7 → BitVec 7 → BitVec 7 → Instr) (f : Word → BitVec 7 → Word) : Prop :=
  ∀ u d a imm, Result (mk u d a imm) u d.toNat (fun is l => f (is.snap.vget a.toNat l) imm)
    (fun is => f (is.snap.gget a.toNat) imm)

/-- A word with bit i equal to `f i`. -/
def bitsOf (f : Nat → Bool) : Word := (BitVec.ofBoolListLE ((List.range 32).map f)).setWidth 32

/-- The field of R162: first bit and length. -/
def bitField (b : Word) : Nat × Nat :=
  let pos := b.toNat % 32
  (pos, min (b.toNat / 256 % 64) (32 - pos))

/-- One byte of BSHUF under its control (R162). -/
def shuffled (a d : Word) (c : BitVec 6) : BitVec 8 :=
  let src := if c.getLsbD 2 then d else a
  let v := src.extractLsb' (8 * (c.extractLsb' 0 2).toNat) 8
  let v := if c.getLsbD 5 then v.reverse else v
  if c.extractLsb' 3 2 = 0 then v
  else if c.extractLsb' 3 2 = 1 then 0
  else if c.extractLsb' 3 2 = 2 then (if v.getLsbD 7 then 0xFF else 0)
  else 0xFF

/-- Clamp an integer to the I32 range. -/
def saturate (x : Int) : Word := BitVec.ofInt 32 (max (-2147483648) (min 2147483647 x))

/-- A carry instruction (R168, R169): d and the carry bit of each lane that the slot takes effect for, or of the coach, from the
two operands and the carry as they stood; nothing else changes. -/
def Carries (mk : Bool → BitVec 7 → BitVec 7 → BitVec 7 → Instr) (f : Word → Word → Bool → Word × Bool) : Prop :=
  ∀ u d a b s is, s.issue = some is → ∃ js, Leaves (mk u d a b) s js ∧
    if u then
      let r := f (is.snap.gget a.toNat) (is.snap.gget b.toNat) is.snap.gcy
      ∃ g, js = { is with coach := { is.coach with g := g, gcy := if is.qon then r.2 else is.coach.gcy } } ∧
        ∀ k, js.coach.gget k = if k = d.toNat ∧ is.qon = true then r.1 else is.coach.gget k
    else
      let r (l : Nat) := f (is.snap.vget a.toNat l) (is.snap.vget b.toNat l) (is.snap.cy.getLsbD l)
      ∃ v cy, js = { is with coach := { is.coach with v := v, cy := cy } } ∧
        ∀ l, l < 64 → (cy.getLsbD l = if is.enabled.getLsbD l = true then (r l).2 else is.coach.cy.getLsbD l) ∧
          ∀ k, js.coach.vget k l = if k = d.toNat ∧ is.enabled.getLsbD l = true then (r l).1 else is.coach.vget k l

/-! ### Floating point -/

/-- The flags of every lane of a mask together (R75). -/
def flagsOver (m : Lanes) (f : Nat → Word) : Word := (laneList m).foldl (fun a l => a ||| f l) 0

/-- `n` steps of a generator (R79). -/
def stepsOf (n : Nat) (x : Word) : Word :=
  match n with
  | 0 => x
  | n + 1 => stepsOf n (srStep x)

/-- A rounded operation (R75, R80, R157): `f` gives value and flags from the rounding environment, the generator after its first
step, and the sources. Under SR the generator of each lane that the slot takes effect for steps `n` times, and no other steps;
flags of all those lanes join GMODE; nothing else changes. A uniform form uses the generator of the lowest active lane. -/
def Rounded (i : Instr) (u : Bool) (rnd : BitVec 3) (d a b : BitVec 7) (n : Nat) (f : Env → Word → Srcs → Word × Word) : Prop :=
  ∀ s is, s.issue = some is → ∃ js, Leaves i s js ∧
    let env := is.env rnd
    let steps := decide (env.mode = .sr) && decide (0 < n)
    if u then
      let l0 := lowLane is.active
      let steps := steps && decide (is.active ≠ 0)
      let x := if steps then srStep (is.coach.srget l0) else is.coach.srget l0
      let r := f env x (is.gsrc d a b)
      ∃ g sr, js = { is with
          coach := { is.coach with g := g, sr := sr, gmode := is.coach.gmode ||| (if is.qon then r.2 else 0) }
          flags := is.flags ||| (if is.qon then r.2 else 0) } ∧
        (∀ k, js.coach.gget k = if k = d.toNat ∧ is.qon = true then r.1 else is.coach.gget k) ∧
        ∀ l, js.coach.srget l
          = if l = l0 ∧ is.qon = true ∧ steps = true then stepsOf n (is.coach.srget l) else is.coach.srget l
    else
      let r (l : Nat) := f env (if steps then srStep (is.coach.srget l) else is.coach.srget l) (is.vsrc d a b l)
      ∃ v sr, js = { is with
          coach := { is.coach with v := v, sr := sr, gmode := is.coach.gmode ||| flagsOver is.enabled fun l => (r l).2 }
          flags := is.flags ||| flagsOver is.enabled fun l => (r l).2 } ∧
        (∀ k l, l < 64 → js.coach.vget k l
          = if k = d.toNat ∧ is.enabled.getLsbD l = true then (r l).1 else is.coach.vget k l) ∧
        ∀ l, js.coach.srget l
          = if is.enabled.getLsbD l = true ∧ steps = true then stepsOf n (is.coach.srget l) else is.coach.srget l

/-- Mode, flush and saturation of an operation: its rnd field or GMODE.RM, and GMODE's bits 3 and 4 (R70, R74). -/
def EnvIs (is : Issue) (rnd : BitVec 3) (mode : RMode) (ftz sat : Bool) : Prop :=
  is.env rnd = { mode, ftz, sat, exv := is.snap.exv }

/-- An FP32 bit pattern that is a NaN, and a signalling one (R66, R68). -/
def isNan (a : Word) : Bool := decide (0x7F800000 < a.toNat % 2 ^ 31)

def isSig (a : Word) : Bool := isNan a && !a.getLsbD 22

/-- An FP32 input under FTZ: a subnormal reads as the zero of its sign (R72). -/
def flushed (ftz : Bool) (a : Word) : Word := if ftz && decide (a.toNat % 2 ^ 31 < 2 ^ 23) then a &&& 0x80000000#32 else a

/-- The real value of an FP32 pattern times 2^149, an infinity counting as plus or minus 2^400: the order of numbers. -/
def scaled (a : Word) : Int :=
  let e := a.toNat / 2 ^ 23 % 256
  let f := a.toNat % 2 ^ 23
  let m : Nat := if e = 255 then 2 ^ 400 else if e = 0 then f else (f + 2 ^ 23) * 2 ^ (e - 1)
  if a.getLsbD 31 then -(m : Int) else m

/-- a comes before b when minima are taken: -0 is below +0 (R171). -/
def below (a b : Word) : Bool := decide (scaled a < scaled b) || (decide (scaled a = scaled b) && a.getLsbD 31 && !b.getLsbD 31)

/-- FMIN and FMAX, `mx` the maximum, `strict` the forms that answer a NaN for any NaN operand (R171). -/
def extreme (mx strict ftz : Bool) (a b : Word) : Word × Word :=
  let x := flushed ftz a
  let y := flushed ftz b
  let v :=
    if isNan a && isNan b || strict && (isNan a || isNan b) then 0x7FC00000#32
    else if isNan a then y
    else if isNan b then x
    else if mx then (if below x y then y else x)
    else (if below y x then y else x)
  (v, if isSig a || isSig b then fIV else 0)

/-- FABS, FNEG and FCOPYSIGN: the operand under a new sign; a NaN gives the default NaN (R171). -/
def signedAs (a : Word) (neg : Bool) : Word × Word :=
  if isNan a then (0x7FC00000#32, if isSig a then fIV else 0)
  else ((a &&& 0x7FFFFFFF#32) ||| (if neg then 0x80000000#32 else 0), 0)

/-- FCLASS: one bit of ten (R171). -/
def classOf (a : Word) : Word × Word :=
  let neg := a.getLsbD 31
  let e := a.toNat / 2 ^ 23 % 256
  let f := a.toNat % 2 ^ 23
  let bit : Nat :=
    if e = 255 then (if f = 0 then (if neg then 0 else 7) else if a.getLsbD 22 then 9 else 8)
    else if e = 0 then (if f = 0 then (if neg then 3 else 4) else if neg then 2 else 5)
    else if neg then 1 else 6
  (BitVec.ofNat 32 (2 ^ bit), if isSig a then fIV else 0)

/-- FCMP: the truth of a condition and the flag (R172). -/
def compared (cc : BitVec 3) (ftz : Bool) (a b : Word) : Bool × Word :=
  let x := scaled (flushed ftz a)
  let y := scaled (flushed ftz b)
  let nan := isNan a || isNan b
  let quiet : Word := if isSig a || isSig b then fIV else 0
  let ordered : Word := if nan then fIV else 0
  if cc = 0#3 then (!nan && decide (x = y), quiet)
  else if cc = 1#3 then (nan || decide (x ≠ y), quiet)
  else if cc = 2#3 then (!nan && decide (x < y), ordered)
  else if cc = 3#3 then (!nan && decide (x ≤ y), ordered)
  else if cc = 4#3 then (!nan && decide (y < x), ordered)
  else if cc = 5#3 then (!nan && decide (y ≤ x), ordered)
  else if cc = 6#3 then (nan, quiet)
  else (!nan, quiet)

/-- The value of a finite number times 2^k, for k at least minus its exponent. -/
def numAt (k : Int) (v : Fp) : Int :=
  match v with
  | .fin n m e => (if n then -1 else 1) * ((m * 2 ^ (e + k).toNat : Nat) : Int)
  | _ => 0

/-- Sign, integer and exponent of a finite FP32 pattern (R66). -/
def neg32 (a : Word) : Bool := a.getLsbD 31
def int32 (a : Word) : Nat := if a.toNat % 2 ^ 31 < 2 ^ 23 then a.toNat % 2 ^ 31 else a.toNat % 2 ^ 23 + 2 ^ 23
def exp32 (a : Word) : Int := if a.toNat % 2 ^ 31 < 2 ^ 23 then -149 else ((a.toNat % 2 ^ 31 / 2 ^ 23 : Nat) : Int) - 150

/-- An FP32 operand that reads as a zero: one, or a subnormal under FTZ (R72). -/
def readsZero (ftz : Bool) (a : Word) : Prop := a.toNat % 2 ^ 31 = 0 ∨ ftz = true ∧ a.toNat % 2 ^ 31 < 2 ^ 23

/-- The table of R73 for a format with the given default NaN, infinity and largest finite code: what FP32 value `a` becomes, with its
flags. -/
def Narrows (f : Fmt) (nan : Nat) (inf : Option Nat) (max : Nat) (e : Env) (x a : Word) (v : Word × Word) : Prop :=
  let mag := a.toNat % 2 ^ 31
  let code (k : Nat) : Word := BitVec.ofNat 32 (if neg32 a then k + 2 ^ (f.ew + f.fw) else k)
  (isNan a = true → v = (BitVec.ofNat 32 nan, if isSig a then fIV else 0)) ∧
  (mag = 0x7F800000 → e.sat = true → v = (code max, fOF ||| fNX)) ∧
  (mag = 0x7F800000 → e.sat = false → v = (match inf with
    | some i => (code i, 0)
    | none => (BitVec.ofNat 32 nan, fIV))) ∧
  (readsZero e.ftz a → v = (code 0, 0)) ∧
  (mag < 0x7F800000 → ¬ readsZero e.ftz a → v = ofRes (f.round e.mode e.ftz e.sat x (neg32 a) (int32 a) (exp32 a)))

/-- Exact widening of a code to FP32 (R73, R174): any NaN gives the default one, and a finite code keeps its sign and its value, unless
FTZ flushes it. -/
def Widens (f : Fmt) (ftz : Bool) (c : Nat) (v : Word × Word) : Prop :=
  match f.decode c with
  | .nan s => v = (0x7FC00000#32, if s then fIV else 0)
  | .inf n => v = (if n then 0xFF800000#32 else 0x7F800000#32, 0)
  | .fin n m _ => v.2 = 0 ∧ neg32 v.1 = n ∧ v.1.toNat % 2 ^ 31 < 0x7F800000 ∧
      if ftz = true ∧ f.flush = true ∧ m < 2 ^ f.fw then v.1.toNat % 2 ^ 31 = 0
      else numAt 149 (fFP32.decode v.1.toNat) = numAt 149 (f.decode c)

/-- Conversion of an FP32 value to an integer of lo to hi (R73): NaN gives 0; a result outside saturates; each of these sets IV, any other
inexact one NX. -/
def ToInteger (lo hi : Int) (e : Env) (x a : Word) (v : Word × Word) : Prop :=
  let mag := a.toNat % 2 ^ 31
  let r := roundAt e.mode x (neg32 a) (int32 a) (exp32 a) 0
  let k : Int := if neg32 a then -(r.1 : Int) else r.1
  (isNan a = true → v = (0, fIV)) ∧
  (mag = 0x7F800000 → v = (BitVec.ofInt 32 (if neg32 a then lo else hi), fIV)) ∧
  (readsZero e.ftz a → v = (0, 0)) ∧
  (mag < 0x7F800000 → ¬ readsZero e.ftz a →
    (k < lo → v = (BitVec.ofInt 32 lo, fIV)) ∧ (hi < k → v = (BitVec.ofInt 32 hi, fIV)) ∧
    (lo ≤ k → k ≤ hi → v = (BitVec.ofInt 32 k, if r.2 then fNX else 0)))

/-! ### Lane exchange and coach-wide operations -/

/-- Coach lane `l` is active in the issuing fragment (R94, R177): it lies in the coach, is live and not parked, and the fragment
holds it. -/
def activeLane (is : Issue) (l : Nat) : Bool :=
  let k := 8 * is.coach.octet0 + l
  decide (l < 8 * is.coach.width) && is.coach.live.getLsbD k && !is.coach.parked.getLsbD k && is.frag.mask.getLsbD k

/-- An exchange (R179): each participant takes a from the coach lane that `src` names, if that lane is active, else from
itself. `src` is given the participant's coach lane and its b. -/
def Exchanges (i : Instr) (d a b : BitVec 7) (src : Issue → Nat → Nat → Option Nat) : Prop :=
  ∀ s is, s.issue = some is → ∃ js, Leaves i s js ∧
    VectorSet is js d.toNat is.enabled fun l =>
      let o := 8 * is.coach.octet0
      match src is (l - o) (is.snap.vget b.toNat l).toNat with
      | some k => if activeLane is k then is.snap.vget a.toNat (o + k) else is.snap.vget a.toNat l
      | none => is.snap.vget a.toNat l

/-- Participants of a cross-lane word in which lane predicate pa holds, in ascending order (R178, R180). -/
def voters (is : Issue) (pa : BitVec 3) : List Nat :=
  (List.range 64).filter fun l => is.enabled.getLsbD l && (decide (pa = 7) || (tget 0 is.snap.p pa.toNat).getLsbD l)

/-- Participants of a cross-lane word in ascending order (R178). -/
def participants (is : Issue) : List Nat := (List.range 64).filter fun l => is.enabled.getLsbD l

/-- FP32 addition under RNE without flush and flags; its neutral element is -0 (R181). -/
def plusRNE (a b : Word) : Word := BitVec.ofNat 32 (fFP32.add .rne false false 0 a.toNat b.toNat).code

/-- Combine two elements of a reduction; a missing element is the skipped identity of FMIN and FMAX (R181). -/
def combine (op : BitVec 3) (x y : Option Word) : Option Word :=
  match x, y with
  | some x, some y => some (
      if op = 0 then x + y else if op = 1 then plusRNE x y
      else if op = 2 then (if x.toInt < y.toInt then x else y)
      else if op = 3 then (if x.toInt < y.toInt then y else x)
      else if op = 4 then (extreme false false false x y).1 else if op = 5 then (extreme true false false x y).1
      else if op = 6 then x &&& y else x ||| y)
  | some x, none => some x
  | none, y => y

/-- Identity of a reduction (R181). -/
def identity (op : BitVec 3) : Option Word :=
  if op = 1 then some 0x80000000#32 else if op = 2 then some 0x7FFFFFFF#32 else if op = 3 then some 0x80000000#32
  else if op = 4 ∨ op = 5 then none else if op = 6 then some 0xFFFFFFFF#32 else some 0

/-- x[0] after the stages of R181 over 2^n elements that start at `i`. -/
def reduced (op : BitVec 3) (x : Nat → Option Word) (n i : Nat) : Option Word :=
  match n with
  | 0 => x i
  | n + 1 => combine op (reduced op x n i) (reduced op x n (i + 2 ^ n))

/-- Running sums over a list of lanes (R182): what each lane receives, from the sum before it. -/
def running (add : Word → Word → Word) (excl : Bool) (val : Nat → Word) (sum : Word) (ls : List Nat) : List (Nat × Word) :=
  match ls with
  | [] => []
  | l :: rest => (l, if excl then sum else add sum (val l)) :: running add excl val (add sum (val l)) rest

/-! ### Control -/

/-- A group-predicated instruction completes (R42): its effect on the issue latch when its q predicate holds, nothing when it
does not. -/
def Acts (i : Instr) (f : State → Issue → Issue) : Prop :=
  ∀ s is, s.issue = some is → Leaves i s (if is.qon then f s is else is)

/-- A coach fault raised by the slot in issue (R118): noted for the bundle's end, unless a plane at or below this one has raised
one already. -/
def raising (is : Issue) (code : Nat) (addr : Dword) : Issue :=
  { is with cfault := match is.cfault with
      | some g => if g.plane ≤ is.cur.plane then some g
        else some { code, plane := is.cur.plane, slot := is.cur.slot, addr, lane := is.cur.low, pi := (is.coach.piget is.cur.low).toNat }
      | none => some { code, plane := is.cur.plane, slot := is.cur.slot, addr, lane := is.cur.low,
                       pi := (is.coach.piget is.cur.low).toNat } }

/-- A control transfer (R38, R47): what the bundle's end will do, and where it came from for the check of its target. -/
def taking (is : Issue) (n : Next) : Issue :=
  { is with next := n
            frag := { is.frag with xfer := some { off := is.frag.off, slot := is.cur.slot, hdr := is.frag.ctx.hdr } } }

/-- Offset of a B-format target: the bundle's own offset and 16 bytes for each unit of displacement (R48, R130). -/
def targetOf (is : Issue) (disp : BitVec 23) : Word := BitVec.ofInt 32 (is.frag.off.toNat + 16 * disp.toInt)

/-- CALL and CALLI to a header (R134): misaligned, unreadable or broken headers and a full call stack raise their coach fault at the
calling bundle. -/
def calling (s : State) (is : Issue) (hdr : Dword) : Issue :=
  if hdr.toNat % 16 ≠ 0 then raising is cMISALIGNED_TARGET hdr
  else match s.readHeader is.task hdr with
    | some ctx => if is.frag.calls.length < 16 then taking is (.call ctx) else raising is cILLEGAL_FIELD 0
    | none => raising is cILLEGAL_FIELD 0

/-- Bits `i` to `i + 31` of CLOCK. -/
def clockWord (s : State) (i : Nat) : Word := BitVec.ofNat 32 (s.clock / 2 ^ i)

/-- Special registers by number, for lane `l` of the CU (R52). Numbers from 64 name group registers. -/
def specialOf (s : State) (is : Issue) (num l : Nat) : Word :=
  if num = 0 then BitVec.ofNat 32 (l - 8 * is.coach.octet0)
  else if num = 1 then BitVec.ofNat 32 (l / 8)
  else if num = 2 then BitVec.ofNat 32 is.snap.num
  else if num = 3 then BitVec.ofNat 32 is.task.index
  else if num = 4 then BitVec.ofNat 32 is.task.tidx.1
  else if num = 5 then BitVec.ofNat 32 is.task.tidx.2.1
  else if num = 6 then BitVec.ofNat 32 is.task.tidx.2.2
  else if num = 7 then BitVec.ofNat 32 (is.snap.piget l).toNat
  else if num = 8 then BitVec.ofNat 32 (2 ^ is.frag.ctx.plog)
  else if num = 9 then is.snap.gmode
  else if num = 10 then 0
  else if num = 11 then is.snap.exv
  else if num = 12 then clockWord s 0
  else if num = 13 then BitVec.ofNat 32 is.task.ret
  else if num = 14 then BitVec.ofNat 32 s.port.node
  else if num = 15 then is.snap.cpstat
  else if num = 16 then BitVec.ofNat 32 (((List.range 64).filter fun l => is.snap.parked.getLsbD l).length % 256
    + 256 * is.oldest)
  else is.snap.gget (num - 64)

/-- The bits of GMODE that SWR writes (R74). -/
def gmodeWritten (x : Word) : Word := x &&& 0x1F1F#32

/-- What leaves of the loop stack when control goes to `off` (R151): entries of the current call depth, from the innermost on, whose body
does not hold the target. -/
def leftLoops (depth : Nat) (off : Word) (loops : List LoopEntry) : List LoopEntry :=
  loops.dropWhile fun e => decide (e.depth = depth) && !(decide (e.start ≤ off) && decide (off ≤ e.stop))

/-- A bundle left by sequential flow (R150): the loop stack, the next offset, and the STEP words whose increments apply; a pass that ends
with more to go jumps back, one that was the last pops its entry, and the end may be that of the next outer loop too. -/
def afterPass (depth : Nat) (off : Word) (loops : List LoopEntry) : List LoopEntry × Word × List StepWord :=
  match loops with
  | [] => ([], off + 16, [])
  | e :: rest =>
    if e.depth = depth ∧ e.stop = off then
      if 1 < e.left.toNat then ({ e with left := e.left - 1 } :: rest, e.start, e.steps)
      else
        let r := afterPass depth off rest
        (r.1, r.2.1, e.steps ++ r.2.2)
    else (e :: rest, off + 16, [])

/-- What STEP words add to a register of one file: `file` true is g (R148). -/
def stepped (xs : List StepWord) (file : Bool) (r : Nat) : Word :=
  (xs.filter fun x => x.file == file && x.reg.toNat == r).foldl (fun a x => a + x.inc.signExtend 32) 0

/-- Sequential flow of the lanes `act` at a bundle's end: registers change by the STEP words alone. -/
def Stepped (co co' : Coach) (act : Lanes) (xs : List StepWord) : Prop :=
  (∀ k l, l < 64 → co'.vget k l = if act.getLsbD l = true then co.vget k l + stepped xs false k else co.vget k l) ∧
  ∀ k, co'.gget k = co.gget k + stepped xs true k

/-! ### Memory -/

/-- Address of a global access in lane `l` (R50): the base pair, the offset register shifted by the scale, the displacement. -/
def globalAddr (is : Issue) (k : BitVec 5) (o : BitVec 7) (sc : BitVec 2) (disp : Int) (l : Nat) : Dword :=
  BitVec.ofInt 64 (((is.snap.gget (2 * k.toNat)).toNat + 2 ^ 32 * (is.snap.gget (2 * k.toNat + 1)).toNat
    + (is.snap.vget o.toNat l).toNat * 2 ^ sc.toNat : Nat) + disp)

/-- Address of a scratchpad access in lane `l`, modulo 2^32 (R50, R190). -/
def scratchAddr (is : Issue) (k : BitVec 5) (o : BitVec 7) (sc : BitVec 2) (disp : Int) (l : Nat) : Nat :=
  ((((is.snap.gget (2 * k.toNat)).toNat + (is.snap.vget o.toNat l).toNat * 2 ^ sc.toNat : Nat) + disp) % 2 ^ 32).toNat

/-- The 64-bit value of the pair at v(r) in lane `l`. -/
def pairAt (is : Issue) (r : BitVec 7) (l : Nat) : Dword :=
  BitVec.ofNat 64 ((is.snap.vget r.toNat l).toNat + 2 ^ 32 * (is.snap.vget (r.toNat + 1) l).toNat)

/-- Bytes of an access by its size field (R214). -/
def accessBytes (size : BitVec 3) : Nat := [1, 1, 2, 2, 4, 8, 16, 16].getD size.toNat 16

/-- The first `n` bytes of the registers from vd, least significant first, at most those of four registers. -/
def storedBytes (is : Issue) (d : BitVec 7) (l n : Nat) : List Byte :=
  (List.range (min 16 n)).map fun i => (is.snap.vget (d.toNat + i / 4) l).extractLsb' (8 * (i % 4)) 8

/-- An operation as it enters issue order: one that covers an acknowledgement that is lost never completes (R242). -/
def waiting (co : Coach) (o : Op) : Op := { o with never := co.lost.any o.covers }

/-- No held bundle of the task has raised a coach fault that its end has still to record (R118). -/
def NoPending (tk : Task) : Prop := ∀ c ∈ tk.coaches, ∀ f ∈ c.frags, f.cfault = none

/-- What checks at issue may change in the task: faults, the stop, and its fate; a task fault also records what held bundles raised. -/
def FaultsOnly (tk tk' : Task) : Prop :=
  tk' = { tk with faults := tk'.faults, lost := tk'.lost, stopSince := tk'.stopSince, fate := tk'.fate, coaches := tk'.coaches } ∧
    (NoPending tk → tk'.coaches = tk.coaches)

/-- A record of severity 1 of the slot in issue for one lane (R117, R120). -/
def IsLaneRec (is : Issue) (now code l : Nat) (addr : Dword) (r : FaultRec) : Prop :=
  r.sev = 1 ∧ r.code = code ∧ r.addr = addr ∧ r.lane = l ∧ r.coach = is.coach.label ∧ r.slot = is.cur.slot ∧ r.plane = is.cur.plane ∧
    r.off = is.frag.off ∧ r.hdr = is.frag.ctx.hdr ∧ r.cyc = now

/-- Records and fate of a slot whose lanes are checked (R116, R117, R120, R208): where the queue has room for one for each enabled lane, each
lane that parks has its record, with the code and the address of its check; a denied lane ends the task with REMOTE_DENIED, and of the
first of them the record holds the address. -/
def Reports (is js : Issue) (now : Nat) (park deny : Nat → Option (Nat × Dword)) : Prop :=
  ((∀ l ∈ participants is, deny l = none) → js.task.fate = is.task.fate ∧ ∀ l ∈ participants is, ∀ x, park l = some x →
    js.task.stopSince.isSome = true ∧ (is.task.faults.length + (participants is).length ≤ 64 →
      ∃ r ∈ js.task.faults, IsLaneRec is now x.1 l x.2 r)) ∧
  ∀ l ∈ participants is, ∀ x, deny l = some x → is.task.fate = none → is.task.phase ≠ .ended →
    js.task.fate = some (.terminated x.1) ∧
    ((∀ k ∈ participants is, k < l → deny k = none) → NoPending is.task → is.task.coaches.all Coach.atStop = false → is.task.halted = false →
      is.task.faults.length + (participants is).length ≤ 64 → ∃ r ∈ js.task.faults, r.sev = 3 ∧ r.code = x.1 ∧ r.addr = x.2)

/-- A memory slot at issue (R42, R116, R117, R208): each enabled lane is checked; a lane that fails parks, the others enter the
coach's issue order as one operation of the class; memory, registers, and everything outside the latch stay as they are. Each lane that
fails has its record, and a denied one ends the task. A slot with predicate 0xF does nothing. -/
def Queues (i : Instr) (cls : Option Cls) (body : Body) (chk : State → Issue → Nat → Dword × Chk × List Byte) : Prop :=
  ∀ s is, s.issue = some is →
    if is.cur.pred = 0xF#4 then exec i s = .next s
    else ∃ js, Leaves i s js ∧
      js = { is with task := js.task, coach := js.coach } ∧
      FaultsOnly is.task js.task ∧
      js.coach = { is.coach with parked := js.coach.parked, ops := js.coach.ops, seq := is.coach.seq + 1 } ∧
      (let ok : List LaneOp := (participants is).filterMap fun l => (match chk s is l with
          | (va, .ok loc, bs) => some { lane := l, va, loc, data := bs }
          | _ => none)
       let new : Op := { seq := is.coach.seq, cls, site := is.site, body, lanes := ok, start := s.clock, done := ok.isEmpty }
       js.coach.ops = pruneOps (is.coach.ops ++ [waiting is.coach new])) ∧
      Reports is js s.clock
        (fun l => match chk s is l with
          | (va, .park code, _) => some (code, va)
          | _ => none)
        (fun l => match chk s is l with
          | (va, .deny, _) => some (0x2A, va)
          | _ => none) ∧
      (∀ l, l < 64 → js.coach.parked.getLsbD l
        = (is.coach.parked.getLsbD l || is.enabled.getLsbD l && (match (chk s is l).2.1 with
            | .park _ => true
            | _ => false))) ∧
      ((∀ l ∈ participants is, match (chk s is l).2.1 with
            | .ok _ => True
            | _ => False) → js.task = is.task)

/-- Apart from the task list, only storage, its counters, those of the mesh links on the way, messages and the port engines' requests have
changed. -/
def StorageOnly (s s' : State) : Prop :=
  s' = { s with tasks := s'.tasks, dram := s'.dram, segKey := s'.segKey, sectors := s'.sectors, lines := s'.lines
                host := s'.host, freeIx := s'.freeIx, counters := s'.counters, outbox := s'.outbox, links := s'.links, rets := s'.rets
                root := { s.root with fills := s'.root.fills }, port := { s.port with reqs := s'.port.reqs } } ∧
  (∀ site port, s'.link site port = { s.link site port with raw := (s'.link site port).raw }) ∧
  ∀ r, s'.ret r = { s.ret r with fillAt := (s'.ret r).fillAt }

/-- Of all tasks only `t` changes, and of it only its list of coaches, and there only coach `c`: from `co` to what `P` says. -/
def CoachStep (s s' : State) (t c : Nat) (co : Coach) (P : Coach → Prop) : Prop :=
  (∀ u, u ≠ t → s'.task? u = s.task? u) ∧ ∃ tk tk' co', s.task? t = some tk ∧ tk.coach? c = some co ∧ s'.task? t = some tk' ∧
    tk'.coach? c = some co' ∧ tk' = { tk with coaches := tk'.coaches } ∧ (∀ d, d ≠ c → tk'.coach? d = tk.coach? d) ∧ P co'

/-- Word `i` that a load of a size writes (R214): bytes and halfwords by sign or zero, wider ones word by word. -/
def loadedWord (size : BitVec 3) (bs : List Byte) (i : Nat) : Word :=
  if size = 1 then (BitVec.ofNat 8 (leNat (bs.take 1))).signExtend 32
  else if size = 3 then (BitVec.ofNat 16 (leNat (bs.take 2))).signExtend 32
  else BitVec.ofNat 32 (leNat ((bs.drop (4 * i)).take 4))

/-- Registers that a load of a size writes. -/
def loadedRegs (size : BitVec 3) : Nat := if size = 5 then 2 else if size = 6 then 4 else 1

/-- A register takes an operation's value `x`, and a read may give the old value as well until a WAIT has observed the completion; a
register that a slot wrote while the operation was outstanding holds either value (R46). -/
def Lands (co co' : Coach) (seq r l : Nat) (x : Word) : Prop :=
  if (seq, vkey r l) ∈ co.crossed then co'.vget r l = x ∨ co'.vget r l = co.vget r l
  else co'.vget r l = x ∧ ∃ y ∈ co'.fresh, y.key = vkey r l ∧ y.old = co.vget r l ∧ y.new = x

/-- A WAIT of the lanes `m` is over (R7, R46): the registers whose operations are not among the youngest that its thresholds leave
outstanding show the new value, unless a slot has written them, and no read gives the old one any more. -/
def Observed (m : Lanes) (l sc cc t n : BitVec 5) (co co' : Coach) : Prop :=
  let seen (x : Fresh) : Bool := x.seen m l sc cc t n
  co' = { co with v := co'.v, fresh := co.fresh.filter fun x => !seen x } ∧
  ((co.fresh.map (·.key)).Nodup → ∀ r k, k < 64 → co'.vget r k = match co.fresh.find? fun x => x.key == vkey r k && seen x with
    | some x => if co.vget r k = x.shown then x.new else co.vget r k
    | none => co.vget r k)

/-- A load's destination: `n` registers from vd in one lane take the words, every other register and lane what it held; nothing else
of the coach changes but its operations in flight. -/
def LoadedInto (co co' : Coach) (seq d l n : Nat) (w : Nat → Word) : Prop :=
  co' = { co with v := co'.v, ops := co'.ops, fresh := co'.fresh } ∧
    ∀ r k, k < 64 → if k = l ∧ d ≤ r ∧ r < d + n then Lands co co' seq r k (w (r - d)) else co'.vget r k = co.vget r k

/-- The part of lane `l` of operation `seq` may be performed now (R219, R229 to R232), lies on this wafer, and its home does not
refuse it. -/
def MayPerform (s : State) (t c seq l : Nat) (tk : Task) (co : Coach) (o : Op) (x : LaneOp) : Prop :=
  s.task? t = some tk ∧ tk.coach? c = some co ∧ co.op? seq = some o ∧ o.done = false ∧ l < 64 ∧ (o.lanes.find? fun y => y.lane = l) = some x ∧
    x.loc.isAway = false ∧ s.partsReady tk co o (laneBit l) = true ∧ s.refused tk x.loc = false

/-- One more record in a fault queue, wherever the order of R121 puts it. -/
def OneMore (qs qs' : List FaultRec) (P : FaultRec → Prop) : Prop := ∃ r a b, qs = a ++ b ∧ qs' = a ++ r :: b ∧ P r

/-- What the port engine is handed for places on other wafers when nothing waits for the answer (R208, R221): one request for each lane. -/
def handedOver (s : State) (t : Task) (kind : ReqKind) (xs : List LaneOp) : List PortReq :=
  xs.filterMap fun x => match x.loc with
    | .glob node ret off _ _ => if node = 0xFFFF then none else some
        { client := .none, va := x.va, since := s.clock
          req := { srcNode := s.port.node, srcRet := t.ret, tid := 0, vf := t.vf, tc := s.memTC t.vf, kind
                   dest := BitVec.ofNat 64 (node * 2 ^ 48 + ret * 2 ^ 42 + off) } }
    | _ => none

/-- The answer of reticle `ret` to a request, as it waits for injection (R356, R382): KIND 8 acknowledges, 1 brings bytes back, 9
refuses. -/
def answering (s : State) (ret : Nat) (req : RemoteReq) (kind : Nat) (bs : List Byte) : Nat × Flit :=
  (ret, { kind, tc := req.tc, vf := req.vf, tid := req.tid, bytes := bs.length, payload := bs, srcNode := s.port.node, srcRet := ret
          dest := BitVec.ofNat 64 (req.srcNode * 2 ^ 48 + req.srcRet * 2 ^ 42) })

/-- Whether a record is of a request's source and TID (R391). -/
def sameTid (x : Applied) (req : RemoteReq) : Bool :=
  x.req.srcNode == req.srcNode && x.req.srcRet == req.srcRet && x.req.tid == req.tid

/-- A request repeats none that is recorded: what stands under its TID is another one, whose answer has been acknowledged (R391). -/
def NoRepeat (s : State) (req : RemoteReq) : Prop := ∀ x ∈ s.port.applied, sameTid x req = true → x.acked = true ∧ x.req ≠ req

/-- A request that reaches a reticle in service for the first time, whose owner's policy admits it, at a frame that stands in its own
place (R356, R381, R391); `off` is the reticle offset and `p` the partition that holds it. -/
def Admitted (s : State) (ret : Nat) (req : RemoteReq) (off : Nat) (p : Partition) : Prop :=
  s.live ret = true ∧ NoRepeat s req ∧
    off = field req.dest 0 42 ∧ field req.dest 42 6 = ret ∧ s.peerOk req.srcNode req.vf ret off = true ∧ s.homePart ret = some p ∧
    ∀ x ∈ s.root.spareOf, x.1 ≠ devAddr ret off / 65536 * 65536

/-- It is applied once, recorded in the place of what stood under its TID, and answered (R391). -/
def Applies (s s' : State) (ret : Nat) (req : RemoteReq) (kind : Nat) (bs : List Byte) : Prop :=
  s'.tasks = s.tasks ∧ s'.host = s.host ∧
  s'.port = { s.port with applied := (s.port.applied.filter fun x => !sameTid x req) ++ [{ req, data := bs }]
                          outgoing := s.port.outgoing ++ [answering s ret req kind bs] }

/-- No UNPIN or PF of the coach waits to be performed. -/
def NoHints (co : Coach) : Prop := ∀ p ∈ co.ops, match p.body with
  | .unpin _ => False
  | .pf .. => False
  | _ => True

/-- The new value of an atomic of `n` bytes (R216), from the old one, the operand and the comparison value. -/
def atomResult (op : BitVec 4) (n old x cmp : Nat) : Nat :=
  let sx (v : Nat) : Int := (BitVec.ofNat (8 * n) v).toInt
  let plus16 (i : Nat) : Nat := (fBF16.add .rne false false 0 (old / 2 ^ (16 * i) % 2 ^ 16) (x / 2 ^ (16 * i) % 2 ^ 16)).code
  if op = 0 then (old + x) % 2 ^ (8 * n)
  else if op = 1 then (if sx x < sx old then x else old)
  else if op = 2 then (if sx old < sx x then x else old)
  else if op = 3 then min old x
  else if op = 4 then max old x
  else if op = 5 then old &&& x
  else if op = 6 then old ||| x
  else if op = 7 then old ^^^ x
  else if op = 8 then x
  else if op = 9 then (if old = cmp then x else old)
  else if op = 10 then (plusRNE (BitVec.ofNat 32 old) (BitVec.ofNat 32 x)).toNat
  else plus16 0 + 2 ^ 16 * plus16 1

/-! ### Engines -/

/-- What checks at issue may change in the task and the coach: faults, parked lanes, and the lists the slot adds to. -/
def ChecksOnly (is js : Issue) : Prop :=
  js = { is with task := js.task, coach := js.coach } ∧
  FaultsOnly is.task js.task ∧
  js.coach = { is.coach with parked := js.coach.parked, ops := js.coach.ops, openBatch := js.coach.openBatch, seq := js.coach.seq }

/-- A copy slot (R254, R255): each enabled lane is checked; lanes that fail park, the others join the open batch in lane order; after a
copy of it has been cut short they write nothing (R263). A batch of 16 copies is sealed before a further copy joins. -/
def Copies (i : Instr) (kind : Issue → Nat → CopyKind) (a : Issue → Nat → Nat) (chk : State → Issue → Nat → CpChk) : Prop :=
  ∀ s is, s.issue = some is →
    let ok := (participants is).filter fun l => (match chk s is l with
      | .ok => true
      | _ => false)
    let new (l : Nat) : Copy :=
      { lane := l, site := is.site, kind := kind is l, s := a is l, seq := is.coach.seq
        chunks := if is.coach.openErr = none then ((kind is l).length + 1023) / 1024 else 0 }
    (is.coach.openBatch.length + ok.length ≤ 16 → ∃ js, Leaves i s js ∧ ChecksOnly is js ∧
      js.coach.ops = is.coach.ops ∧ js.coach.seq = is.coach.seq ∧ js.coach.openBatch = is.coach.openBatch ++ ok.map new ∧
      ∀ l, l < 64 → js.coach.parked.getLsbD l
        = (is.coach.parked.getLsbD l || is.enabled.getLsbD l && (match chk s is l with
            | .park .. => true
            | _ => false))) ∧
    ∀ l, participants is = [l] → ok = [l] → 16 ≤ is.coach.openBatch.length →
      let sealed : Op := { seq := is.coach.seq, cls := some .c, site := is.site, start := s.clock
                           body := .batch is.coach.nextBatch.toNat is.coach.openBatch is.coach.openErr }
      Leaves i s { is with coach := { is.coach with
        ops := is.coach.ops ++ [sealed], seq := is.coach.seq + 1, nextBatch := is.coach.nextBatch + 1
        openErr := is.coach.openErr.map fun e => (e.1, 0, 0)
        openBatch := [{ new l with seq := is.coach.seq + 1 }] } }

/-- A matrix slot that forms one part for each octet with an enabled lane (R271, R276 to R282): octets and lanes that fail their
checks park, the parts of the others enter issue order as one operation of class T. A slot with predicate 0xF does nothing. -/
def FormsParts (i : Instr) (body : Issue → List Part → Body) (chk : State → Issue → Nat → Lanes → MxChk) : Prop :=
  ∀ s is, s.issue = some is →
    if is.cur.pred = 0xF#4 then exec i s = .next s
    else ∃ js, Leaves i s js ∧ ChecksOnly is js ∧ js.coach.openBatch = is.coach.openBatch ∧ js.coach.seq = is.coach.seq + 1 ∧
      (let parts : List Part := is.octets.filterMap fun o => (match chk s is o.1 o.2 with
          | .part p _ _ => if p.lanes = 0 then none else some p
          | _ => none)
       let new : Op := { seq := is.coach.seq, cls := some .t, site := is.site, body := body is parts, start := s.clock
                         done := parts.isEmpty }
       js.coach.ops = pruneOps (is.coach.ops ++ [new])) ∧
      ∀ l, l < 64 → js.coach.parked.getLsbD l
        = (is.coach.parked.getLsbD l || is.octets.any fun o => (match chk s is o.1 o.2 with
            | .part _ alone _ => alone.any fun x => x.1 == l
            | .park .. => o.2.getLsbD l
            | .deny _ => false))

/-- A post slot (R363): lanes that fail their checks park, the posts of the others that hold bytes enter issue order as one operation of
class N. A slot with predicate 0xF does nothing. -/
def Posts (i : Instr) (scope : BitVec 3) (tc : BitVec 2) (a : BitVec 7) (kind : Issue → Nat → PostKind) : Prop :=
  ∀ s is, s.issue = some is →
    let chk (l : Nat) : CpChk := postCheck s is.task scope.toNat (kind is l) (pairAt is a l)
    if is.cur.pred = 0xF#4 then exec i s = .next s
    else ∃ js, Leaves i s js ∧ ChecksOnly is js ∧ js.coach.openBatch = is.coach.openBatch ∧ js.coach.seq = is.coach.seq + 1 ∧
      (let posts : List Post := (participants is).filterMap fun l => (match chk l with
          | .ok => if (kind is l).bytes = 0 then none else some { lane := l, kind := kind is l, dst := pairAt is a l }
          | _ => none)
       let new : Op := { seq := is.coach.seq, cls := some .n, site := is.site, body := .post scope.toNat tc.toNat posts, start := s.clock
                         done := posts.isEmpty }
       js.coach.ops = pruneOps (is.coach.ops ++ [waiting is.coach new])) ∧
      ∀ l, l < 64 → js.coach.parked.getLsbD l
        = (is.coach.parked.getLsbD l || is.enabled.getLsbD l && (match chk l with
            | .park .. => true
            | _ => false))

/-- `n` bytes at an offset of a reticle lie in one segment that is resident by row in one sector. -/
def RowHome (s : State) (ret off n : Nat) : Prop :=
  off % 32 + n ≤ 32 ∧ off < 2 ^ 42 ∧
  ∃ y i, s.resident? ret (off / 32 * 32) = some (y, i) ∧ y.column = false ∧ s.sector? ret y.base y.pc = some y

/-- A read of `n` bytes by row finds them as they stand at their home (R198, R200): they lie in one segment, which is resident in a sector by
row, or by column with no written row line of the sector in a CU; or resident nowhere, and read without allocation, or into a sector that
needs neither room nor another pitch's segments. -/
def HomeStands (s : State) (ret off n pol : Nat) : Prop :=
  off % 32 + n ≤ 32 ∧ off < 2 ^ 42 ∧
  match s.resident? ret (off / 32 * 32) with
  | some (y, _) => s.sector? ret y.base y.pc = some y ∧ (y.column = false ∨ ∀ l ∈ s.lines, l.column = false → y.holds l = true → l.dirty = 0)
  | none => pol = 3 ∨ (s.sector? ret (secBase 0 off) 0 = none ∧ s.conflicts ret (secBase 0 off) 0 = [] ∧
      (s.sectors.filter fun x => x.ret == ret && secSet x.base x.pc == secSet (secBase 0 off) 0).length < 16)

/-- Places whose bytes an engine reads and writes where they stand: host memory, or segments of this wafer that are resident by row. -/
def Quiet (s : State) (ls : List (Loc × Nat)) : Prop :=
  ∀ x ∈ ls, match x.1 with
    | .glob node ret off _ _ => node = 0xFFFF ∧ ∀ i, i < x.2 → RowHome s ret (off + i) 1
    | .host .. => True
    | .scratch _ => False

/-- Byte `i` from a place, as it stands at its home. -/
def byteAt (s : State) (l : Loc) (i : Nat) : Byte :=
  match l with
  | .glob _ ret off key _ => s.homeByte ret (off + i) key
  | .host a _ => tget 0 s.host (a + i)
  | .scratch _ => 0

/-- Of storage, no byte but those of the places has changed. -/
def OnlyAt (s s' : State) (ls : List (Loc × Nat)) : Prop :=
  (∀ ret b key, b < 2 ^ 42 → (∀ x ∈ ls, (Loc.glob 0xFFFF ret b key 0).meets 1 x.1 x.2 = false) → s'.homeByte ret b key = s.homeByte ret b key) ∧
  ∀ b, (∀ x ∈ ls, (Loc.host b 0).meets 1 x.1 x.2 = false) → tget 0 s'.host b = tget 0 s.host b

/-- A pinned sector of another pitch holds a segment of the sector of `pc` at `off` (R198, R204). -/
def PitchConflict (s : State) (ret off pc : Nat) : Prop :=
  ∃ y ∈ s.sectors, y.ret = ret ∧ y.pinned = true ∧ ¬ (y.base = secBase pc off ∧ y.pc = pc) ∧
    ∃ i j, i < 32 ∧ j < 32 ∧ y.valid.getLsbD i = true ∧ y.base + i * (32 * 2 ^ y.pc) = secBase pc off + j * (32 * 2 ^ pc)

/-- Pinned sectors of the set that the sector of `pc` at `off` falls in (R204). -/
def pinnedWays (s : State) (ret off pc : Nat) : Nat :=
  (s.sectors.filter fun y => y.ret == ret && y.pinned && secSet y.base y.pc == secSet (secBase pc off) pc).length

/-- Pinned sectors of a reticle, and the quota there of the top-level partition that holds it (R205). -/
def pinsUsed (s : State) (ret : Nat) : Nat := (s.sectors.filter fun y => y.ret == ret && y.pinned).length

def pinQuotaAt (s : State) (ret : Nat) : Nat := ((s.homePart ret).map fun p => p.pinQuota).getD 0

/-- The CU of a task holds no dirty line. -/
def CleanCU (s : State) (tk : Task) : Prop := ∀ l ∈ s.lines, l.ret = tk.ret → l.cu = tk.cu → l.dirty = 0

/-- At the homes of a reticle, exactly the bytes from `off` become `bs`, as the key slot's holder sees them; free bytes of another key are
compared under the same place of the free values (log 1). -/
def HomeSet (s s' : State) (ret off key : Nat) (bs : List Byte) : Prop :=
  ∀ b, b < 2 ^ 42 → { s' with freeIx := s.freeIx }.homeByte ret b key = if off ≤ b ∧ b < off + bs.length then bs.getD (b - off) 0 else s.homeByte ret b key

/-- Operation `seq` of a coach, not yet done. -/
def Outstanding (s : State) (t c seq : Nat) (tk : Task) (co : Coach) (o : Op) : Prop :=
  s.task? t = some tk ∧ tk.coach? c = some co ∧ co.op? seq = some o ∧ o.done = false

/-- The part of octet `oct` is marked performed; an operation with no other part left leaves the coach or is done. -/
def PartDone (co' : Coach) (seq oct : Nat) : Prop :=
  ∀ o, co'.op? seq = some o → o.done = true ∨ ∀ p ∈ o.body.parts, p.octet = oct → p.done = true

/-- A task ends with a code (R122): one more record of severity 3, unless its stop is over, the queue has no room or held bundles have
faults of their own to record first (R118), and its fate. -/
def EndsWith (tk tk' : Task) (code : Nat) : Prop :=
  tk'.fate = some (.terminated code) ∧
    (tk.stopDone = false → NoPending tk → tk.faults.length < 64 → ∃ r, tk'.faults = tk.faults ++ [r] ∧ r.code = code ∧ r.sev = 3)

/-- The record of a coach fault that an issued slot raised in a fragment's bundle (R118, R120): severity 2, with what the slot noted. -/
def IsCoachRec (co : Coach) (f : Frag) (x : CoachFault) (r : FaultRec) : Prop :=
  r.sev = 2 ∧ r.code = x.code ∧ r.addr = x.addr ∧ r.lane = x.lane ∧ r.plane = x.plane ∧ r.slot = x.slot ∧ r.pi = x.pi ∧
    r.coach = co.label ∧ r.fseq = f.age % 256 ∧ r.off = f.off ∧ r.hdr = f.ctx.hdr

/-- Fragments that fuse where they are released together (R125): one offset, one context, one call stack and one loop stack, and, by the
model's choice of log 74, the same transfer pending in their bundles. -/
def OneCourse (fs : List Frag) : Prop :=
  ∀ a ∈ fs, ∀ b ∈ fs, a.off = b.off ∧ a.ctx = b.ctx ∧ a.calls = b.calls ∧ a.loops = b.loops ∧ a.next = b.next

/-- Fragments have become one (R101, R125, R144): it holds the lanes of all, has the age of the oldest and their course, is no longer held,
and may issue after `n` cycles. -/
def FusedInto (fs : List Frag) (now n : Nat) (f : Frag) : Prop :=
  (∀ l, l < 64 → (f.mask.getLsbD l = true ↔ ∃ g ∈ fs, g.mask.getLsbD l = true)) ∧ (∃ g ∈ fs, f.age = g.age) ∧ (∀ g ∈ fs, f.age ≤ g.age) ∧
    (∀ g ∈ fs, f.off = g.off ∧ f.ctx = g.ctx ∧ f.calls = g.calls ∧ f.loops = g.loops) ∧ f.hold = .none ∧ f.readySince = now ∧
    f.stall = if n = 0 then none else some { till := now + n, yielded := false }

/-- A completion record (R337), field by field; `errSeq` is the number of the first entry in the error ring. -/
def RecordIs (r : BitVec 256) (t : Task) (errSeq : Nat) : Prop :=
  let f (i n : Nat) : Nat := (r.extractLsb' i n).toNat
  let again := t.retries ≠ 0
  let kind : Nat := match t.ending with
    | .completed => 0
    | .terminated _ => 2
    | .cancelled _ => 3
  f 0 1 = 1 ∧ f 1 2 = (if again then 1 else kind) ∧ f 3 2 = (if again then kind else 0) ∧ f 5 3 = t.cause % 8 ∧
    (∀ c, t.ending = .terminated c → c < 256 → f 8 8 = c) ∧ ((∀ c, t.ending ≠ .terminated c) → f 8 8 = 0) ∧
    (∀ l, t.ending = .cancelled l → l < 8 → f 16 3 = l) ∧ f 19 1 = (if t.ran then 1 else 0) ∧ f 20 12 = 0 ∧
    f 32 16 = min t.retries 65535 ∧ f 48 6 = (if t.ran then t.runRet % 64 else 0) ∧ f 54 5 = (if t.ran then t.cu % 32 else 0) ∧
    f 59 5 = 0 ∧ f 64 32 = t.index % 2 ^ 32 ∧ f 96 32 = t.badCpstat.toNat ∧ f 128 7 = t.faults.length % 128 ∧
    f 135 1 = (if t.lost then 1 else 0) ∧ f 136 56 = 0 ∧ f 192 64 = errSeq % 2 ^ 64

/-- An entry of the error ring (R338), field by field: the record, its number, and whom it concerns. -/
def EntryIs64 (bs : List Byte) (r : FaultRec) (seq : Nat) (w : ErrWho) : Prop :=
  let f (i n : Nat) : Nat := ((BitVec.ofNat 512 (leNat bs)).extractLsb' i n).toNat
  bs.length = 64 ∧ f 0 8 = r.code % 256 ∧ f 8 2 = r.sev % 4 ∧ f 10 1 = (if r.lost then 1 else 0) ∧ f 16 6 = r.lane % 64 ∧ f 24 3 = r.plane % 8 ∧
    f 28 3 = r.pi % 8 ∧ f 32 4 = r.coach % 16 ∧ f 36 2 = r.slot % 4 ∧ f 40 8 = r.fseq % 256 ∧ f 64 32 = r.off.toNat ∧
    f 128 64 = r.hdr.toNat ∧ f 192 64 = r.addr.toNat ∧ f 256 64 = seq % 2 ^ 64 ∧ f 320 32 = w.task % 2 ^ 32 ∧ f 352 6 = w.ret % 64 ∧
    f 358 5 = w.cu % 32 ∧ f 363 1 = (if r.auxk then 1 else 0) ∧ f 364 20 = 0 ∧ f 384 64 = w.desc % 2 ^ 64 ∧ f 448 64 = r.aux % 2 ^ 64

/-! ### What crosses wafers -/

/-- REMOTE_REQUEST_ARRIVE (R241, R356, R366, R391): a request that its owner's policy admits is applied at its home, recorded, and
answered; any other is refused; one that has been applied, and whose answer nothing has acknowledged, is only answered again; a fenced
reticle takes none. A read answers with the bytes at its home, a write leaves exactly its bytes there, POST.S adds to the 64 bits there.
A repeat of a request whose answer has been acknowledged on its way is taken as a repeat or as a new one, which the model leaves free
(its choice, log 80). -/
def RequestsAtTheirHome : Prop :=
  (∀ ret req s, s.live ret = false → exec (.remoteRequestArrive ret req) s = .next s) ∧
  (∀ ret req s x, s.live ret = true →
    (s.port.applied.find? fun x => sameTid x req) = some x → x.acked = false →
    exec (.remoteRequestArrive ret req) s = .next { s with
      freeIx := s.freeIx + 1
      port := { s.port with outgoing := s.port.outgoing ++ [answering s ret req (if x.data = [] then 8 else 1) x.data] } }) ∧
  (∀ ret req s, s.live ret = true → NoRepeat s req →
    (field req.dest 42 6 ≠ ret ∨ s.peerOk req.srcNode req.vf ret (field req.dest 0 42) = false) →
    exec (.remoteRequestArrive ret req) s = .next { s with
      port := { s.port with outgoing := s.port.outgoing ++ [answering s ret req 9 []] } }) ∧
  (∀ ret req s x, s.live ret = true → s.port.applied = [x] → sameTid x req = true → x.acked = true → x.req = req →
    field req.dest 42 6 = ret → s.peerOk req.srcNode req.vf ret (field req.dest 0 42) = true →
    ∃ s' bs, exec (.remoteRequestArrive ret req) s = .next s' ∧
      s'.port.outgoing = s.port.outgoing ++ [answering s ret req (if bs = [] then 8 else 1) bs] ∧
      (s'.port.applied = [x] ∧ bs = x.data ∨ s'.port.applied = [{ req, data := bs }])) ∧
  (∀ ret req s off p, Admitted s ret req off p → ∃ s' bs, exec (.remoteRequestArrive ret req) s = .next s' ∧
    Applies s s' ret req (if bs = [] then 8 else 1) bs) ∧
  (∀ ret req s off p n pol, Admitted s ret req off p → req.kind = .read n pol → 0 < n → RowHome s ret off n →
    ∃ s', exec (.remoteRequestArrive ret req) s = .next s' ∧
      Applies s s' ret req 1 (s.homeBytes ret off (s.keyNow ret off p.key) n)) ∧
  (∀ ret req s off p pol bs, Admitted s ret req off p → req.kind = .write pol bs → RowHome s ret off bs.length →
    ∃ s', exec (.remoteRequestArrive ret req) s = .next s' ∧ Applies s s' ret req 8 [] ∧
      HomeSet s s' ret off (s.keyNow ret off p.key) bs) ∧
  ∀ ret req s off p inc, Admitted s ret req off p → req.kind = .signal inc → RowHome s ret off 8 →
    ∃ s', exec (.remoteRequestArrive ret req) s = .next s' ∧ Applies s s' ret req 8 [] ∧
      HomeSet s s' ret off (s.keyNow ret off p.key)
        (leBytes 8 (leNat (s.homeBytes ret off (s.keyNow ret off p.key) 8) + inc.toNat))

/-- REMOTE_REFUSAL and CLASS_TIMEOUT of a lane's access (R242, R354, R356): a refusal that returns ends the task with REMOTE_DENIED; what
has stood at the port engine for its class timeout parks the lane with UNREACHABLE, and the operations that wait for its
acknowledgement, now or later, never complete; the last lane of an acquire still takes its L1 action. In both the lane's part is over, its
request is withdrawn, and nothing else changes. -/
def RequestsThatFail : Prop :=
  (∀ s t c seq tk co o q l, Outstanding s t c seq tk co o → q.client = .lane t c seq l →
    s.opReqs t co seq (fun q => q.answer == some .refused) = [q] → tk.fate = none → tk.phase ≠ .ended → NoPending tk →
    ∃ s' tk', exec (.remoteRefusal t c seq) s = .next s' ∧ s' = { s with tasks := s'.tasks, port := { s.port with reqs := s'.port.reqs } } ∧
      (∀ u, u ≠ t → s'.task? u = s.task? u) ∧ s'.task? t = some tk' ∧ EndsWith tk tk' 0x2A ∧
      tk' = { tk with coaches := tk'.coaches, faults := tk'.faults, lost := tk'.lost, fate := tk'.fate } ∧
      (∀ d, d ≠ c → tk'.coach? d = tk.coach? d) ∧
      (∃ co', tk'.coach? c = some co' ∧ co' = { co with ops := co'.ops } ∧
        ∀ p ∈ co'.ops, p.seq = seq → ∀ y ∈ p.lanes, y.lane ≠ l) ∧
      ∀ r ∈ s'.port.reqs, r.client ≠ q.client) ∧
  ∀ s t c seq tk co o q l, Outstanding s t c seq tk co o → q.client = .lane t c seq l → l < 64 → (∃ y ∈ o.lanes, y.lane = l) →
    (∀ scope tc ps, o.body ≠ .coll scope tc ps) → s.opReqs t co seq s.overdue = [q] →
    ∃ s' tk' co', exec (.classTimeout t c seq) s = .next s' ∧ StorageOnly s s' ∧
      (o.acquires = false → s' = { s with tasks := s'.tasks, port := { s.port with reqs := s'.port.reqs } }) ∧
      (o.acquires = true → 2 ≤ o.body.scope → (∀ y ∈ o.lanes, y.lane = l) → ∀ x ∈ s'.lines, ¬ (x.ret = tk.ret ∧ x.cu = tk.cu)) ∧
      (∀ u, u ≠ t → s'.task? u = s.task? u) ∧ s'.task? t = some tk' ∧ tk'.stopSince.isSome = true ∧ tk'.fate = tk.fate ∧
      (tk.faults.length < 64 → OneMore tk.faults tk'.faults fun r =>
        r.code = 0x28 ∧ r.sev = 1 ∧ r.lane = l ∧ r.addr = q.va ∧ r.slot = o.site.slot ∧ r.plane = o.site.plane) ∧
      (∀ d, d ≠ c → tk'.coach? d = tk.coach? d) ∧
      tk'.coach? c = some co' ∧ co' = { co with ops := co'.ops, parked := co'.parked, lost := co'.lost } ∧
      (∃ y ∈ co'.lost, y.seq = seq) ∧
      (∀ k, k < 64 → co'.parked.getLsbD k = (co.parked.getLsbD k || decide (k = l))) ∧
      (∀ p ∈ co'.ops, (p.seq = seq → ∀ y ∈ p.lanes, y.lane ≠ l) ∧
        (seq < p.seq → p.done = false → p.covers o = true → p.never = true)) ∧
      ∀ r ∈ s'.port.reqs, r.client ≠ q.client

/-! ### Tasks -/

/-- Of all tasks only `t` changes: from `tk` to what `P` says. -/
def TaskStep (s s' : State) (t : Nat) (tk : Task) (P : Task → Prop) : Prop :=
  (∀ u, u ≠ t → s'.task? u = s.task? u) ∧ s.task? t = some tk ∧ ∃ tk', s'.task? t = some tk' ∧ P tk'

/-- The event completes, changes nothing outside the task list, and there one coach of one task. -/
def CoachEvent (i : Instr) (s : State) (t c : Nat) (co : Coach) (P : Coach → Prop) : Prop :=
  ∃ s', exec i s = .next s' ∧ s' = { s with tasks := s'.tasks } ∧ CoachStep s s' t c co P

/-- The event completes, changes nothing outside the task list, and there one task. -/
def TaskEvent (i : Instr) (s : State) (t : Nat) (tk : Task) (P : Task → Prop) : Prop :=
  ∃ s', exec i s = .next s' ∧ s' = { s with tasks := s'.tasks } ∧ TaskStep s s' t tk P

/-- The same, after which an issue cycle has passed. -/
def CycleEvent (i : Instr) (s : State) (t : Nat) (tk : Task) (P : Task → Prop) : Prop :=
  ∃ s', exec i s = .next (s'.tick 1) ∧ s' = { s with tasks := s'.tasks } ∧ TaskStep s s' t tk P

/-- A fragment's hold or stall is over at cycle `now`: the coach has it ready, its other fragments as they were. -/
def Released (now age : Nat) (f : Frag) (co co' : Coach) : Prop :=
  co' = { co with frags := co'.frags, readySince := co'.readySince, reserved := co'.reserved } ∧
  (co'.frag? age = some { f with hold := .none, stall := none, readySince := now }) ∧
  (∀ a, a ≠ age → co'.frag? a = co.frag? a) ∧
  (co.frags.any co.fragReady = true → co'.readySince = co.readySince ∧ co'.reserved = co.reserved) ∧
  (co.frags.any co.fragReady = false → co'.readySince = now ∧ co'.reserved = false)

/-! ### Links and the root -/

/-- The event completes in a state of which `P` holds. -/
def Completes (i : Instr) (s : State) (P : State → Prop) : Prop := ∃ s', exec i s = .next s' ∧ P s'

/-- No input acts within the bundle in issue now: the next one is for after the bundle, or takes its task or its coach from running, and
waits for the bundle's end. -/
def Undisturbed (s : State) (is : Issue) : Prop :=
  ∀ x rest, s.inputs = x :: rest → x.within = true → ∀ t, exec x.ev (((s.showIssue is).takeInput x rest).tick x.dt) = .next t →
    t.settleStep.resumeIssue is = none

/-- Of the state only links, counters and messages have changed. -/
def LinksOnly (s s' : State) : Prop := s' = { s with links := s'.links, counters := s'.counters, outbox := s'.outbox }

/-- The messages that an event sends, beside the interrupts of counters that wrap (R430). -/
def Sends (s s' : State) (ms : List OutMsg) : Prop :=
  let plain (m : OutMsg) : Bool := match m with
    | .interrupt .. => false
    | _ => true
  s'.outbox.filter plain = s.outbox.filter plain ++ ms

/-- 96 bytes that pass the checks of R383 at a mesh port that carries traffic, and hold no NAK. -/
def Sound (s : State) (site port : Nat) (bits : BitVec 768) : Prop :=
  s.portUp site port = true ∧ s.switchOn site = true ∧ port < 4 ∧ flitBad bits = false ∧ bits.getLsbD 44 = false

/-- A command is refused, or fails, with a reason (R417), and has no other effect. -/
def Refuses (i : Instr) (s : State) (c : Cmd) (code : Nat) : Prop := exec i s = .next (s.refuse c code)

/-- A command is done at once: its effect leaves a state of which `P` holds, and then it is answered. -/
def Does (i : Instr) (s : State) (c : Cmd) (P : State → Prop) : Prop := ∃ t, exec i s = .next (t.done c) ∧ P t

/-- A command's effect leaves a state of which `P` holds; it is done then, or runs on while invalidations that it caused are deferred
(R334). -/
def DoesAfter (i : Instr) (s : State) (c : Cmd) (P : State → Prop) : Prop := ∃ t, exec i s = .next (t.doneAfter c) ∧ P t

/-- A handle that no object has had since power-up (R411), while such numbers are left. -/
def FreshHandle (s : State) (h : Word) : Prop := s.root.handles.length < 2 ^ 32 - 1 → h ≠ 0 ∧ h ∉ s.root.handles

/-- A command that creates an object under a fresh handle. -/
def Makes (i : Instr) (s : State) (c : Cmd) (P : Word → State → Prop) : Prop :=
  ∃ h t, exec i s = .next (t.close c 2 0 (some h)) ∧ FreshHandle s h ∧ P h t

/-- The journal entry of a command takes a state and a code (R414); every other entry stays. -/
def EntryIs (s s' : State) (c : Cmd) (state code : Nat) : Prop :=
  s'.root.journal = s.root.journal.map fun e => if e.seq = c.seq then { e with state, code, result := 0 } else e

/-- One more invalidation is in progress (R333, R335). -/
def InvalStarts (s s' : State) (cause vf lo hi seq : Nat) (move : Option (Nat × Nat × Nat)) : Prop :=
  s'.root.nextInval = s.root.nextInval + 1 ∧ ∃ x, s'.root.invals = s.root.invals ++ [x] ∧ x.id = s.root.nextInval + 1 ∧ x.cause = cause ∧
    x.vf = vf ∧ x.seq = seq ∧ x.move = move ∧ x.lo = lo ∧ x.hi = hi

/-- A completion entry as it lies in host memory (R411). -/
def EntryAt (s : State) (a : Nat) (ctag : Dword) (seq : Nat) (result : Word) (code state : Nat) (phase : Bool) : Prop :=
  let f (i n : Nat) : Nat := leNat (Memory.readN s.host (a + i) n)
  f 0 8 = ctag.toNat ∧ f 8 8 = seq % 2 ^ 64 ∧ f 16 4 = result.toNat ∧ f 20 1 = code % 256 ∧
    f 21 1 = state % 8 + (if phase then 8 else 0) ∧ f 22 10 = 0

/-- Step entries 1 to 7 of a reset (R423), where the journal has room for them. -/
def SevenSteps (s t : State) (kind : Nat) : Prop :=
  s.root.journal.length + 7 ≤ 65536 →
    (t.root.journal.drop s.root.journal.length).map (fun e => (e.kind, e.step, e.state)) = (List.range 7).map fun i => (kind, i + 1, 2)

/-- Nothing of a function's work is left: tasks, launches, graphs, jobs, partitions. -/
def NoWork (t : State) (vf : Nat) : Prop :=
  (∀ x ∈ t.tasks, x.vf ≠ vf) ∧ (∀ x ∈ t.launches, x.vf ≠ vf) ∧ (∀ x ∈ t.graphs, x.vf ≠ vf) ∧ (∀ x ∈ t.jobs, x.vf ≠ vf) ∧
    ∀ x ∈ t.parts, x.vf ≠ vf

end Sys2Proof.Claim
end

