-- ==== Sys2Proof/Certificates/Slice0/Obligations.lean ====
section
/-! DEFINITION. The statements for the provers. -/

open Sys2Proof Sys2Proof.Machine Sys2Proof.Claim

/-! ### Integer instructions (R161 to R169) -/

/-- Lanes that a slot takes effect for (R42, R94): those of the pass that are live, not parked and in the fragment, and whose
slot predicate, inverted where the slot says so, holds; p7 always holds. -/
def Obligations.EnabledLanesAreThePredicatedActiveOnes : Prop :=
  ∀ (is : Issue) (l : Nat), l < 64 →
    is.enabled.getLsbD l
      = (is.cur.lanes.getLsbD l && is.coach.live.getLsbD l && !is.coach.parked.getLsbD l && is.frag.mask.getLsbD l &&
          (Bool.xor (is.cur.pred.getLsbD 3)
            (decide (is.cur.pred.extractLsb' 0 3 = 7) || (tget 0 is.snap.p (is.cur.pred.extractLsb' 0 3).toNat).getLsbD l)))

/-- Sums, differences, minima, maxima, saturating sums and products of R161: every destination register, lane and file. -/
def Obligations.IntegerArithmetic : Prop :=
  Binary .iadd (fun a b => BitVec.ofNat 32 (a.toNat + b.toNat)) ∧
  Binary .isub (fun a b => BitVec.ofInt 32 (a.toInt - b.toInt)) ∧
  Binary .imin (fun a b => BitVec.ofInt 32 (min a.toInt b.toInt)) ∧
  Binary .imax (fun a b => BitVec.ofInt 32 (max a.toInt b.toInt)) ∧
  Binary .iminn (fun a b => BitVec.ofNat 32 (min a.toNat b.toNat)) ∧
  Binary .imaxn (fun a b => BitVec.ofNat 32 (max a.toNat b.toNat)) ∧
  Binary .iadds (fun a b => saturate (a.toInt + b.toInt)) ∧
  Binary .isubs (fun a b => saturate (a.toInt - b.toInt)) ∧
  Binary .imul (fun a b => BitVec.ofNat 32 (a.toNat * b.toNat)) ∧
  Binary .imulh (fun a b => (a.signExtend 64 * b.signExtend 64).extractLsb' 32 32) ∧
  Binary .imulhn (fun a b => (a.zeroExtend 64 * b.zeroExtend 64).extractLsb' 32 32) ∧
  Ternary .imad (fun a b d => BitVec.ofNat 32 (a.toNat * b.toNat + d.toNat))

/-- Logic, shifts and the rotation of R161: counts come from the low bits of b, and a count of 32 or more shifts everything
out. -/
def Obligations.LogicAndShifts : Prop :=
  Binary .and (fun a b => bitsOf fun i => a.getLsbD i && b.getLsbD i) ∧
  Binary .or (fun a b => bitsOf fun i => a.getLsbD i || b.getLsbD i) ∧
  Binary .xor (fun a b => bitsOf fun i => Bool.xor (a.getLsbD i) (b.getLsbD i)) ∧
  Binary .andn (fun a b => bitsOf fun i => a.getLsbD i && !b.getLsbD i) ∧
  Binary .shl (fun a b => BitVec.ofNat 32 (a.toNat * 2 ^ (b.toNat % 256))) ∧
  Binary .shr (fun a b => BitVec.ofNat 32 (a.toNat / 2 ^ (b.toNat % 256))) ∧
  Binary .sar (fun a b => BitVec.ofInt 32 (a.toInt / 2 ^ (b.toNat % 256))) ∧
  Binary .rotr (fun a b => bitsOf fun i => a.getLsbD ((i + b.toNat % 32) % 32))

/-- Counting, reversal, bit fields and byte shuffles of R162. -/
def Obligations.BitOperations : Prop :=
  Unary .popc (fun a => BitVec.ofNat 32 ((List.range 32).countP a.getLsbD)) ∧
  Unary .clz (fun a => BitVec.ofNat 32 ((List.range 32).takeWhile fun i => !a.getMsbD i).length) ∧
  Unary .brev (fun a => bitsOf fun i => a.getLsbD (31 - i)) ∧
  Binary .bfe (fun a b => (a.extractLsb' (bitField b).1 (bitField b).2).signExtend 32) ∧
  Binary .bfen (fun a b => (a.extractLsb' (bitField b).1 (bitField b).2).zeroExtend 32) ∧
  Ternary .bfi (fun a b d => bitsOf fun i =>
    if (bitField b).1 ≤ i ∧ i < (bitField b).1 + (bitField b).2 then a.getLsbD (i - (bitField b).1) else d.getLsbD i) ∧
  Ternary .bshuf (fun a b d => (((shuffled a d (b.extractLsb' 18 6) ++ shuffled a d (b.extractLsb' 12 6))
    ++ shuffled a d (b.extractLsb' 6 6)) ++ shuffled a d (b.extractLsb' 0 6)).zeroExtend 32) ∧
  Unary .ffs (fun a => if a = 0 then 0xFFFFFFFF#32
    else BitVec.ofNat 32 ((List.range 32).takeWhile fun i => !a.getLsbD i).length)

/-- Comparisons write a lane or group predicate; a write to index 7 is discarded (R160, R163, R166). -/
def Obligations.IntegerComparisons : Prop :=
  (∀ u cc pd a b,
    let holds (x y : Word) : Bool :=
      if cc = 0#3 then decide (x.toNat = y.toNat) else if cc = 1#3 then decide (x.toNat ≠ y.toNat)
      else if cc = 2#3 then decide (x.toInt < y.toInt) else if cc = 3#3 then decide (x.toInt ≤ y.toInt)
      else if cc = 4#3 then decide (y.toInt < x.toInt) else if cc = 5#3 then decide (y.toInt ≤ x.toInt)
      else if cc = 6#3 then decide (x.toNat < y.toNat) else decide (y.toNat ≤ x.toNat)
    Verdict (.icmp u cc pd a b) u pd (fun is l => holds (is.snap.vget a.toNat l) (is.snap.vget b.toNat l))
      (fun is => holds (is.snap.gget a.toNat) (is.snap.gget b.toNat))) ∧
  ∀ u pd a imm, Verdict (.icmpiEq u pd a imm) u pd (fun is l => decide ((is.snap.vget a.toNat l).toInt = imm.toInt))
      (fun is => decide ((is.snap.gget a.toNat).toInt = imm.toInt))

/-- SEL and LEA as R164 and R165 give them, words and results: SEL takes a where the predicate that its minor names holds, lane by lane and
apart from the slot predicate, index 7 always; LEA adds a shifted operand. And the immediate forms of R166 and R167: immediates are signed
but for shift counts and MOVI; MOVI.H keeps the low half. -/
def Obligations.SelectAddressAndImmediates : Prop :=
  (∀ u (k : BitVec 3) (d a b : BitVec 7),
    encode (.sel u k d a b) = some (((((((0#1 ++ 0x15#6) ++ BitVec.ofBool u) ++ k) ++ d) ++ a) ++ b), none) ∧
    encode (.lea u k d a b) = some (((((((0#1 ++ 0x19#6) ++ BitVec.ofBool u) ++ k) ++ d) ++ a) ++ b), none)) ∧
  ((∀ u ps d a b, Result (.sel u ps d a b) u d.toNat
     (fun is l => if ps = 7 ∨ (tget 0 is.snap.p ps.toNat).getLsbD l = true then is.snap.vget a.toNat l
       else is.snap.vget b.toNat l)
     (fun is => if ps = 7 ∨ is.snap.q.getLsbD ps.toNat = true then is.snap.gget a.toNat else is.snap.gget b.toNat)) ∧
   ∀ sh : BitVec 3, Binary (fun u d a b => .lea u sh d a b) fun a b => BitVec.ofNat 32 (a.toNat + b.toNat * 2 ^ sh.toNat)) ∧
  WithImm .iaddi (fun a imm => BitVec.ofInt 32 (a.toInt + imm.toInt)) ∧
  WithImm .andi (fun a imm => bitsOf fun i => a.getLsbD i && (BitVec.ofInt 32 imm.toInt).getLsbD i) ∧
  WithImm .ori (fun a imm => bitsOf fun i => a.getLsbD i || (BitVec.ofInt 32 imm.toInt).getLsbD i) ∧
  WithImm .xori (fun a imm => bitsOf fun i => Bool.xor (a.getLsbD i) ((BitVec.ofInt 32 imm.toInt).getLsbD i)) ∧
  WithImm .shli (fun a imm => BitVec.ofNat 32 (a.toNat * 2 ^ imm.toNat)) ∧
  WithImm .shri (fun a imm => BitVec.ofNat 32 (a.toNat / 2 ^ imm.toNat)) ∧
  WithImm .sari (fun a imm => BitVec.ofInt 32 (a.toInt / 2 ^ imm.toNat)) ∧
  (∀ u d (imm : BitVec 16), Result (.movi u d imm) u d.toNat (fun _ _ => BitVec.ofNat 32 imm.toNat)
    (fun _ => BitVec.ofNat 32 imm.toNat)) ∧
  ∀ u d (imm : BitVec 16), Result (.moviH u d imm) u d.toNat
    (fun is l => BitVec.ofNat 32 (imm.toNat * 65536 + (is.snap.vget d.toNat l).toNat % 65536))
    (fun is => BitVec.ofNat 32 (imm.toNat * 65536 + (is.snap.gget d.toNat).toNat % 65536))

/-- The carry chain of R168 and R169. -/
def Obligations.CarryChains : Prop :=
  Carries .iaddCo (fun a b _ => (BitVec.ofNat 32 (a.toNat + b.toNat), decide (2 ^ 32 ≤ a.toNat + b.toNat))) ∧
  Carries .iaddCiCo (fun a b c => (BitVec.ofNat 32 (a.toNat + b.toNat + c.toNat), decide (2 ^ 32 ≤ a.toNat + b.toNat + c.toNat))) ∧
  Carries .isubBo (fun a b _ => (BitVec.ofInt 32 (a.toNat - b.toNat), decide ((a.toNat : Int) - b.toNat < 0))) ∧
  Carries .isubBiBo (fun a b c =>
    (BitVec.ofInt 32 (a.toNat - b.toNat - c.toNat), decide ((a.toNat : Int) - b.toNat - c.toNat < 0)))

/-! ### Floating point (R65 to R80, R170 to R176) -/

/-- The rounding mode of a slot is its rnd field, or GMODE.RM as it stood before the chained group where the field is 0; FTZ and
SAT are GMODE's bits 3 and 4 (R69, R70, R74).
FADD, FSUB, FMUL and FFMA in both files: values and flags by one rounding of the exact result, generator steps under SR,
flags into GMODE, and nothing else (R75, R80, R157, R170). -/
def Obligations.FloatArithmeticUnderItsMode : Prop :=
  (∀ (is : Issue) (rnd : BitVec 3),
     let rm := if rnd = 0 then (is.snap.gmode.extractLsb' 0 3).toNat else rnd.toNat
     let mode : RMode := if rm = 2 then .rtz else if rm = 3 then .rup else if rm = 4 then .rdn else if rm = 5 then .rna
       else if rm = 6 then .sr else .rne
     EnvIs is rnd mode (is.snap.gmode.getLsbD 3) (is.snap.gmode.getLsbD 4)) ∧
  ∀ u rnd d a b,
    Rounded (.fadd u rnd d a b) u rnd d a b 1 (fun e x r => ofRes (fFP32.add e.mode e.ftz e.sat x r.a.toNat r.b.toNat)) ∧
    Rounded (.fsub u rnd d a b) u rnd d a b 1
      (fun e x r => ofRes (fFP32.add e.mode e.ftz e.sat x r.a.toNat (r.b ^^^ 0x80000000#32).toNat)) ∧
    Rounded (.fmul u rnd d a b) u rnd d a b 1 (fun e x r => ofRes (fFP32.mul e.mode e.ftz e.sat x r.a.toNat r.b.toNat)) ∧
    Rounded (.ffma u rnd d a b) u rnd d a b 1
      (fun e x r => ofRes (fFP32.fma e.mode e.ftz e.sat x r.a.toNat r.b.toNat r.d.toNat))

/-- Minima, maxima, sign operations and FCLASS: no rounding, no generator step, no flag but IV for a signalling NaN (R171). -/
def Obligations.FloatExactForms : Prop :=
  ∀ u d a b,
    Rounded (.fmin u d a b) u 1 d a b 0 (fun e _ r => extreme false false e.ftz r.a r.b) ∧
    Rounded (.fmax u d a b) u 1 d a b 0 (fun e _ r => extreme true false e.ftz r.a r.b) ∧
    Rounded (.fminm u d a b) u 1 d a b 0 (fun e _ r => extreme false true e.ftz r.a r.b) ∧
    Rounded (.fmaxm u d a b) u 1 d a b 0 (fun e _ r => extreme true true e.ftz r.a r.b) ∧
    Rounded (.fabs u d a) u 1 d a 0 0 (fun _ _ r => signedAs r.a false) ∧
    Rounded (.fneg u d a) u 1 d a 0 0 (fun _ _ r => signedAs r.a (!r.a.getLsbD 31)) ∧
    Rounded (.fcopysign u d a b) u 1 d a b 0 (fun _ _ r => signedAs r.a (r.b.getLsbD 31)) ∧
    Rounded (.fclass u d a) u 1 d a 0 0 (fun _ _ r => classOf r.a)

/-- FCMP writes its predicate in the lanes it takes effect for, or its group predicate, and joins IV to GMODE; operands are
compared as numbers, -0 equal to +0, and a NaN is unordered (R172). -/
def Obligations.FloatComparison : Prop :=
  ∀ u cc pd a b s is, s.issue = some is → ∃ js ks, Leaves (.fcmp u cc pd a b) s js ∧
    let ftz := is.snap.gmode.getLsbD 3
    if u then
      let r := compared cc ftz (is.snap.gget a.toNat) (is.snap.gget b.toNat)
      let fl : Word := if is.qon then r.2 else 0
      js = { ks with coach := { ks.coach with gmode := ks.coach.gmode ||| fl }, flags := ks.flags ||| fl } ∧
        GroupPredicateSet is ks pd is.qon r.1
    else
      let r (l : Nat) := compared cc ftz (is.snap.vget a.toNat l) (is.snap.vget b.toNat l)
      let fl := flagsOver is.enabled fun l => (r l).2
      js = { ks with coach := { ks.coach with gmode := ks.coach.gmode ||| fl }, flags := ks.flags ||| fl } ∧
        PredicateSet is ks pd is.enabled fun l => (r l).1

/-- The functions of FSPEC complete with their value and flags under RNE whatever the mode, without a generator step; and their
special operands give what R173 tabulates. -/
def Obligations.FloatFunctions : Prop :=
  (∀ u rnd d a,
    Rounded (.rcp u rnd d a) u rnd d a 0 0 (fun e _ r => ofRes (fspecRes 0 e.ftz r.a)) ∧
    Rounded (.rsq u rnd d a) u rnd d a 0 0 (fun e _ r => ofRes (fspecRes 1 e.ftz r.a)) ∧
    Rounded (.sqrt u rnd d a) u rnd d a 0 0 (fun e _ r => ofRes (fspecRes 2 e.ftz r.a)) ∧
    Rounded (.exp2 u rnd d a) u rnd d a 0 0 (fun e _ r => ofRes (fspecRes 3 e.ftz r.a)) ∧
    Rounded (.log2 u rnd d a) u rnd d a 0 0 (fun e _ r => ofRes (fspecRes 4 e.ftz r.a)) ∧
    Rounded (.sinpi u rnd d a) u rnd d a 0 0 (fun e _ r => ofRes (fspecRes 5 e.ftz r.a)) ∧
    Rounded (.cospi u rnd d a) u rnd d a 0 0 (fun e _ r => ofRes (fspecRes 6 e.ftz r.a)) ∧
    Rounded (.tanh u rnd d a) u rnd d a 0 0 (fun e _ r => ofRes (fspecRes 7 e.ftz r.a))) ∧
  (∀ ftz fn a, isNan a = true → ofRes (fspecRes fn ftz a) = (0x7FC00000#32, if isSig a then fIV else 0)) ∧
  (∀ ftz a, a.toNat % 2 ^ 31 = 0 →
    let sign := a &&& 0x80000000#32
    ofRes (fspecRes 0 ftz a) = (sign ||| 0x7F800000#32, fDZ) ∧ ofRes (fspecRes 1 ftz a) = (sign ||| 0x7F800000#32, fDZ) ∧
    ofRes (fspecRes 2 ftz a) = (sign, 0) ∧ ofRes (fspecRes 4 ftz a) = (0xFF800000#32, fDZ) ∧
    ofRes (fspecRes 5 ftz a) = (sign, 0) ∧ ofRes (fspecRes 6 ftz a) = (0x3F800000#32, 0) ∧
    ofRes (fspecRes 7 ftz a) = (sign, 0)) ∧
  (∀ ftz a, a.getLsbD 31 = true → isNan a = false → 2 ^ 23 ≤ a.toNat % 2 ^ 31 →
    ofRes (fspecRes 1 ftz a) = (0x7FC00000#32, fIV) ∧ ofRes (fspecRes 2 ftz a) = (0x7FC00000#32, fIV) ∧
    ofRes (fspecRes 4 ftz a) = (0x7FC00000#32, fIV)) ∧
  ∀ ftz neg, let a : Word := if neg then 0xFF800000#32 else 0x7F800000#32
    ofRes (fspecRes 0 ftz a) = (if neg then 0x80000000#32 else 0, 0) ∧
    ofRes (fspecRes 3 ftz a) = (if neg then 0 else 0x7F800000#32, 0) ∧
    (neg = false → ofRes (fspecRes 1 ftz a) = (0, 0) ∧ ofRes (fspecRes 2 ftz a) = (0x7F800000#32, 0) ∧
      ofRes (fspecRes 4 ftz a) = (0x7F800000#32, 0)) ∧
    ofRes (fspecRes 5 ftz a) = (0x7FC00000#32, fIV) ∧ ofRes (fspecRes 6 ftz a) = (0x7FC00000#32, fIV) ∧
    ofRes (fspecRes 7 ftz a) = (0x7FC00000#32, fIV)

/-- CVT in both files and the packed BF16 operations: results, flags and one generator step for each element that rounds (R80,
R174, R175); what a narrowing, a widening and a conversion to an integer answer, operand by operand (R67, R73, R174), EXV standing for the
E2M1 code 8; and the elements of a packed result, each rounded by itself (R175). That EXV is compared with a source before FTZ flushes it
is the model's choice (log 76). -/
def Obligations.ConversionsAndPacked : Prop :=
  (∀ u rnd d a code, Rounded (.cvt u rnd d a code) u rnd d a 0
    (if 5 ≤ code.toNat ∧ code.toNat ≤ 9 then 0 else if code.toNat = 14 then 2 else 1)
    (fun e x r => ofRes (cvtRes code e x r))) ∧
  (∀ (e : Env) x (r : Srcs),
    let v (code : BitVec 4) : Word × Word := ofRes (cvtRes code e x r)
    let a := r.a
    Narrows fBF16 0x7FC0 (some 0x7F80) 0x7F7F e x a (v 0) ∧ Narrows fFP16 0x7E00 (some 0x7C00) 0x7BFF e x a (v 1) ∧
    Narrows fE4M3 0x7F none 0x7E e x a (v 2) ∧ Narrows fE5M2 0x7E (some 0x7C) 0x7B e x a (v 3) ∧
    (a = e.exv → v 4 = (8, 0)) ∧
    (a ≠ e.exv →
      (isNan a = true → v 4 = (0, fIV)) ∧
      (a.toNat % 2 ^ 31 = 0x7F800000 → v 4 = (if neg32 a then 0xF else 0x7, fOF ||| fNX)) ∧
      (readsZero e.ftz a → v 4 = (0, 0)) ∧
      (a.toNat % 2 ^ 31 < 0x7F800000 → ¬ readsZero e.ftz a →
        let w := ofRes (fE2M1.round e.mode e.ftz e.sat x (neg32 a) (int32 a) (exp32 a))
        v 4 = (if w.1 = 8 then 0 else w.1, w.2))) ∧
    Widens fBF16 e.ftz (a.toNat % 2 ^ 16) (v 5) ∧ Widens fFP16 e.ftz (a.toNat % 2 ^ 16) (v 6) ∧
    Widens fE4M3 e.ftz (a.toNat % 2 ^ 8) (v 7) ∧ Widens fE5M2 e.ftz (a.toNat % 2 ^ 8) (v 8) ∧
    (a.toNat % 16 = 8 → v 9 = (if isNan e.exv then (0x7FC00000, if isSig e.exv then fIV else 0) else (e.exv, 0))) ∧
    (∀ k (w : Word), (k, w) ∈ [(0, 0), (1, 0x3F000000#32), (2, 0x3F800000#32), (3, 0x3FC00000#32), (4, 0x40000000#32), (5, 0x40400000#32),
        (6, 0x40800000#32), (7, 0x40C00000#32)] →
      (a.toNat % 16 = k → v 9 = (w, 0)) ∧ (k ≠ 0 → a.toNat % 16 = k + 8 → v 9 = (w ||| 0x80000000#32, 0))) ∧
    ToInteger (-2147483648) 2147483647 e x a (v 10) ∧ ToInteger 0 4294967295 e x a (v 13) ∧
    (∀ (code : BitVec 4) (n : Int), (code = 11 ∧ n = a.toInt ∨ code = 12 ∧ n = a.toNat) →
      (n = 0 → v code = (0, 0)) ∧ (v code).2 &&& ~~~fNX = 0 ∧
      (n ≠ 0 → v code = ofRes (fFP32.round e.mode false false x (decide (n < 0)) n.natAbs 0))) ∧
    ∃ hi, Narrows fBF16 0x7FC0 (some 0x7F80) 0x7F7F e (if e.mode = .sr then srStep x else x) r.a1 hi ∧
      v 14 = (hi.1 <<< 16 ||| (v 0).1, (v 0).2 ||| hi.2)) ∧
  (∀ (e : Env) x (r : Srcs), ∀ op ∈ [fun m f t x a b (_ : Nat) => fBF16.add m f t x a b, fun m f t x a b _ => fBF16.mul m f t x a b,
      fun m f t x a b z => fBF16.fma m f t x a b z],
    let part (j : Nat) (w : Word) : Nat := w.toNat / 2 ^ (16 * j) % 2 ^ 16
    let elt (j : Nat) (x : Word) := op e.mode e.ftz e.sat x (part j r.a) (part j r.b) (part j r.d)
    let y := if e.mode = .sr then srStep x else x
    part 0 (packed2 op e x r).1 = (elt 0 x).code ∧ part 1 (packed2 op e x r).1 = (elt 1 y).code ∧
      (packed2 op e x r).2 = (elt 0 x).flags ||| (elt 1 y).flags) ∧
  ∀ rnd d a b,
    Rounded (.badd2 rnd d a b) false rnd d a b 2 (packed2 fun m f t x a b _ => fBF16.add m f t x a b) ∧
    Rounded (.bmul2 rnd d a b) false rnd d a b 2 (packed2 fun m f t x a b _ => fBF16.mul m f t x a b) ∧
    Rounded (.bfma2 rnd d a b) false rnd d a b 2 (packed2 fun m f t x a b z => fBF16.fma m f t x a b z)

/-- RAND and RANDF step the generator of each lane they take effect for once, whatever the rounding mode, and write the new state,
or its upper 24 bits times 2^-24 as an FP32 pattern whose value is exactly that; no flag is raised (R79, R80, R176). -/
def Obligations.RandomNumbers : Prop :=
  ∀ d s is, s.issue = some is →
    (∃ js v sr, Leaves (.rand d) s js ∧ js = { is with coach := { is.coach with v := v, sr := sr } } ∧
      (∀ l, js.coach.srget l = if is.enabled.getLsbD l = true then srStep (is.coach.srget l) else is.coach.srget l) ∧
      ∀ k l, l < 64 → js.coach.vget k l
        = if k = d.toNat ∧ is.enabled.getLsbD l = true then srStep (is.coach.srget l) else is.coach.vget k l) ∧
    ∃ js v sr, Leaves (.randf d) s js ∧ js = { is with coach := { is.coach with v := v, sr := sr } } ∧
      (∀ l, js.coach.srget l = if is.enabled.getLsbD l = true then srStep (is.coach.srget l) else is.coach.srget l) ∧
      ∀ k l, l < 64 → if k = d.toNat ∧ is.enabled.getLsbD l = true
        then scaled (js.coach.vget k l) = ((srStep (is.coach.srget l)).toNat / 2 ^ 8 : Nat) * 2 ^ 125 ∧
          (js.coach.vget k l).toNat < 0x3F800000
        else js.coach.vget k l = is.coach.vget k l

/-- Rounding a magnitude m * 2^e to a multiple of 2^q keeps a neighbour of the exact value: an exact value is kept and not
called inexact; RTZ never exceeds it, RUP and RDN keep to their side, RNE and RNA keep the nearer neighbour, and on a tie RNE
keeps the even one and RNA the one farther from zero; SR goes away from zero exactly when the top bits of the generator are
below the discarded ones (R69, R79). -/
def Obligations.RoundingKeepsTheNamedNeighbour : Prop :=
  ∀ (mode : RMode) (x : Word) (neg : Bool) (m k : Nat) (e q : Int), q = e + k →
    let r := roundAt mode x neg m e q
    let unit := 2 ^ k
    (r.2 = decide (m % unit ≠ 0)) ∧
    (m % unit = 0 → r.1 * unit = m) ∧
    r.1 * unit < m + unit ∧ m < r.1 * unit + unit ∧
    (mode = .rtz → r.1 * unit ≤ m) ∧
    (mode = .rup → if neg then r.1 * unit ≤ m else m ≤ r.1 * unit) ∧
    (mode = .rdn → if neg then m ≤ r.1 * unit else r.1 * unit ≤ m) ∧
    (mode = .rne → 2 * (r.1 * unit) ≤ 2 * m + unit ∧ 2 * m ≤ 2 * (r.1 * unit) + unit ∧
      (2 * (m % unit) = unit → r.1 % 2 = 0)) ∧
    (mode = .rna → 2 * (r.1 * unit) ≤ 2 * m + unit ∧ 2 * m ≤ 2 * (r.1 * unit) + unit ∧
      (2 * (m % unit) = unit → m < r.1 * unit)) ∧
    (mode = .sr → k ≤ 32 → (m < r.1 * unit ↔ x.toNat / 2 ^ (32 - k) < m % unit))

/-- Sums and products of finite values are exact, whatever their exponents (R170).
A result that neither overflows nor flushes is the rounded value: for FP32, with q the exponent of its last kept bit, the
code decodes to sign and kept integer times 2^q (R66, R69, R72). -/
def Obligations.ExactResultsAndTheirCodes : Prop :=
  (∀ (na nb : Bool) (ma mb : Nat) (ea eb : Int) (k : Int), 0 ≤ ea + k → 0 ≤ eb + k →
     (∃ v, addExact (.fin na ma ea) (.fin nb mb eb) = some v ∧ numAt k v = numAt k (.fin na ma ea) + numAt k (.fin nb mb eb)) ∧
     ∃ v, mulExact (.fin na ma ea) (.fin nb mb eb) = some v ∧
       numAt (k + k) v = numAt k (.fin na ma ea) * numAt k (.fin nb mb eb)) ∧
  ∀ (f : Fmt), f ∈ [fFP32, fFP16, fBF16, fE5M2, fE4M3, fE2M1] →
  ∀ (mode : RMode) (sat : Bool) (x : Word) (neg : Bool) (m : Nat) (e : Int), m ≠ 0 →
    let q := max (expOf m e - f.fw) f.qmin
    let r := f.round mode false sat x neg m e
    let kept := (roundAt mode x neg m e q).1
    r.flags &&& fOF = 0 →
      ∃ m' e', f.decode r.code = .fin neg m' e' ∧ f.qmin ≤ e' ∧
        m' * 2 ^ (e' - f.qmin).toNat = kept * 2 ^ (q - f.qmin).toNat

/-! ### Lane exchange and coach-wide operations (R177 to R182) -/

/-- The six exchanges (R179): the source lane of each, its value where that lane is active and lies in the coach, a lane's own
value otherwise; only the destination register changes, in the participants alone.
The five votes (R180) write their one result, over an empty set too: ANY is then false, ALL true, BALLOT and COUNT 0, FIRST all ones. That
a vote whose slot carries the predicate that is always false writes nothing (`on`) is the model's choice, log 21: R42 against R180. -/
def Obligations.LaneExchangeAndVotes : Prop :=
  (∀ d a b,
     Exchanges (.idxO d a b) d a b (fun _ l x => some (8 * (l / 8) + x % 8)) ∧
     Exchanges (.idxC d a b) d a b (fun _ _ x => some x) ∧
     Exchanges (.upC d a b) d a b (fun _ l x => if x > l then none else some (l - x)) ∧
     Exchanges (.downC d a b) d a b (fun _ l x => some (l + x)) ∧
     Exchanges (.xorC d a b) d a b (fun _ l x => some (l ^^^ x)) ∧
     Exchanges (.bcastC d a) d a 0 (fun is _ _ => some ((participants is).headD 0 - 8 * is.coach.octet0))) ∧
  ∀ (pa : BitVec 3) (s : State) (is : Issue), s.issue = some is →
    let on := decide (is.cur.pred ≠ 0xF#4)
    (∀ qd, ∃ js, Leaves (.voteAny qd pa) s js ∧ GroupPredicateSet is js qd on (decide (voters is pa ≠ []))) ∧
    (∀ qd, ∃ js, Leaves (.voteAll qd pa) s js ∧ GroupPredicateSet is js qd on (decide (voters is pa = participants is))) ∧
    (∀ gd, ∃ js, Leaves (.voteCount gd pa) s js ∧
      GroupSet is js gd.toNat on (BitVec.ofNat 32 (voters is pa).length)) ∧
    (∀ gd, ∃ js, Leaves (.voteFirst gd pa) s js ∧
      GroupSet is js gd.toNat on (match voters is pa with
        | l :: _ => BitVec.ofNat 32 (l - 8 * is.coach.octet0)
        | [] => 0xFFFFFFFF#32)) ∧
    ∀ gd, ∃ js g, Leaves (.voteBallot gd pa) s js ∧ js = { is with coach := { is.coach with g := g } } ∧
      (∀ r, r ≠ gd.toNat → r ≠ gd.toNat + 1 → js.coach.gget r = is.coach.gget r) ∧
      (on = false → js = is) ∧
      ∀ l, l < 64 → on = true → (js.coach.gpair gd.toNat).getLsbD l
        = decide (8 * is.coach.octet0 + l ∈ voters is pa)

/-- RDC writes the tree reduction of R181 over the lanes of the coach, its width a power of two up to 8 octets (a coach has no other), or the
default NaN for a minimum or maximum over nothing or over NaNs alone. That it writes nothing under the predicate that is always false is
the model's choice, log 21: R42 against R181. PRFX writes each participant the running sum in ascending lane order (R182). -/
def Obligations.ReductionsAndScans : Prop :=
  ∀ (s : State) (is : Issue), s.issue = some is →
    (∀ op gd a n, n ≤ 3 → is.coach.width = 2 ^ n → ∃ js, Leaves (.rdc op gd a) s js ∧
      GroupSet is js gd.toNat (decide (is.cur.pred ≠ 0xF#4))
        (match reduced op (fun i => if is.enabled.getLsbD (8 * is.coach.octet0 + i) = true
            then some (is.snap.vget a.toNat (8 * is.coach.octet0 + i)) else identity op) (n + 3) 0 with
          | some x => if (op = 4 ∨ op = 5) ∧ isNan x = true then 0x7FC00000#32 else x
          | none => 0x7FC00000#32)) ∧
    ∀ form d a, ∃ js, Leaves (.prfx form d a) s js ∧
      let sums := running (if form.getLsbD 1 then plusRNE else fun x y => x + y) (form.getLsbD 0) (is.snap.vget a.toNat)
        (if form.getLsbD 1 then 0x80000000#32 else 0) (participants is)
      VectorSet is js d.toNat is.enabled fun l => ((sums.find? fun x => x.1 = l).map Prod.snd).getD 0

/-! ### Control (R127 to R155) -/

/-- SRD and CTRRD write a special register or performance counter to the lanes of the pass or to a group register, CLOCK and every
counter to a pair; nothing else changes (R52, R128, R129). A lane register read into gD is that of the lowest lane of the pass.
SWR writes GMODE (its reserved bits ignored, the flags of its own chained group joined after it), the generator of every lane of
the coach, or EXV; a rounding mode of 0 or 7 raises ILLEGAL_FIELD and leaves GMODE as it is (R52, R74, R76, R78). -/
def Obligations.SpecialRegisters : Prop :=
  (∀ (s : State) (is : Issue), s.issue = some is →
     (∀ (d sel : BitVec 7), ∃ js g, Leaves (.srd true d sel) s js ∧ js = { is with coach := { is.coach with g := g } } ∧
       ∀ k, js.coach.gget k
         = if is.qon = true ∧ sel = 12 ∧ k = d.toNat + 1 then clockWord s 32
           else if is.qon = true ∧ k = d.toNat then specialOf s is sel.toNat (((List.range 64).find? is.pass.getLsbD).getD 0)
           else is.coach.gget k) ∧
     (∀ (d sel : BitVec 7), ∃ js v, Leaves (.srd false d sel) s js ∧ js = { is with coach := { is.coach with v := v } } ∧
       ∀ k l, l < 64 → js.coach.vget k l
         = if is.qon = true ∧ is.pass.getLsbD l = true ∧ sel = 12 ∧ k = d.toNat + 1 then clockWord s 32
           else if is.qon = true ∧ is.pass.getLsbD l = true ∧ k = d.toNat then specialOf s is sel.toNat l
           else is.coach.vget k l) ∧
     let x (m : BitVec 5) := s.ctrRead is.task.ret is.task.cu is.task.vf m.toNat
     (∀ (d : BitVec 7) (m : BitVec 5), ∃ js g, Leaves (.ctrrd true d m) s js ∧ js = { is with coach := { is.coach with g := g } } ∧
       ∀ k, js.coach.gget k
         = if is.qon = true ∧ k = d.toNat + 1 then (x m).extractLsb' 32 32
           else if is.qon = true ∧ k = d.toNat then (x m).extractLsb' 0 32 else is.coach.gget k) ∧
     ∀ (d : BitVec 7) (m : BitVec 5), ∃ js v, Leaves (.ctrrd false d m) s js ∧ js = { is with coach := { is.coach with v := v } } ∧
       ∀ k l, l < 64 → js.coach.vget k l
         = if is.qon = true ∧ is.pass.getLsbD l = true ∧ k = d.toNat + 1 then (x m).extractLsb' 32 32
           else if is.qon = true ∧ is.pass.getLsbD l = true ∧ k = d.toNat then (x m).extractLsb' 0 32 else is.coach.vget k l) ∧
  (∀ src, Acts (.swr src 9) fun _ is =>
    let x := is.snap.gget src.toNat
    if x.extractLsb' 0 3 = 0 ∨ x.extractLsb' 0 3 = 7 then raising is cILLEGAL_FIELD 0
    else { is with coach := { is.coach with gmode := gmodeWritten x ||| is.flags } }) ∧
  (∀ src, Acts (.swr src 11) fun _ is => { is with coach := { is.coach with exv := is.snap.gget src.toNat } }) ∧
  ∀ src s is, s.issue = some is → ∃ js sr, Leaves (.swr src 10) s js ∧ js = { is with coach := { is.coach with sr := sr } } ∧
    ∀ l, l < 64 → js.coach.srget l
      = if is.qon = true ∧ is.coach.lanes.getLsbD l = true then
          let x := is.snap.gget src.toNat ^^^ (BitVec.ofNat 32 (is.task.ret * 2048 + is.task.cu * 64 + l) * 0x9E3779B9#32)
          if x = 0 then 1 else x
        else is.coach.srget l

/-- NOP and STEP complete with no effect of their own, YIELD keeps the fragment from issue for n cycles after the bundle, and TRAP
and BRKPT raise their coach fault, when their q predicate holds (R118, R128, R149). -/
def Obligations.SystemInstructions : Prop :=
  (∀ s, exec .nop s = .next s) ∧
  (∀ file reg inc s, exec (.step file reg inc) s = .next s) ∧
  (∀ n, Acts (.yieldN n) fun _ is => { is with yieldN := some (max n.toNat (is.yieldN.getD 0)) }) ∧
  Acts .trap (fun _ is => raising is 0x09 0) ∧
  Acts .brkpt fun _ is => raising is 0x0A 0

/-- Branches, calls, returns, ends and TEND: each notes at its slot what the bundle's end will do, BRD by the active lanes whose
predicate holds (R130 to R135, R154). A split where the table is full, an entry counting from the slot that takes it, raises
SPLIT_OVERFLOW and branches no lane. TEND ends the task's fetches at its slot. -/
def Obligations.ControlTransfers : Prop :=
  (∀ disp, Acts (.bra disp) fun _ is => taking is (.jump (targetOf is disp))) ∧
  (∀ disp, Acts (.bru disp) fun _ is => taking is (.jump (targetOf is disp))) ∧
  (∀ disp s is, s.issue = some is →
    let t := is.active &&& is.snap.penable is.cur.pred
    Leaves (.brd disp) s
      (if t = 0 then is
       else if t = is.active then taking is (.jump (targetOf is disp))
       else if is.coach.entries < 8 then taking is (.split t (targetOf is disp))
       else raising is cSPLIT_OVERFLOW 0)) ∧
  (∀ k, Acts (.brxu k) fun _ is =>
    taking is (.jump (BitVec.ofNat 32 ((is.snap.gget (2 * k.toNat)).toNat + 16 * (is.snap.gget (2 * k.toNat + 1)).toNat)))) ∧
  (∀ disp, Acts (.call disp) fun s is =>
    calling s is (BitVec.ofInt 64 (is.frag.ctx.base.toNat + is.frag.off.toNat + 16 * disp.toInt))) ∧
  (∀ k, Acts (.calli k) fun s is =>
    calling s is (BitVec.ofNat 64 ((is.snap.gget (2 * k.toNat)).toNat + 2 ^ 32 * (is.snap.gget (2 * k.toNat + 1)).toNat))) ∧
  Acts .ret (fun _ is => taking is .ret) ∧
  Acts .exit (fun _ is => taking is .exit) ∧
  Acts .tend fun _ is =>
    { taking is .tend with task := { is.task with tend := true }, coach := { is.coach with tended := true } }

/-- What a bundle's end does (R100, R126, R131, R134, R135, R147 to R151): where the fragment goes on, its call and loop stacks, its lanes,
and the two fragments of a split; registers stay as they are but for the STEP words of a pass that ends. Sequential flow at the last bundle
of a LOOP body counts a pass, and jumps back or pops the entry; the lanes of a split that stay go on in sequence. A jump pops the entries of
its call depth whose body it leaves, a RET those of the call that it ends. The fragment is in the coach's split table under its age.
A coach fault that an issued slot raised stops the coach as its bundle ends, with one record of severity 2 (R118 to R122); one of a bundle
that is still held when its task goes no further is recorded then, which is the model's reading of R118 and R119 (log 11). -/
def Obligations.TransfersTakeEffectAtTheBundlesEnd : Prop :=
  (∀ (is : Issue) (now : Nat), (is.task.coach? is.coach.num).isSome = true →
    let t := is.checkIn now
    (∀ d, d ≠ is.coach.num → t.coach? d = is.task.coach? d) ∧ t.fate = is.task.fate ∧
    (is.cfault = none → t.faults = is.task.faults ∧ t.stopSince = is.task.stopSince ∧
      ∃ c, t.coach? is.coach.num = some c ∧ c.stopped = is.coach.stopped) ∧
    ∀ x, is.cfault = some x → t.stopSince = some (is.task.stopSince.getD now) ∧
      (∃ c, t.coach? is.coach.num = some c ∧ c.stopped = true) ∧
      (is.task.faults.length < 64 → OneMore is.task.faults t.faults fun r => IsCoachRec is.coach is.frag x r ∧ r.cyc = now)) ∧
  (∀ (t : Task) now c f x, (t.stopDone = true ∨ t.tend = true) → c ∈ t.coaches → c.former = none → f ∈ c.frags → f.cfault = some x →
    NoPending (t.settle now) ∧
    (t.faults.length + (t.coaches.flatMap fun c => c.frags.filterMap fun f => f.cfault).length ≤ 64 →
      ∃ r ∈ (t.settle now).faults, IsCoachRec c f x r)) ∧
  ∀ (is : Issue) (now : Nat) (f0 : Frag), is.coach.frag? is.frag.age = some f0 →
    let c := is.apply now
    (∀ off, is.next = .jump off → ∃ f, c.frag? is.frag.age = some f ∧ f.off = off ∧ f.mask = is.frag.mask ∧ f.ctx = is.frag.ctx ∧
      f.calls = is.frag.calls ∧ f.loops = leftLoops is.frag.calls.length off is.frag.loops ∧ c = { is.coach with frags := c.frags }) ∧
    (is.next = .seq → is.frag.loops.length ≤ 4 →
      let r := afterPass is.frag.calls.length is.frag.off is.frag.loops
      ∃ f, c.frag? is.frag.age = some f ∧ f.off = r.2.1 ∧ f.loops = r.1 ∧ f.mask = is.frag.mask ∧ f.ctx = is.frag.ctx ∧
        f.calls = is.frag.calls ∧ c = { is.coach with frags := c.frags, v := c.v, g := c.g } ∧ Stepped is.coach c is.active r.2.2) ∧
    (∀ off, is.next = .skip off → ∃ f, c.frag? is.frag.age = some f ∧ f.off = off ∧ f.loops = is.frag.loops ∧ f.mask = is.frag.mask ∧
      f.ctx = is.frag.ctx ∧ f.calls = is.frag.calls ∧ c = { is.coach with frags := c.frags }) ∧
    (∀ ctx, is.next = .call ctx → ∃ f, c.frag? is.frag.age = some f ∧ f.off = 0 ∧ f.mask = is.frag.mask ∧ f.ctx = ctx ∧
      f.calls = { ctx := is.frag.ctx, off := is.frag.off + 16 } :: is.frag.calls ∧ f.loops = is.frag.loops ∧
      c = { is.coach with frags := c.frags }) ∧
    (∀ e rest, is.next = .ret → is.frag.calls = e :: rest → ∃ f, c.frag? is.frag.age = some f ∧ f.off = e.off ∧ f.ctx = e.ctx ∧
      f.calls = rest ∧ f.mask = is.frag.mask ∧ f.loops = is.frag.loops.filter (fun l => decide (l.depth ≤ rest.length)) ∧
      c = { is.coach with frags := c.frags }) ∧
    ((is.next = .exit ∨ is.next = .ret ∧ is.frag.calls = []) →
      c.live = is.coach.live &&& ~~~is.active ∧ c = { is.coach with frags := c.frags, live := c.live }) ∧
    (is.next = .tend → c = { is.coach with frags := c.frags }) ∧
    ∀ lanes off, is.next = .split lanes off → is.frag.loops.length ≤ 4 →
      let r := afterPass is.frag.calls.length is.frag.off is.frag.loops
      (∃ g, g ∈ c.frags ∧ g.mask = lanes ∧ g.off = off ∧ g.age = is.coach.nextAge ∧ g.ctx = is.frag.ctx ∧ g.calls = is.frag.calls ∧
        g.loops = leftLoops is.frag.calls.length off is.frag.loops) ∧
      (∃ f, c.frag? is.frag.age = some f ∧ f.mask = is.frag.mask &&& ~~~lanes ∧ f.off = r.2.1 ∧ f.loops = r.1 ∧ f.ctx = is.frag.ctx ∧
        f.calls = is.frag.calls) ∧
      Stepped is.coach c (is.active &&& ~~~lanes) r.2.2 ∧
      c = { is.coach with frags := c.frags, v := c.v, g := c.g, nextAge := is.coach.nextAge + 1 } ∧
      c.frags.length = is.coach.frags.length + 1

/-- Reconvergence registers and plane numbers (R136, R137, R139): RCVSET records target, header and the fragment's mask in rbk, and a
fragment held at RCVWAIT rbk that the new contents do not name goes on at once, unless the task is ending; RCVWAIT asks for the hold exactly where rbk names this bundle; PLSET and PLSETR set the plane of each enabled lane. -/
def Obligations.ReconvergenceAndPlanes : Prop :=
  (∀ k disp s is, s.issue = some is → ∃ js, Leaves (.rcvset k disp) s js ∧ js = { is with coach := js.coach } ∧
    (is.qon = false → js = is) ∧ (∀ j, j ≠ k → js.coach.rbGet j = is.coach.rbGet j) ∧
    (is.qon = true →
      let r : Rcv := { off := targetOf is disp, hdr := is.frag.ctx.hdr, mask := is.frag.mask }
      ((∀ f ∈ is.coach.frags, f.hold ≠ .rcv k) → ∃ rb, js.coach = { is.coach with rb := rb } ∧ js.coach.rbGet k = some r) ∧
      (is.task.stopSince = none → is.task.tend = false → (is.coach.frags.map Frag.age).Nodup →
        ∀ f ∈ is.coach.frags, f.hold = .rcv k → (f.off ≠ r.off ∨ f.ctx.hdr ≠ r.hdr) →
          ∃ g ∈ js.coach.frags, g.age = f.age ∧ g.hold = .none ∧ g.mask = f.mask))) ∧
  (∀ k, Acts (.rcvwait k) fun _ is =>
    match is.coach.rbGet k with
    | some r => if r.off = is.frag.off ∧ r.hdr = is.frag.ctx.hdr then { is with hold := .rcv k } else is
    | none => is) ∧
  (∀ n s is, s.issue = some is → ∃ js pi, Leaves (.plset n) s js ∧ js = { is with coach := { is.coach with pi := pi } } ∧
    ∀ l, l < 64 → js.coach.piget l = if is.enabled.getLsbD l = true then n else is.coach.piget l) ∧
  ∀ src s is, s.issue = some is → ∃ js pi, Leaves (.plsetr src) s js ∧ js = { is with coach := { is.coach with pi := pi } } ∧
    ∀ l, l < 64 → js.coach.piget l
      = if is.enabled.getLsbD l = true then (is.snap.vget src.toNat l).extractLsb' 0 3 else is.coach.piget l

/-- CSPLIT and CFUSE at issue (R104, R105, R140): CSPLIT raises its fault for the reserved width or one not below the coach's, for a coach with more
than one fragment, and for more than 16 coaches; else both ask for their hold, an open batch that holds copies being sealed.
CFUSE passes in a coach that no CSPLIT made. That ended coaches count towards the 16, and a coach that waits at CSPLIT as its siblings to
be, is the model's choice, log 24: R104 does not say. -/
def Obligations.ResizingAtIssue : Prop :=
  (∀ wl, Acts (.csplit wl) fun s is =>
    let w := 2 ^ wl.toNat
    if wl = 3 ∨ is.coach.width ≤ w then raising is cILLEGAL_FIELD 0
    else if is.coach.frags.length ≠ 1 then raising is cCONVERGENCE_REQUIRED 0
    else if 16 < (is.task.coaches.filter fun c => c.former.isNone && decide (c.num ≠ is.coach.num)).foldl (fun n c => n + (match c.frags with
        | [f] => (match f.hold with
          | .csplit x => c.width / x
          | _ => 1)
        | _ => 1)) 0 + is.coach.width / w then raising is cSPLIT_OVERFLOW 0
    else { is with coach := is.coach.sealOpen is.site s.clock, hold := .csplit w }) ∧
  Acts .cfuse fun s is =>
    if is.coach.frags.length ≠ 1 then raising is cCONVERGENCE_REQUIRED 0
    else if is.coach.sibs = [] then is
    else { is with coach := is.coach.sealOpen is.site s.clock, hold := .cfuse }

/-- BAR and WAIT at issue (R6, R7, R108, R109, R142, R143, R145): the barrier id is the field or the group register named; an id
beyond the task's barriers raises ILLEGAL_FIELD; BAR.SYNC and BAR.ARR place the fragment at the barrier; BAR.WAIT asks for its hold
until the generation of the coach's latest BAR.ARR completes; WAIT holds while a counter stands above a threshold below 31. -/
def Obligations.BarriersAndWaitsAtIssue : Prop :=
  let idOf (is : Issue) (ind : Bool) (id : BitVec 8) : Nat := if ind then (is.snap.gget id.toNat).toNat else id.toNat
  (∀ ind id k, Acts (.barSync ind id k) fun _ is =>
    if is.task.shape.barriers ≤ idOf is ind id then raising is cILLEGAL_FIELD 0
    else { is with hold := .bar true (idOf is ind id) k.toNat }) ∧
  (∀ ind id k, Acts (.barArr ind id k) fun _ is =>
    if is.task.shape.barriers ≤ idOf is ind id then raising is cILLEGAL_FIELD 0
    else { is with hold := .bar false (idOf is ind id) k.toNat }) ∧
  (∀ ind id, Acts (.barWait ind id) fun _ is =>
    if is.task.shape.barriers ≤ idOf is ind id then raising is cILLEGAL_FIELD 0
    else match is.coach.arrived.find? fun x => x.1 = idOf is ind id with
      | some x => if (is.task.barrier (idOf is ind id)).gen < x.2 then { is with hold := .gen false (idOf is ind id) x.2 } else is
      | none => is) ∧
  ∀ l sc cc t n s is, s.issue = some is →
    if is.qon = false then Leaves (.wait l sc cc t n) s is
    else if (l = 31 ∨ is.coach.count .l ≤ l.toNat) ∧ (sc = 31 ∨ is.coach.count .s ≤ sc.toNat) ∧ (cc = 31 ∨ is.coach.count .c ≤ cc.toNat) ∧
        (t = 31 ∨ is.coach.count .t ≤ t.toNat) ∧ (n = 31 ∨ is.coach.count .n ≤ n.toNat)
    then ∃ co, Leaves (.wait l sc cc t n) s { is with coach := co } ∧ Observed is.frag.mask l sc cc t n is.coach co
    else Leaves (.wait l sc cc t n) s { is with hold := .wait l sc cc t n }

/-- LOOP, TSPAWN and TSIG at issue (R149, R155, R317): LOOP raises ILLEGAL_FIELD for a body that reaches past the function, a full
stack, or a body that leaves its outer loop; skips its body for a count of 0; else pushes its entry. TSPAWN and TSIG add their request to
those of the task, in issue order; a misaligned or unreadable descriptor parks the lowest active lane. -/
def Obligations.LoopsAndTaskRequests : Prop :=
  (∀ b t ns, Acts (.loop b t ns) fun _ is =>
    let stop := is.frag.off.toNat + 16 * b.toNat
    let crosses := match is.frag.loops with
      | e :: _ => decide (e.depth = is.frag.calls.length ∧ e.stop.toNat < stop)
      | [] => false
    if 16 * is.frag.ctx.len ≤ stop ∨ is.frag.loops.length ≥ 4 ∨ crosses = true then raising is cILLEGAL_FIELD 0
    else if is.snap.gget t.toNat = 0 then { is with next := .skip (BitVec.ofNat 32 (stop + 16)) }
    else { is with frag := { is.frag with loops :=
      { start := is.frag.off + 16, stop := BitVec.ofNat 32 stop, left := is.snap.gget t.toNat,
        steps := is.stepWords ns.toNat, depth := is.frag.calls.length } :: is.frag.loops } }) ∧
  (∀ k, Acts (.tspawn k) fun s is =>
    let va : Dword := BitVec.ofNat 64 ((is.snap.gget (2 * k.toNat)).toNat + 2 ^ 32 * (is.snap.gget (2 * k.toNat + 1)).toNat)
    let low := ((List.range 64).find? is.active.getLsbD).getD 0
    if va.toNat % 64 ≠ 0 then is.park s.clock low cMISALIGNED_ACCESS va
    else if is.task.extent? .read va.toNat 64 = none then is.park s.clock low cWINDOW_VIOLATION va
    else { is with task := { is.task with signals := is.task.signals ++
      [{ coach := is.coach.num, seq := is.coach.seq, spawn := true, val := va }] } }) ∧
  ∀ g, Acts (.tsig g) fun _ is => { is with task := { is.task with signals := is.task.signals ++
    [{ coach := is.coach.num, seq := is.coach.seq, spawn := false, val := BitVec.ofNat 64 (is.snap.gget g.toNat).toNat }] } }

/-! ### Memory -/

/-- LD, ST, LDS, STS, ATOM, ATOMS, PIN and LDAXIS at issue (R13, R50, R116, R117, R120, R190, R206 to R208, R214, R216, R221, R222): the
address in each lane, the checks it meets there, the bytes it brings, and the class it counts on; a lane that fails has a record of the
check's code and its address, and a denied one ends the task. -/
def Obligations.AccessesAtIssue : Prop :=
  let none0 : MemExt := { order := 0, scope := 0, policy := 0, ofs := 0 }
  let disp (x : Option MemExt) : Int := (x.getD none0).ofs.toInt
  (∀ size d o k sc x, Queues (.ld size d o k sc x) (some .l) (.load size d (x.getD none0)) fun s is l =>
    let va := globalAddr is k o sc (disp x) l
    (va, checkGlobal s is.task .read (x.getD none0).scope.toNat false false va (accessBytes size), [])) ∧
  (∀ size d o k sc x, Queues (.st size d o k sc x) (some .s) (.store size (x.getD none0)) fun s is l =>
    let va := globalAddr is k o sc (disp x) l
    (va, checkGlobal s is.task .write (x.getD none0).scope.toNat false false va (accessBytes size),
      storedBytes is d l (accessBytes size))) ∧
  (∀ size d o k sc x, Queues (.lds size d o k sc x) (some .l) (.load size d (x.getD none0)) fun _ is l =>
    let a := scratchAddr is k o sc (disp x) l
    (BitVec.ofNat 64 a, checkScratch is.task a (accessBytes size), [])) ∧
  (∀ size d o k sc x, Queues (.sts size d o k sc x) (some .s) (.store size (x.getD none0)) fun _ is l =>
    let a := scratchAddr is k o sc (disp x) l
    (BitVec.ofNat 64 a, checkScratch is.task a (accessBytes size), storedBytes is d l (accessBytes size))) ∧
  (∀ size d o k sc x, Queues (.atom size d o k sc x) (some .l) (.atom size d x) fun s is l =>
    let va := globalAddr is k o sc x.ofs.toInt l
    (va, checkGlobal s is.task .atomic x.scope.toNat true true va (accessBytes size), storedBytes is d l (2 * accessBytes size))) ∧
  (∀ size d o k sc x, Queues (.atoms size d o k sc x) (some .l) (.atom size d x) fun _ is l =>
    let a := scratchAddr is k o sc x.ofs.toInt l
    (BitVec.ofNat 64 a, checkScratch is.task a (accessBytes size), storedBytes is d l (2 * accessBytes size))) ∧
  (∀ d a pitch, Queues (.pin d a pitch) (some .l) (.pin d pitch.toNat) fun s is l =>
    (pairAt is a l, checkSector s is.task .any pitch.toNat 1 false (pairAt is a l), [])) ∧
  ∀ d a pitch w, Queues (.ldaxis d a pitch w) (some .l) (.ldaxis d pitch.toNat (2 ^ w.toNat)) fun s is l =>
    (pairAt is a l, checkSector s is.task .read pitch.toNat (2 ^ w.toNat) true (pairAt is a l), [])

/-- An access that its checks let pass is aligned, of a scope that the policy allows, and lies whole inside one extent of the task that
grants it, at the place that extent translates it to; a scratchpad access lies inside the task's scratchpad (R13, R190, R206,
R207). A whole-sector access also keeps the sector's 32 segments inside that extent. -/
def Obligations.AccessesStayInsideGrantedExtents : Prop :=
  (∀ (s : State) (t : Task) k scope once noHost (va : Dword) n l, checkGlobal s t k scope once noHost va n = .ok l →
    va.toNat % n = 0 ∧ s.scopeOk t.vf scope = true ∧ (once = true → t.pinned = true) ∧ s.routeOf false l = .ok ∧
    ∃ e ∈ t.extents, e.wid < 32 ∧ permOk k e.perm = true ∧ e.va ≤ va.toNat ∧ va.toNat + n ≤ e.va + e.len ∧
      (noHost = true → e.host = false) ∧ l = s.locate e va.toNat) ∧
  (∀ (t : Task) a n l, checkScratch t a n = .ok l → l = .scratch a ∧ a % n = 0 ∧ a + n ≤ t.shape.scratch) ∧
  ∀ (s : State) (t : Task) k pc w rows (va : Dword) node ret off key wid,
    checkSector s t k pc w rows va = .ok (.glob node ret off key wid) →
    ∃ e ∈ t.extents, e.va + (off - secBase pc off) ≤ va.toNat ∧
      va.toNat - (off - secBase pc off) + 31 * (32 * 2 ^ pc) + 32 ≤ e.va + e.len

/-- FENCE at issue and its completion, and UNPIN and PF (R206, R218 to R221). A fence with an enabled lane enters issue order unless
its scope is denied; UNPIN and PF wait for the coach's earlier accesses, else UNPIN unpins exactly the sectors that the lanes name and
that the task's own top-level partition owns (the owner is the model's choice, log 20: R221 against R205), and PF completes for any lanes, that of one lane leaves the whole sector, for level 1 the segment's L1 line, in place; lanes
whose home is on another wafer go to the port engine; a fence completes when nothing it waits for is outstanding, and at scope 2
and above an acquire leaves no line of the CU. -/
def Obligations.FencesAndHints : Prop :=
  (∀ scope kind s is, s.issue = some is → Leaves (.fence scope kind) s
    (if is.enabled = 0 then is
     else if s.scopeOk is.task.vf scope.toNat = false then is.parkAll s.clock is.enabled cSCOPE_DENIED fun _ => 0
     else { is with coach := { is.coach with
        ops := is.coach.ops ++ [waiting is.coach { seq := is.coach.seq, cls := none, site := is.site, start := s.clock
                                                   body := .fence scope.toNat kind.toNat }]
        seq := is.coach.seq + 1 } })) ∧
  (∀ a pitch s is, s.issue = some is → (∃ p ∈ is.coach.ops, p.done = false ∧ (p.isAccess || p.isFence) = true) →
    (Leaves (.unpin a pitch) s (is.addOp s.clock none (.unpin pitch.toNat) (hintLanes s is a.toNat))) ∧
    ∀ level, Leaves (.pf a pitch level) s (is.addOp s.clock none (.pf pitch.toNat level.toNat) (hintLanes s is a.toNat))) ∧
  (∀ a pitch s is, s.issue = some is → (∀ p ∈ is.coach.ops, p.done = false → (p.isAccess || p.isFence) = false) →
    ∃ sec : List Sector, exec (.unpin a pitch) s = .next { s with
        sectors := sec, port := { s.port with reqs := s.port.reqs ++ handedOver s is.task (.unpin pitch.toNat) (hintLanes s is a.toNat) } } ∧ sec.length = s.sectors.length ∧
      (∀ (i : Nat) (x y : Sector), s.sectors[i]? = some x → (sec : List Sector)[i]? = some y → y = { x with pinned := y.pinned } ∧ (y.pinned = true → x.pinned = true) ∧
        (y.pinned = x.pinned ∨ (s.homePart x.ret).map (·.num) = some (s.topPart is.task.part) ∧
          ∃ h ∈ hintLanes s is a.toNat, ∃ off key wid,
            h.loc = .glob 0xFFFF x.ret off key wid ∧ x.base = secBase pitch.toNat off ∧ x.pc = pitch.toNat)) ∧
      ∀ h ∈ hintLanes s is a.toNat, ∀ ret off key wid x, h.loc = .glob 0xFFFF ret off key wid →
        s.sector? ret (secBase pitch.toNat off) pitch.toNat = some x → x.pinned = true →
        (s.homePart ret).map (·.num) = some (s.topPart is.task.part) →
        ∀ y ∈ sec, y.ret = ret → y.base = secBase pitch.toNat off → y.pc = pitch.toNat → y.pinned = false) ∧
  (∀ a pitch level s is, s.issue = some is → (∀ p ∈ is.coach.ops, p.done = false → (p.isAccess || p.isFence) = false) →
    ∃ s', exec (.pf a pitch level) s = .next s' ∧ StorageOnly s s' ∧ s'.tasks = s.tasks ∧ s'.host = s.host) ∧
  (∀ a pitch level s is h, s.issue = some is → (∀ p ∈ is.coach.ops, p.done = false → (p.isAccess || p.isFence) = false) →
    hintLanes s is a.toNat = [h] → (h.loc.isAway = true → exec (.pf a pitch level) s
      = .next { s with port := { s.port with reqs := s.port.reqs ++ handedOver s is.task (.pf pitch.toNat) [h] } }) ∧
    ∀ ret off key wid, h.loc = .glob 0xFFFF ret off key wid →
    (s.allocSector ret (secBase pitch.toNat off) pitch.toNat key false true false).isSome = true → ∃ s', exec (.pf a pitch level) s = .next s' ∧ StorageOnly s s' ∧ s'.tasks = s.tasks ∧
      if level = 1 ∧ ret = is.task.ret then ∃ l ∈ s'.lines, l.isRow ret is.task.cu (off / 32 * 32) = true
      else ∃ x ∈ s'.sectors, x.ret = ret ∧ x.base = secBase pitch.toNat off ∧ x.pc = pitch.toNat ∧ x.valid = BitVec.allOnes 32) ∧
  ∀ s t c seq tk co o scope kind, s.findOp t c seq = some (tk, co, o) → o.body = .fence scope kind → o.never = false →
    (∀ p ∈ co.ops, p.seq < o.seq → p.done = false → p.isFence = false ∧ (if kind = 1 then p.onL = false else p.isAccess = false)) →
    ∃ s', exec (.fenceComplete t c seq) s = .next s' ∧ StorageOnly s s' ∧
      CoachStep s s' t c co (fun co' => co' = { co with ops := co'.ops } ∧ ∀ p ∈ co'.ops, p.seq = seq → p.done = true) ∧
      (kind ≠ 2 → 2 ≤ scope → NoHints co → ∀ l ∈ s'.lines, ¬ (l.ret = tk.ret ∧ l.cu = tk.cu))

/-- LOAD_COMPLETE of a load's lane (R190, R203, R210, R212 to R214): the named registers of that lane hold the bytes, sign- or
zero-extended by size; the bytes are those of the coach's own queued store that covers them, else of the scratchpad, host memory, or the
L1 line, else those of its home, be it on another reticle, held in the L1 by an axis line only, or read under order 4 past a clean line; and
zeros in a retired frame. No other register, lane, coach or task changes. An event that names bytes of another wafer where none
have come changes nothing. -/
def Obligations.LoadsComplete : Prop :=
  ∀ s t c seq l tk co o x size d e, MayPerform s t c seq l tk co o x → o.cls = some .l → o.body = .load size d e →
    ∃ s' bs, exec (.loadComplete t c seq (laneBit l) []) s = .next s' ∧ StorageOnly s s' ∧
      CoachStep s s' t c co (fun co' => LoadedInto co co' seq d.toNat l (loadedRegs size) (loadedWord size bs)) ∧
      (s.retired x.loc = true → bs = List.replicate (accessBytes size) 0) ∧
      (s.retired x.loc = false →
        (∀ b, co.forwarded o x (accessBytes size) = some b → bs = b) ∧
        (co.forwarded o x (accessBytes size) = none →
          (∀ a, x.loc = .scratch a → bs = (List.range (accessBytes size)).map fun i => tget 0 tk.scratch (a + i)) ∧
          (∀ a wid, x.loc = .host a wid → bs = (List.range (accessBytes size)).map fun i => tget 0 s.host (a + i)) ∧
          (∀ off key wid li, x.loc = .glob 0xFFFF tk.ret off key wid → s.rowLine? tk.ret tk.cu (off / 32 * 32) = some li → e.order ≠ 4 →
            bs = (li.data.drop (off % 32)).take (accessBytes size)) ∧
          ∀ ret off key wid, x.loc = .glob 0xFFFF ret off key wid → HomeStands s ret off (accessBytes size) e.policy.toNat →
            (ret = tk.ret → ∀ li, s.rowLine? tk.ret tk.cu (off / 32 * 32) = some li → e.order = 4 ∧ li.dirty = 0) →
            bs = s.homeBytes ret off key (accessBytes size))) ∧
      ((∀ y ∈ o.lanes, y.loc.isAway = false) → ∀ rs, rs ≠ [] → exec (.loadComplete t c seq (laneBit l) rs) s = .next s)

/-- LOAD_COMPLETE of a lane of ATOM, ATOMS, PIN and LDAXIS (R204, R216, R221, R222): an atomic writes its old bytes to vd and the new value in
their place, on the scratchpad or at its home, and no other byte of them, and leaves no line of the segment in the CU's own L1; a PIN writes
3 for a pinned sector of another pitch in its way, 0 for a sector that is pinned already, 2 where 15 ways of the set are pinned, 1 where the
quota is used up, in this order, and changes nothing then, else 0 with the sector pinned (or 2, where a set whose ways are all pinned stops
it); an LDAXIS whose columns are in the L1 packs four rows of w columns. -/
def Obligations.AtomicsPinsAndAxisLoads : Prop :=
  (∀ s t c seq l tk co o x size d e a, MayPerform s t c seq l tk co o x → o.cls = some .l → o.body = .atom size d e → x.loc = .scratch a →
    let n := accessBytes size
    let old := (List.range n).map fun i => tget 0 tk.scratch (a + i)
    let new := atomResult e.op n (leNat old) (leNat (x.data.take n)) (leNat (x.data.drop n))
    ∃ s' tk' co', exec (.loadComplete t c seq (laneBit l) []) s = .next s' ∧ StorageOnly s s' ∧ (∀ u, u ≠ t → s'.task? u = s.task? u) ∧
      s'.task? t = some tk' ∧ tk' = { tk with coaches := tk'.coaches, scratch := tk'.scratch } ∧ tk'.coach? c = some co' ∧
      (∀ k, k ≠ c → tk'.coach? k = tk.coach? k) ∧ LoadedInto co co' seq d.toNat l (loadedRegs size) (loadedWord size old) ∧
      ∀ b, tget 0 tk'.scratch b = if a ≤ b ∧ b < a + n then BitVec.ofNat 8 (new / 256 ^ (b - a)) else tget 0 tk.scratch b) ∧
  (∀ s t c seq l tk co o x size d e ret off key wid, MayPerform s t c seq l tk co o x → o.cls = some .l → o.body = .atom size d e →
    x.loc = .glob 0xFFFF ret off key wid → e.order = 0 → NoHints co → RowHome s ret off (accessBytes size) →
    (ret = tk.ret → ∀ li, s.rowLine? tk.ret tk.cu (off / 32 * 32) = some li → li.dirty = 0) →
    let n := accessBytes size
    let old := s.homeBytes ret off key n
    let new := atomResult e.op n (leNat old) (leNat (x.data.take n)) (leNat (x.data.drop n))
    ∃ s', exec (.loadComplete t c seq (laneBit l) []) s = .next s' ∧ StorageOnly s s' ∧ s'.host = s.host ∧
      CoachStep s s' t c co (fun co' => LoadedInto co co' seq d.toNat l (loadedRegs size) (loadedWord size old)) ∧
      HomeSet s s' ret off key ((List.range n).map fun i => BitVec.ofNat 8 (new / 256 ^ i)) ∧
      (ret = tk.ret → s'.rowLine? tk.ret tk.cu (off / 32 * 32) = none)) ∧
  (∀ s t c seq l tk co o x d pc ret off key wid, MayPerform s t c seq l tk co o x → o.cls = some .l → o.body = .pin d pc →
    NoHints co → x.loc = .glob 0xFFFF ret off key wid →
    ∃ s' w, exec (.loadComplete t c seq (laneBit l) []) s = .next s' ∧ StorageOnly s s' ∧ w < 4 ∧
      (PitchConflict s ret off pc → w = 3) ∧
      (¬ PitchConflict s ret off pc →
        let there := (s.sector? ret (secBase pc off) pc).any fun y => y.pinned
        (there = true → w = 0) ∧
        (there = false → (15 ≤ pinnedWays s ret off pc → w = 2) ∧
          (pinnedWays s ret off pc < 15 → (pinQuotaAt s ret ≤ pinsUsed s ret → w = 1) ∧
            (pinsUsed s ret < pinQuotaAt s ret → w = 0 ∨ w = 2)))) ∧
      (w ≠ 0 → s'.sectors = s.sectors ∧ s'.lines = s.lines ∧ s'.dram = s.dram) ∧
      CoachStep s s' t c co (fun co' => LoadedInto co co' seq d.toNat l 1 fun _ => BitVec.ofNat 32 w) ∧
      (w = 0 → ∃ y ∈ s'.sectors, y.ret = ret ∧ y.base = secBase pc off ∧ y.pc = pc ∧ y.pinned = true)) ∧
  ∀ s t c seq l tk co o x d pc w off key wid (col : Nat → List Byte), MayPerform s t c seq l tk co o x → o.cls = some .l →
    o.body = .ldaxis d pc w → (w = 1 ∨ w = 2 ∨ w = 4) → s.retired x.loc = false → x.loc = .glob 0xFFFF tk.ret off key wid →
    (∀ i, i < w → ∃ li, (s.lines.find? fun li => li.ret == tk.ret && li.cu == tk.cu && li.column && li.base == secBase pc off &&
      li.pc == pc && li.j == off % 32 + i) = some li ∧ li.data = col i) →
    let bs := (List.range (4 * w)).map fun i => (col (i % w)).getD (secRow pc off + i / w) 0
    ∃ s', exec (.loadComplete t c seq (laneBit l) []) s = .next s' ∧ StorageOnly s s' ∧
      CoachStep s s' t c co fun co' => LoadedInto co co' seq d.toNat l w fun i => BitVec.ofNat 32 (leNat ((bs.drop (4 * i)).take 4))

/-- STORE_PERFORMED of a lane of the store at the queue's head (R194, R200, R210, R212): exactly the stored bytes change, in the scratchpad,
in host memory, or on the device at their home where the segment is resident by row or is stored without allocation and the CU
holds no line of it. -/
def Obligations.StoresPerformed : Prop :=
  ∀ s t c l tk co o x size e, co.queueHead = some o → MayPerform s t c o.seq l tk co o x → o.body = .store size e → NoHints co →
    (∀ a, x.loc = .scratch a → ∃ s' tk' co', exec (.storePerformed t c (laneBit l)) s = .next s' ∧ StorageOnly s s' ∧
      (e.order ≠ 2 → s' = { s with tasks := s'.tasks }) ∧
      (∀ u, u ≠ t → s'.task? u = s.task? u) ∧ s'.task? t = some tk' ∧ tk' = { tk with coaches := tk'.coaches, scratch := tk'.scratch } ∧
      tk'.coach? c = some co' ∧ co' = { co with ops := co'.ops } ∧ (∀ k, k ≠ c → tk'.coach? k = tk.coach? k) ∧
      ∀ b, tget 0 tk'.scratch b = if a ≤ b ∧ b < a + x.data.length then x.data.getD (b - a) 0 else tget 0 tk.scratch b) ∧
    (∀ a wid, x.loc = .host a wid → ∃ s', exec (.storePerformed t c (laneBit l)) s = .next s' ∧ StorageOnly s s' ∧
      (e.order ≠ 2 → s' = { s with tasks := s'.tasks, host := s'.host }) ∧
      CoachStep s s' t c co (fun co' => co' = { co with ops := co'.ops }) ∧
      ∀ b, tget 0 s'.host b = if a ≤ b ∧ b < a + x.data.length then x.data.getD (b - a) 0 else tget 0 s.host b) ∧
    ∀ ret off key wid, x.loc = .glob 0xFFFF ret off key wid → e.order ≠ 2 → off % 32 + x.data.length ≤ 32 → off < 2 ^ 42 →
      (ret ≠ tk.ret ∨ s.rowLine? ret tk.cu (off / 32 * 32) = none) →
      (match s.resident? ret (off / 32 * 32) with
       | some y => y.1.column = false ∧ s.sector? ret y.1.base y.1.pc = some y.1
       | none => e.policy = 3) →
      ∃ s', exec (.storePerformed t c (laneBit l)) s = .next s' ∧ StorageOnly s s' ∧
        CoachStep s s' t c co (fun co' => co' = { co with ops := co'.ops }) ∧ s'.host = s.host ∧
        ∀ b, b < 2 ^ 42 → s'.homeByte ret b key = if off ≤ b ∧ b < off + x.data.length then x.data.getD (b - off) 0 else s.homeByte ret b key

/-- What crosses wafers, and time (R241, R242, R354, R356, R391): the request at its home, and the access that is refused or times
out. -/
def Obligations.RequestsAcrossWafers : Prop := RequestsAtTheirHome ∧ RequestsThatFail

/-! ### Copies -/

/-- CP.T, CP.L.LD, CP.L.ST, CP.SEAL and CP.QRY at issue (R247, R254 to R257): checks in the spec's order, copies in lane order, the number
of the batch that a seal ends, and the fields that CP.QRY reads. -/
def Obligations.CopiesAtIssue : Prop :=
  (∀ n c a, Copies (.cpT n c a)
    (fun is l => .box (is.task.layouts.getD n.toNat 0) (is.snap.vget c.toNat l).toInt (is.snap.vget (c.toNat + 1) l).toInt
      (is.snap.vget (c.toNat + 2) l).toInt (is.snap.vget (c.toNat + 3) l).toInt)
    (fun is l => (is.snap.vget a.toNat l).toNat)
    fun s is l =>
      let r : Layout := is.task.layouts.getD n.toNat 0
      let sa := (is.snap.vget a.toNat l).toNat
      let kind := CopyKind.box r (is.snap.vget c.toNat l).toInt (is.snap.vget (c.toNat + 1) l).toInt
        (is.snap.vget (c.toNat + 2) l).toInt (is.snap.vget (c.toNat + 3) l).toInt
      if r.ok (is.snap.vget c.toNat l).toInt = false then .park 0x19 0
      else if sa % 16 ≠ 0 then .park 0x11 (BitVec.ofNat 64 sa)
      else if is.task.shape.scratch < sa + r.extent then .park 0x12 (BitVec.ofNat 64 sa)
      else checkSpans s is.task r.store r.axis kind.allSpans) ∧
  (∀ (st : Bool) a b, Copies (if st then .cpLSt a b else .cpLLd a b)
    (fun is l => .linear st (pairAt is a l) (is.snap.vget (b.toNat + 1) l).toNat)
    (fun is l => (is.snap.vget b.toNat l).toNat)
    fun s is l =>
      let sa := (is.snap.vget b.toNat l).toNat
      let len := (is.snap.vget (b.toNat + 1) l).toNat
      if sa % 4 ≠ 0 then .park 0x11 (BitVec.ofNat 64 sa)
      else if (pairAt is a l).toNat % 4 ≠ 0 ∨ len % 4 ≠ 0 then .park 0x11 (pairAt is a l)
      else if is.task.shape.scratch < sa + len then .park 0x12 (BitVec.ofNat 64 sa)
      else checkSpans s is.task st false (CopyKind.linear st (pairAt is a l) len).allSpans) ∧
  (∀ (s : State) (t : Task) stores noHost (sp : List (Nat × Nat)), (match checkSpans s t stores noHost sp with
      | .ok => True
      | _ => False) →
    ∀ x ∈ sp, ∀ i, i < x.2 → ∃ e ∈ t.extents, permOk (if stores then .write else .read) e.perm = true ∧ e.va ≤ x.1 + i ∧
      x.1 + i < e.va + e.len ∧ (noHost = true → e.host = false)) ∧
  (∀ gd s is, s.issue = some is → ∃ js, Leaves (.cpSeal gd) s js ∧
    if is.qon then
      let sealed : Op := { seq := is.coach.seq, cls := some .c, site := is.site, start := s.clock
                           body := .batch is.coach.nextBatch.toNat is.coach.openBatch is.coach.openErr }
      ∃ g, js = { is with coach := { is.coach with
          g := g, ops := is.coach.ops ++ [sealed], seq := is.coach.seq + 1, nextBatch := is.coach.nextBatch + 1
          openErr := is.coach.openErr.map fun e => (e.1, 0, 0)
          openBatch := [] } } ∧
        ∀ k, js.coach.gget k = if k = gd.toNat then BitVec.ofNat 32 is.coach.nextBatch.toNat else is.coach.gget k
    else js = is) ∧
  ∀ gd s is, s.issue = some is → ∃ js, Leaves (.cpQry gd) s js ∧ GroupSet is js gd.toNat is.qon
    (BitVec.ofNat 32 (is.coach.nextBatch.toNat + 65536 * is.coach.openBatch.length
      + 2097152 * (is.coach.ops.filter fun o => decide (o.cls = some .c)).length))

/-- COPY_CHUNK_WRITE and BATCH_COMPLETE (R248, R249, R251, R258, R259, R263). The next chunk of a copy on this wafer is written whole and
counted; only the scratchpad and storage change. A linear copy moves its bytes unchanged, in host memory and on the device, where its bytes
are resident by row and the CU holds none of them unwritten. Under the same conditions a box of whole-byte elements that are copied as they
are moves each element between its place in the layout record's order and its address, a load taking the record's fill out of bounds. The
oldest sealed batch completes when its copies are finished or cut short, and CPSTAT then holds its status. -/
def Obligations.CopiesWriteChunks : Prop :=
  (∀ s t c num idx tk co x, s.findCopy t c num idx = some (tk, co, x) → s.chunkReady tk co num idx x = true →
    (∀ l ∈ s.chunkLocs tk x x.next, s.refused tk l.1 = false ∧ l.1.isAway = false) →
    ∃ s' tk' co' x', exec (.copyChunkWrite t c num idx []) s = .next s' ∧ StorageOnly s s' ∧ (∀ u, u ≠ t → s'.task? u = s.task? u) ∧
      s'.findCopy t c num idx = some (tk', co', x') ∧
      tk' = { tk with coaches := tk'.coaches, scratch := tk'.scratch } ∧ co' = { co with ops := co'.ops, openBatch := co'.openBatch } ∧
      x' = { x with next := x.next + 1, wait := false, satf := x'.satf, nanf := x'.nanf, oobf := x'.oobf } ∧
      (x.satf = true → x'.satf = true) ∧ (x.nanf = true → x'.nanf = true) ∧ (x.oobf = true → x'.oobf = true) ∧
      (x.kind.stores = true → tk'.scratch = tk.scratch) ∧
      ∀ st va len e, x.kind = .linear st va len → x.next * 1024 < len →
        let lo := x.next * 1024
        let n := min 1024 (len - lo)
        let h := (e.pa + BitVec.ofNat 64 (va.toNat + lo - e.va)).toNat
        tk.extent? (if st then .write else .read) (va.toNat + lo) n = some e → e.host = true →
        (st = false → s'.host = s.host ∧
          ∀ b, tget 0 tk'.scratch b = if x.s + lo ≤ b ∧ b < x.s + lo + n then tget 0 s.host (h + (b - (x.s + lo))) else tget 0 tk.scratch b) ∧
        (st = true →
          ∀ b, tget 0 s'.host b = if h ≤ b ∧ b < h + n then tget 0 tk.scratch (x.s + lo + (b - h)) else tget 0 s.host b)) ∧
  (∀ s t c num idx tk co x st va len e, s.findCopy t c num idx = some (tk, co, x) → s.chunkReady tk co num idx x = true →
    (∀ l ∈ s.chunkLocs tk x x.next, s.refused tk l.1 = false ∧ l.1.isAway = false) → x.kind = .linear st va len → x.next * 1024 < len →
    let lo := x.next * 1024
    let n := min 1024 (len - lo)
    let place := s.locate e (va.toNat + lo)
    tk.extent? (if st then .write else .read) (va.toNat + lo) n = some e → Quiet s [(place, n)] → CleanCU s tk →
    ∃ s' tk', exec (.copyChunkWrite t c num idx []) s = .next s' ∧ s'.task? t = some tk' ∧
      (st = false → OnlyAt s s' [] ∧ ∀ b, tget 0 tk'.scratch b = if x.s + lo ≤ b ∧ b < x.s + lo + n then byteAt s place (b - (x.s + lo))
        else tget 0 tk.scratch b) ∧
      (st = true → tk'.scratch = tk.scratch ∧ OnlyAt s s' [(place, n)] ∧ ∀ i, i < n → byteAt s' place i = tget 0 tk.scratch (x.s + lo + i))) ∧
  (∀ s t c num idx tk co x (r : Layout) c0 c1 c2 c3, s.findCopy t c num idx = some (tk, co, x) → s.chunkReady tk co num idx x = true →
    (∀ l ∈ s.chunkLocs tk x x.next, s.refused tk l.1 = false ∧ l.1.isAway = false) → x.kind = .box r c0 c1 c2 c3 →
    r.tgt = 0 → (r.sfmt < 5 ∨ r.sfmt = 6 ∨ r.sfmt = 7) → r.axis = false → Quiet s (s.chunkLocs tk x x.next) → CleanCU s tk →
    let es : Nat := if r.sfmt = 0 then 4 else if r.sfmt = 1 ∨ r.sfmt = 2 then 2 else 1
    let lo := x.next * 1024
    let hi := min (lo + 1024) (es * (r.box 0 * r.box 1 * r.box 2 * r.box 3))
    let at0 (q : Nat) : Int := c0 + (q % r.box 0 : Nat)
    let at1 (q : Nat) : Int := c1 + (q / r.box 0 % r.box 1 : Nat)
    let at2 (q : Nat) : Int := c2 + (q / r.box 0 / r.box 1 % r.box 2 : Nat)
    let at3 (q : Nat) : Int := c3 + (q / r.box 0 / r.box 1 / r.box 2 : Nat)
    let inside (q : Nat) : Prop := (0 ≤ at0 q ∧ at0 q < r.size 0) ∧ (0 ≤ at1 q ∧ at1 q < r.size 1) ∧ (0 ≤ at2 q ∧ at2 q < r.size 2) ∧
      (0 ≤ at3 q ∧ at3 q < r.size 3)
    let va (q : Nat) : Nat :=
      (((r.base : Int) + at0 q * es + at1 q * (r.stride 1 : Int) + at2 q * (r.stride 2 : Int) + at3 q * (r.stride 3 : Int)) % 2 ^ 64).toNat
    ∃ s' tk', exec (.copyChunkWrite t c num idx []) s = .next s' ∧ s'.task? t = some tk' ∧
      (r.store = false → OnlyAt s s' [] ∧ (∀ b, b < x.s + lo ∨ x.s + hi ≤ b → tget 0 tk'.scratch b = tget 0 tk.scratch b) ∧
        ∀ q j, j < es → lo ≤ q * es → q * es < hi →
          (¬ inside q → tget 0 tk'.scratch (x.s + q * es + j) = r.fill.extractLsb' (8 * j) 8) ∧
          ∀ e, inside q → tk.extent? .read (va q) es = some e →
            tget 0 tk'.scratch (x.s + q * es + j) = byteAt s (s.locate e (va q)) j) ∧
      (r.store = true → (∀ q, lo ≤ q * es → q * es < hi → inside q → (tk.extent? .write (va q) es).isSome = true) →
        tk'.scratch = tk.scratch ∧ OnlyAt s s' (s.chunkLocs tk x x.next) ∧
        ∀ q j e, j < es → lo ≤ q * es → q * es < hi → inside q → tk.extent? .write (va q) es = some e →
          (∀ q' e', q' ≠ q → lo ≤ q' * es → q' * es < hi → inside q' → tk.extent? .write (va q') es = some e' →
            (s.locate e (va q)).meets es (s.locate e' (va q')) es = false) →
          byteAt s' (s.locate e (va q)) j = tget 0 tk.scratch (x.s + q * es + j))) ∧
  ∀ s t c tk co o num cs err, s.task? t = some tk → tk.coach? c = some co → co.oldestBatch = some (o, num, cs, err) →
    (∀ x ∈ cs, x.chunks ≤ x.next) →
    let e := err.getD (0, 0, 0)
    let bit (b : Bool) : Nat := if b then 1 else 0
    let st : Word := BitVec.ofNat 32 (e.2.2 % 1024 + 1024 * e.2.1 + 16384 * e.1 + 65536 * bit (cs.any fun x => x.satf)
      + 131072 * bit (cs.any fun x => x.nanf) + 262144 * bit (cs.any fun x => x.oobf) + 16777216 * (num % 256))
    ∃ s' tk' co', exec (.batchComplete t c) s = .next s' ∧ s' = { s with tasks := s'.tasks } ∧ (∀ u, u ≠ t → s'.task? u = s.task? u) ∧
      s'.task? t = some tk' ∧ tk' = { tk with coaches := tk'.coaches, badCpstat := tk'.badCpstat } ∧
      tk'.badCpstat = (if err.isSome = true ∧ tk.badCpstat = 0 then st else tk.badCpstat) ∧
      tk'.coach? c = some co' ∧ co' = { co with ops := co'.ops, cpstat := st } ∧ (∀ d, d ≠ c → tk'.coach? d = tk.coach? d) ∧
      ∀ p ∈ co'.ops, p.seq = o.seq → p.done = true

/-! ### Matrix engine -/

/-- Matrix slots at issue (R271, R274 to R283): MMA, MMG, MZERO, MRD, MST and MST.SC form one part for each octet under their checks, MST
under a control word that breaks no rule; MLDB enters its tag in the directory; MQRY reads the tag's state and the sticky bits, and its
.CLR form clears them. -/
def Obligations.MatrixAtIssue : Prop :=
  (∀ ac a t f, FormsParts (.mma ac a t f) (fun _ => .mma) fun _ is o m => mmaCheck is.snap a t f.toNat is.task o m ac.toNat) ∧
  (∀ ac a t f, FormsParts (.mmg ac a t f) (fun _ => .mma) fun _ is o m => mmgCheck is.snap a t f.toNat is.task o m ac.toNat) ∧
  (∀ ac, FormsParts (.mzero ac) (fun _ => .mzero) fun _ _ o m => .part { octet := o, lanes := m, ac := ac.toNat } []) ∧
  (∀ ac col d, FormsParts (.mrd ac col d) (fun _ => .mrd col.toNat d) fun _ _ o m => .part { octet := o, lanes := m, ac := ac.toNat } []) ∧
  (∀ (sc : Bool) ac a gc s is, s.issue = some is → is.cur.pred ≠ 0xF → is.enabled ≠ 0 → ctlOk sc (is.snap.gget gc.toNat) = false →
    Leaves (if sc then .mstSc ac a gc else .mst ac a gc) s (raising is cILLEGAL_FIELD 0)) ∧
  (∀ (sc : Bool) ac a gc s is, s.issue = some is → is.cur.pred ≠ 0xF → (is.enabled = 0 ∨ ctlOk sc (is.snap.gget gc.toNat) = true) →
    let w := is.snap.gget gc.toNat
    ∃ js, Leaves (if sc then .mstSc ac a gc else .mst ac a gc) s js ∧ ChecksOnly is js ∧
      let parts : List Part := is.octets.filterMap fun o => (match mstCheck s is.snap sc a w is.task o.1 o.2 ac.toNat with
        | .part p _ _ => if p.lanes = 0 then none else some p
        | _ => none)
      let new : Op := { seq := is.coach.seq, cls := some .t, site := is.site, start := s.clock, done := parts.isEmpty
                        body := .mst sc w (is.snap.gget (gc.toNat + 1)) parts }
      js.coach.ops = pruneOps (is.coach.ops ++ [new])) ∧
  (∀ gd gs s is, s.issue = some is → is.cur.pred ≠ 0xF → is.enabled ≠ 0 →
    let a := (is.snap.gget gs.toNat).toNat
    match bDescriptor (is.snap.gget gd.toNat) is.task.span with
    | none => Leaves (.mldb gd gs) s (raising is cILLEGAL_FIELD 0)
    | some e =>
      if a % 16 ≠ 0 ∨ is.task.shape.scratch < a + bTileBytes e.fmt then
        ∃ js, Leaves (.mldb gd gs) s js ∧ ChecksOnly is js ∧ js.task.tags = is.task.tags ∧
          ∀ l, l < 64 → js.coach.parked.getLsbD l = (is.coach.parked.getLsbD l || is.enabled.getLsbD l)
      else
        let tags := (is.task.tags.filter fun x => !x.overlaps e && decide (x.tag ≠ e.tag)) ++ [{ e with ready := false }]
        let new : Op := { seq := is.coach.seq, cls := some .t, site := is.site, start := s.clock, body := .mldb e a }
        Leaves (.mldb gd gs) s { is with
          task := { is.task with tags := tags }
          coach := { is.coach with ops := pruneOps (is.coach.ops ++ [new]), seq := is.coach.seq + 1 } }) ∧
  ∀ gd gt clr s is, s.issue = some is →
    let tag := (is.snap.gget gt.toNat).toNat % 65536
    let e := is.task.tags.find? fun x => decide (x.tag = tag)
    let w : Word := BitVec.ofNat 32 ((match e with
        | none => 0
        | some x => (if x.ready then 2 else 1) + 4 * x.group + 32 * x.pos + 128 * x.fmt)
      + (if is.coach.mxSat then 512 else 0) + (if is.coach.mxNan then 1024 else 0) + 65536 * is.coach.count .t)
    ∃ js g, Leaves (.mqry gd gt clr) s js ∧
      js = { is with coach := { is.coach with
        g := g, mxSat := is.coach.mxSat && !(is.qon && clr), mxNan := is.coach.mxNan && !(is.qon && clr) } } ∧
      ∀ k, js.coach.gget k = if k = gd.toNat ∧ is.qon = true then w else is.coach.gget k

/-- Matrix parts when they are performed (R275 to R281, R284, R285): a pass of an idle group starts with the part at its queue's head; MMA and MMG combine
each row of the octet's accumulator with the tile's columns, MZERO clears it, MRD reads eight columns of it into eight registers; MLDB
puts the tile into its slot; a write-out writes the converted bytes of its rows in ascending order, into the scratchpad, where the last row
wins, or into memory where it stands, MST.SC adding FP32 elements where its control word says so, and keeps the sticky bits. -/
def Obligations.MatrixPartsComplete : Prop :=
  (∀ s t group tk h rest, s.task? t = some tk → tk.groupQueue group = h :: rest →
    (∀ x ∈ h :: rest, x.part.started = false) → tk.tileReady h = true →
    (∀ x ∈ rest, ¬ (x.coach.num = h.coach.num ∧ x.op.seq = h.op.seq ∧ x.part.octet = h.part.octet)) →
    s.partReady tk h.coach h.op h.part = true → tk.coach? h.coach.num = some h.coach → h.coach.op? h.op.seq = some h.op →
    (h.op.body.parts.find? fun p => decide (p.octet = h.part.octet)) = some h.part →
    ∃ s' tk' co' o', exec (.matrixPassStart t group) s = .next s' ∧ s' = { s with tasks := s'.tasks } ∧
      (∀ u, u ≠ t → s'.task? u = s.task? u) ∧ s'.task? t = some tk' ∧ tk' = { tk with coaches := tk'.coaches } ∧
      (∀ d x y, tk.coach? d = some x → tk'.coach? d = some y → y = { x with ops := y.ops }) ∧
      tk'.coach? h.coach.num = some co' ∧ co'.op? h.op.seq = some o' ∧ o'.done = false ∧
      (o'.body.parts.find? fun p => decide (p.octet = h.part.octet)) = some { h.part with started := true, turn := 0 }) ∧
  (∀ s t c seq oct tk co o ps p e, Outstanding s t c seq tk co o → o.body = .mma ps → (ps.find? fun p => decide (p.octet = oct)) = some p →
    p.slot = some e → s.mmaReady tk co o p = true → (∀ x ∈ p.rows, x.1 < 8) → p.ac < 8 →
    ∃ s', exec (.matrixPartComplete t c seq oct) s = .next s' ∧
      s' = { s with tasks := s'.tasks, accs := s'.accs, counters := s'.counters, outbox := s'.outbox } ∧
      CoachStep s s' t c co (fun co' => co' = { co with ops := co'.ops } ∧ PartDone co' seq oct) ∧
      (∀ r n col, r < 8 → n < 8 → col < 128 → s'.accGet tk.ret tk.cu p.octet n r col
        = match (if n = p.ac then p.rows.find? fun x => decide (x.1 = r) else none) with
          | some x => mmaElem (rbN (rbOfFmt p.afmt)) (rbN (rbOfFmt e.fmt)) (s.accGet tk.ret tk.cu p.octet n r col)
              (blocksOf p.afmt (tk.scrBytes x.2.1.toNat (rowBytes p.afmt))) (blocksOf e.fmt (tk.tileColumn e col))
          | none => s.accGet tk.ret tk.cu p.octet n r col) ∧
      ∀ k, k / 1024 ≠ ((tk.ret * 32 + tk.cu) * 8 + p.octet) * 8 + p.ac → tget 0 s'.accs k = tget 0 s.accs k) ∧
  (∀ s t c seq oct tk co o ps p, Outstanding s t c seq tk co o → o.body = .mzero ps → (ps.find? fun p => decide (p.octet = oct)) = some p →
    s.partReady tk co o p = true →
    ∃ s', exec (.matrixPartComplete t c seq oct) s = .next s' ∧ s' = { s with tasks := s'.tasks, accs := s'.accs } ∧
      CoachStep s s' t c co (fun co' => co' = { co with ops := co'.ops } ∧ PartDone co' seq oct) ∧
      ∀ k, tget 0 s'.accs k = if k / 1024 = ((tk.ret * 32 + tk.cu) * 8 + oct) * 8 + p.ac then 0 else tget 0 s.accs k) ∧
  (∀ s t c seq oct tk co o ps p col d, Outstanding s t c seq tk co o → o.body = .mrd col d ps →
    (ps.find? fun p => decide (p.octet = oct)) = some p → s.partReady tk co o p = true →
    ∃ s', exec (.matrixPartComplete t c seq oct) s = .next s' ∧ s' = { s with tasks := s'.tasks, freeIx := s'.freeIx } ∧
      CoachStep s s' t c co fun co' => co' = { co with v := co'.v, ops := co'.ops, fresh := co'.fresh } ∧ PartDone co' seq oct ∧
        ∀ r l, l < 64 → if d.toNat ≤ r ∧ r < d.toNat + 8 ∧ p.lanes.getLsbD l = true
          then Lands co co' seq r l (s.accGet tk.ret tk.cu p.octet p.ac (l % 8) (8 * col + (r - d.toNat))) else co'.vget r l = co.vget r l) ∧
  (∀ s t c seq tk co o e a, Outstanding s t c seq tk co o → o.body = .mldb e a → State.mldbReady tk co o e = true →
    ∃ s' tk' co', exec (.mldbComplete t c seq) s = .next s' ∧ s' = { s with tasks := s'.tasks } ∧ (∀ u, u ≠ t → s'.task? u = s.task? u) ∧
      s'.task? t = some tk' ∧ tk' = { tk with coaches := tk'.coaches, tiles := tk'.tiles, tags := tk'.tags } ∧
      tk'.coach? c = some co' ∧ co' = { co with ops := co'.ops } ∧ (∀ d, d ≠ c → tk'.coach? d = tk.coach? d) ∧
      (∀ p ∈ co'.ops, p.seq = seq → p.done = true) ∧
      (∀ k, tget 0 tk'.tiles k = if tileKey e.group e.pos 0 ≤ k ∧ k < tileKey e.group e.pos (bTileBytes e.fmt)
        then tget 0 tk.scratch (a + (k - tileKey e.group e.pos 0)) else tget 0 tk.tiles k) ∧
      tk'.tags.map (fun x => { x with ready := false }) = tk.tags.map fun x => { x with ready := false }) ∧
  ∀ s t c seq oct tk co o sc w seed ps p, Outstanding s t c seq tk co o → o.body = .mst sc w seed ps →
    (ps.find? fun p => decide (p.octet = oct)) = some p → s.partReady tk co o p = true → p.gone = [] → s.reqsOf (.part t c seq oct) = [] →
    let row (x : Nat × Dword × Loc) := convertRow w seed x.2.1.toNat fun k => s.accGet tk.ret tk.cu p.octet p.ac x.1 k
    let n := outRow (ctlFmt w)
    let flags (co' : Coach) : Prop := co' = { co with
      ops := co'.ops, mxSat := co.mxSat || p.rows.any fun x => (row x).2.1, mxNan := co.mxNan || p.rows.any fun x => (row x).2.2 }
    (ctlScratch w = true → ∃ s' tk' co', exec (.mstPartComplete t c seq oct) s = .next s' ∧ s' = { s with tasks := s'.tasks } ∧
      (∀ u, u ≠ t → s'.task? u = s.task? u) ∧ s'.task? t = some tk' ∧ tk' = { tk with coaches := tk'.coaches, scratch := tk'.scratch } ∧
      tk'.coach? c = some co' ∧ (∀ d, d ≠ c → tk'.coach? d = tk.coach? d) ∧ PartDone co' seq oct ∧ flags co' ∧
      ∀ b, tget 0 tk'.scratch b
        = match p.rows.reverse.find? fun x => decide (x.2.1.toNat ≤ b) && decide (b < x.2.1.toNat + (row x).1.length) with
          | some x => (row x).1.getD (b - x.2.1.toNat) 0
          | none => tget 0 tk.scratch b) ∧
    (ctlScratch w = false → CleanCU s tk →
      (∀ x ∈ p.rows, ∃ e, tk.extent? .write x.2.1.toNat n = some e ∧ Quiet s [(s.locate e x.2.1.toNat, n)] ∧
        s.pathOk tk.ret (s.locate e x.2.1.toNat) = true ∧ s.refused tk (s.locate e x.2.1.toNat) = false) →
      let place (x : Nat × Dword × Loc) : Loc := ((s.rowLocs tk w x.2.1).map fun l => l.1).headD x.2.2
      (p.rows.Pairwise fun x y => (place x).meets n (place y) n = false) →
      (ctlAdd w = true → ctlFmt w = 0 ∧ ∀ x ∈ p.rows, ∀ k, k < 128 → ∃ e, tk.extent? .atomic (x.2.1.toNat + 4 * k) 4 = some e ∧
        s.locate e (x.2.1.toNat + 4 * k) = (place x).plus (4 * k) ∧ (place x).isHost = false) →
      ∃ s' tk', exec (.mstPartComplete t c seq oct) s = .next s' ∧ StorageOnly s s' ∧ s'.task? t = some tk' ∧ tk'.scratch = tk.scratch ∧
        CoachStep s s' t c co (fun co' => PartDone co' seq oct ∧ flags co') ∧
        OnlyAt s s' (p.rows.map fun x => (place x, n)) ∧
        ∀ x ∈ p.rows,
          (ctlAdd w = false → ∀ i, i < n → byteAt s' (place x) i = (row x).1.getD i 0) ∧
          (ctlAdd w = true → ∀ k, k < 128 →
            let word (u : State) : Word := BitVec.ofNat 32 (leNat ((List.range 4).map fun i => byteAt u (place x) (4 * k + i)))
            word s' = plusRNE (word s) (s.accGet tk.ret tk.cu p.octet p.ac x.1 k)))

/-! ### Port engine -/

/-- POST.W, POST.S, POST.Q, COLL and NXQRY at issue (R363, R365, R366, R368, R371 to R374, R380): posts are checked lane by lane; a lane that
joins a collective takes the next instance number of its group at the reticle; NXQRY reads what its selector names. -/
def Obligations.PostsAndCollectivesAtIssue : Prop :=
  (∀ a b scope tc, Posts (.postW a b scope tc) scope tc a fun is l =>
    .words (is.snap.vget b.toNat l).toNat (is.snap.vget (b.toNat + 1) l).toNat) ∧
  (∀ a b scope tc, Posts (.postS a b scope tc) scope tc a fun is l => .signal (pairAt is b l)) ∧
  (∀ a b scope tc e5m2, Posts (.postQ a b scope tc e5m2) scope tc a fun is l =>
    .quant (is.snap.vget b.toNat l).toNat (is.snap.vget (b.toNat + 1) l).toNat (is.snap.vget (b.toNat + 2) l).toNat e5m2) ∧
  (∀ r g scope tc s is l, s.issue = some is → is.cur.pred ≠ 0xF → participants is = [l] →
    let grp := (is.snap.gget g.toNat).toNat
    let a := (is.snap.vget r.toNat l).toNat
    match collCheck s is.task scope.toNat grp a (is.coach.scratchView is.task a 32) with
    | .park code addr => ∃ js, Leaves (.coll r g scope tc) s js ∧ ChecksOnly is js ∧
        js.coach.parked = is.coach.parked ||| BitVec.ofNat 64 (2 ^ l) ∧
        (is.task.faults.length < 64 → OneMore is.task.faults js.task.faults fun x => x.code = code ∧ x.lane = l ∧ x.addr = addr)
    | .illegal => ∃ js, Leaves (.coll r g scope tc) s js ∧ js.cfault = (raising is cILLEGAL_FIELD 0).cfault ∧ js.task = is.task
    | .failed => ∃ js, Leaves (.coll r g scope tc) s js ∧ ChecksOnly is js ∧
        (is.task.fate = none → is.task.phase ≠ .ended → js.task.fate = some (.terminated 0x29))
    | .join d m p => ∃ js vfs, exec (.coll r g scope tc) s = .next { s with issue := some js, vfs := vfs } ∧ ChecksOnly is js ∧
        js.task = is.task ∧ js.coach.parked = is.coach.parked ∧
        ∀ v, s.vf? is.task.vf = some v →
          let k := (v.collAt grp is.task.ret).joined
          let x : Particip :=
            { lane := l, vf := is.task.vf, grp, inst := k, src := d.src, dst := d.dst, srcLen := d.srcLen p (decide (m = d.root)), dstLen := d.dstLen p
              timeout := s.classTimeout is.task.vf tc.toNat
              join := { member := m, op := d.op, dtype := d.dtype, rop := d.rop, count := d.count, root := d.root, data := [] } }
          let new : Op := { seq := is.coach.seq, cls := some .n, site := is.site, start := s.clock, body := .coll scope.toNat tc.toNat [x] }
          js.coach.ops = pruneOps (is.coach.ops ++ [new]) ∧
          ∃ v', ({ s with vfs := vfs } : State).vf? is.task.vf = some v' ∧ (v'.collAt grp is.task.ret).joined = k + 1) ∧
  (∀ r g scope tc s is, s.issue = some is → participants is = [] → ∃ js, Leaves (.coll r g scope tc) s js ∧ ChecksOnly is js ∧
    js.task = is.task ∧ js.coach.parked = is.coach.parked) ∧
  ∀ gd gg sel s is, s.issue = some is →
    let grp := (is.snap.gget gg.toNat).toNat
    let g := s.group? is.task.vf grp
    ∃ js, Leaves (.nxqry gd gg sel) s js ∧ GroupSet is js gd.toNat is.qon
      (if sel = 0 then BitVec.ofNat 32 (is.coach.count .n + 65536 * (s.port.version.toNat % 65536))
       else if sel = 1 then s.port.version
       else if 63 < grp then 0
       else if sel = 2 then BitVec.ofNat 32 (((g.map fun g => g.members.length).getD 0) % 1024
         + 1024 * ((g.bind fun g => s.memberOf g is.task.ret).getD 1023))
       else match s.vf? is.task.vf, g with
         | some v, some _ => BitVec.ofNat 32 (v.collAt grp is.task.ret).joined
         | _, _ => 0)

/-- Posts and collectives when they complete (R364 to R366, R369, R370, R372 to R377): a post of words writes the scratchpad's bytes and a
signal adds its increment at the destination's home; a ready member's source is read; an instance whose members all joined alike and gave
their sources gives each its result, which then stands at its destination, and in an all-reduce the owner of a block sends it, final, to the
members on other wafers (R403; how flits carry it is the model's choice, log 40); an instance past its group's timeout, or withdrawn elsewhere, fails for every member. -/
def Obligations.PostsAndCollectivesComplete : Prop :=
  (∀ s t c seq tk co o sc tc p, Outstanding s t c seq tk co o → o.body = .post sc tc [p] → p.accepted = false → s.postReady tk co o p = true →
    ∀ e off key wid ret, tk.extent? p.kind.acc p.dst.toNat p.kind.bytes = some e → s.locate e p.dst.toNat = .glob 0xFFFF ret off key wid →
    s.pathOk tk.ret (.glob 0xFFFF ret off key wid) = true → s.refused tk (.glob 0xFFFF ret off key wid) = false →
    RowHome s ret off p.kind.bytes → CleanCU s tk → (∀ x ∈ s.root.spareOf, x.1 ≠ devAddr ret off / 65536 * 65536) → p.dst.toNat % 32 = off % 32 →
    (∀ src len, p.kind = .words src len → 0 < len → ∃ s', exec (.postComplete t c seq) s = .next s' ∧ StorageOnly s s' ∧
      CoachStep s s' t c co (fun co' => co' = { co with ops := co'.ops } ∧ ∀ q ∈ co'.ops, q.seq = seq → q.done = true) ∧
      s'.host = s.host ∧ HomeSet s s' ret off key ((List.range len).map fun i => tget 0 tk.scratch (src + i))) ∧
    (∀ inc, p.kind = .signal inc → sc < 2 → ∃ s', exec (.postComplete t c seq) s = .next s' ∧ StorageOnly s s' ∧
      CoachStep s s' t c co (fun co' => co' = { co with ops := co'.ops } ∧ ∀ q ∈ co'.ops, q.seq = seq → q.done = true) ∧
      s'.host = s.host ∧ HomeSet s s' ret off key ((List.range 8).map fun i =>
        BitVec.ofNat 8 ((leNat ((List.range 8).map fun j => s.homeByte ret (off + j) key) + inc.toNat) / 256 ^ i))) ∧
    ∀ xa n ra e5m2, p.kind = .quant xa n ra e5m2 → 0 < n → ∃ s' tk', exec (.postComplete t c seq) s = .next s' ∧ StorageOnly s s' ∧
      (∀ u, u ≠ t → s'.task? u = s.task? u) ∧ s'.task? t = some tk' ∧ tk' = { tk with coaches := tk'.coaches, scratch := tk'.scratch } ∧
      tk'.scratch = (tk.quantise xa n ra e5m2).1.scratch ∧ s'.host = s.host ∧ HomeSet s s' ret off key (tk.quantise xa n ra e5m2).2) ∧
  (∀ s vf grp k remote g js, s.group? vf grp = some g → s.joinedAt vf grp k ≠ [] →
    (∀ j ∈ s.joinedAt vf grp k, j.part.told = true) →
    s.allJoins g (s.joinedAt vf grp k) remote = some js → (∀ a ∈ js, ∀ b ∈ js, sameJoin a b = true) →
    ∃ s', exec (.collInstanceProceed vf grp k remote) s = .next s' ∧
      s' = { s with tasks := s'.tasks, port := { s.port with outgoing := s'.port.outgoing } } ∧ s'.tasks.length = s.tasks.length ∧
      s'.joinedAt vf grp k = [] ∧
      ((∀ m ∈ g.members, s.isHere m.1 = true) ∨ (∀ a ∈ js, a.op ≠ 0) → s'.port.outgoing = s.port.outgoing) ∧
      (∀ j ∈ s.joinedAt vf grp k, j.part.join ∈ js → j.part.join.op = 0 → ∀ m ∈ g.members, s.isHere m.1 = false →
        let x := j.part.join
        let len := elemSize x.dtype * ((x.count + g.members.length - 1) / g.members.length)
        let block := ((collResult js x.member).drop (x.member * len)).take len
        ∀ i, 64 * i < block.length → ∃ f, (j.task.ret, f) ∈ s'.port.outgoing ∧ f.kind = 7 ∧ f.vf = j.part.vf ∧
          f.payload = (block.drop (64 * i)).take 64 ∧ f.dest = BitVec.ofNat 64 (m.1 * 2 ^ 48 + m.2 * 2 ^ 42 + 64 * i)) ∧
      ∀ u tk tk' c co co' seq o o', s.task? u = some tk → s'.task? u = some tk' → tk.coach? c = some co → tk'.coach? c = some co' →
        co.op? seq = some o → co'.op? seq = some o' → o.done = false →
        tk' = { tk with coaches := tk'.coaches } ∧ co' = { co with ops := co'.ops } ∧
        o'.body.particips = o.body.particips.map fun p =>
          if p.inInst vf grp k then { p with result := some (collResult js p.join.member) } else p) ∧
  (∀ s vf grp k g j sc tc e off key wid ret, s.group? vf grp = some g → (∃ m ∈ g.members, s.isHere m.1 = false) → s.joinedAt vf grp k = [j] →
    j.part.told = false → j.ready = true → Outstanding s j.task.uid j.coach.num j.op.seq j.task j.coach j.op →
    j.op.body = .coll sc tc [j.part] → sc < 2 → j.task.extent? .read j.part.src.toNat j.part.srcLen = some e →
    s.locate e j.part.src.toNat = .glob 0xFFFF ret off key wid → s.pathOk j.task.ret (.glob 0xFFFF ret off key wid) = true →
    s.refused j.task (.glob 0xFFFF ret off key wid) = false → RowHome s ret off j.part.srcLen → CleanCU s j.task →
    ∃ s', exec (.collInstanceProceed vf grp k []) s = .next s' ∧
      StorageOnly { s with port := { s.port with outgoing := s'.port.outgoing } } s' ∧
      CoachStep s s' j.task.uid j.coach.num j.coach fun co' => co' = { j.coach with ops := co'.ops } ∧
        ∃ o', co'.op? j.op.seq = some o' ∧ o'.body = .coll sc tc
          [{ j.part with join := { j.part.join with data := s.homeBytes ret off key j.part.srcLen }, told := true, wait := false }]) ∧
  (∀ s t c seq tk co o sc tc p bs, Outstanding s t c seq tk co o → o.body = .coll sc tc [p] → s.particReady tk co o p = true → p.wait = false → p.result = some bs →
    (∀ q ∈ co.ops, q.seq = seq → q = o) → bs.length = p.dstLen →
    ∀ e off key wid ret, tk.extent? .write p.dst.toNat p.dstLen = some e → s.locate e p.dst.toNat = .glob 0xFFFF ret off key wid →
    s.refused tk (.glob 0xFFFF ret off key wid) = false → sc < 2 →
    RowHome s ret off p.dstLen → CleanCU s tk →
    ∃ s', exec (.collComplete t c seq) s = .next s' ∧ StorageOnly { s with vfs := s'.vfs } s' ∧
      CoachStep s s' t c co (fun co' => co' = { co with ops := co'.ops } ∧ ∀ q, co'.op? seq = some q → q.done = true) ∧
      s'.host = s.host ∧ HomeSet s s' ret off key bs) ∧
  ∀ s vf grp k g i, s.group? vf grp = some g →
    (i = .collWithdrawMsg vf grp k ∨ i = .collTimeout vf grp k ∧
      ∃ v t0, s.vf? vf = some v ∧ v.firstJoin grp k = some t0 ∧ t0 + 1600000 * g.timeout ≤ s.clock ∧
        ∃ tk ∈ s.tasks, tk.particips (fun p => p.inInst vf grp k) ≠ []) →
    (∃ m ∈ g.members, s.isHere m.1 = true ∧ ∃ v, s.vf? vf = some v ∧ k ∉ (v.collAt grp m.2).failed) →
    ∃ s', exec i s = .next s' ∧ StorageOnly { s with vfs := s'.vfs, port := { s.port with outgoing := s'.port.outgoing } } s' ∧
      (∀ u tk, s.task? u = some tk → ∃ tk', s'.task? u = some tk' ∧ tk'.particips (fun p => p.inInst vf grp k) = [] ∧
        (tk.particips (fun p => p.inInst vf grp k) = [] → tk' = tk) ∧
        (tk.particips (fun p => p.inInst vf grp k) ≠ [] → tk.stopSince = none → tk.phase = .running → tk.fate = none →
          tk'.fate = some (.terminated 0x29))) ∧
      ∀ m ∈ g.members, s.isHere m.1 = true → ∀ v, s'.vf? vf = some v → k ∈ (v.collAt grp m.2).failed

/-! ### Issue, holds and barriers as events -/

/-- Readiness (R39, R112, R113, R126, R128, R159): the end of a yield hint, of a stall and of a YIELD, a reserved issue cycle, a result
written; and the fragment that a coach picks: the oldest of those that have waited 16 cycles, else the oldest ready one. One that was
passed over in 16 issue cycles of its coach goes before these, which is the model's reading of R114 (log 83). -/
def Obligations.ReadinessEvents : Prop :=
  (∀ s t c tk co, s.task? t = some tk → tk.coach? c = some co → co.yieldTill ≠ 0 → co.yieldTill ≤ s.clock →
    CoachEvent (.yieldHintEnd t c) s t c co fun co' => co' = { co with yieldTill := 0, readySince := s.clock, reserved := false }) ∧
  (∀ s t c age tk co f st, s.task? t = some tk → tk.coach? c = some co → co.frag? age = some f → f.stall = some st → st.till ≤ s.clock →
    f.hold = .none → CoachEvent (if st.yielded then .yieldExpiry t c age else .fragmentReady t c age) s t c co (Released s.clock age f co)) ∧
  (∀ s t c tk co, s.task? t = some tk → tk.coach? c = some co → tk.issuing = true → co.ready s.clock = true → co.readySince + 32 ≤ s.clock →
    CoachEvent (.issueReservation t c) s t c co fun co' => co' = { co with reserved := true }) ∧
  (∀ s t c tk co, s.task? t = some tk → tk.coach? c = some co → co.interlocks ≠ 0 →
    CoachEvent (.interlockResultWritten t c) s t c co fun co' => co' = { co with interlocks := co.interlocks - 1 }) ∧
  ∀ (co : Coach) now f, co.pick now = some f → f ∈ co.frags ∧ co.fragReady f = true ∧
    ∀ g ∈ co.frags, co.fragReady g = true →
      (16 ≤ g.passed → 16 ≤ f.passed ∧ f.age ≤ g.age) ∧
      ((∀ x ∈ co.frags, co.fragReady x = true → x.passed < 16) →
        (g.readySince + 16 ≤ now → f.readySince + 16 ≤ now ∧ f.age ≤ g.age) ∧ (now < f.readySince + 16 → f.age ≤ g.age))

/-- BUNDLE_FETCH and FRAGMENT_PRIORITY (R37, R38, R41, R55, R94, R96, R97, R113, R118, R206): for the coach and fragment that may issue,
a readable and correct bundle enters the latch with nothing else changed, a held one resumes with its remaining slots, a broken one
stops the coach with one record of severity 2, and code outside the extents parks every active lane; the coach's other ready fragments are
passed over (log 83), and a fetch that faults takes an issue cycle, which is the model's choice (log 3). -/
def Obligations.BundlesAreFetched : Prop :=
  ∀ s t c tk co f i, s.fetchable t c = some (tk, co, f) →
    (i = .bundleFetch t c ∨ i = .fragmentPriority t c f.age ∧ f.readySince + 16 ≤ s.clock) →
    let mine : Coach := { co with frags := co.frags.map fun g => if g.age = f.age then { g with cfault := none } else g }
    let passed : Coach := { co with frags := co.frags.map fun g =>
      if g.age = f.age then { g with cfault := none } else if co.fragReady g then { g with passed := g.passed + 1 } else g }
    (f.mid = true →
      let is : Issue :=
        { task := { tk.modCoach co.num (fun _ => mine) with ran := true, began := true }, coach := passed, snap := mine
          frag := { f with mid := false, items := [], snaps := [], passed := 0 }
          snaps := f.snaps, items := resumeItems f.items (co.activeOf f)
          next := f.next, cfault := f.cfault, yh := f.yh, lv := f.lv, yieldN := f.yieldN }
      exec i s = .next { s with issue := some is }) ∧
    (∀ xs yh lv, f.mid = false → s.fetch tk co f = .items xs yh lv → 
      let is : Issue :=
        { task := { tk.modCoach co.num (fun _ => mine) with ran := true, began := true }, coach := passed, snap := mine, items := xs, yh := yh
          lv := lv, snaps := f.snaps
          frag := { f with xfer := none, next := .seq, cfault := none, yieldN := none, mid := false, items := [], snaps := [], passed := 0 } }
      exec i s = .next { s with issue := some is }) ∧
    (∀ r, f.mid = false → s.fetch tk co f = .fault r → r.sev = 2 ∧ CycleEvent i s t tk fun tk' =>
      tk' = { tk with
        ran := true, began := true, faults := tk'.faults, lost := tk'.lost, stopSince := tk'.stopSince, coaches := tk'.coaches } ∧
      tk'.stopSince = some (tk.stopSince.getD s.clock) ∧
      (tk.faults.length < 64 → OneMore tk.faults tk'.faults fun q => q = { r with cyc := s.clock }) ∧
      tk'.coach? c = some { co with stopped := true } ∧ ∀ d, d ≠ c → tk'.coach? d = tk.coach? d) ∧
    ∀ a, f.mid = false → s.fetch tk co f = .violation a → CycleEvent i s t tk fun tk' =>
      tk' = { tk with
        ran := true, began := true, faults := tk'.faults, lost := tk'.lost, stopSince := tk'.stopSince, coaches := tk'.coaches } ∧
      (∃ co', tk'.coach? c = some co' ∧ co' = { co with parked := co.parked ||| co.activeOf f }) ∧
      ∀ r ∈ tk'.faults, (∃ q ∈ tk.faults, { q with lost := r.lost } = r) ∨ r.code = 0x10 ∧ r.sev = 1 ∧ r.addr = a

/-- Holds that end, and barriers (R6, R104, R107 to R111, R141, R145, R212): WAIT, a full counter and a full store queue release their
fragment when their condition is met; a coach whose live lanes all stand at a barrier counts there, and the k-th arrival starts the
next generation; a coach at CSPLIT, of a task that runs on or that stops for a lane of the coach itself, with its counters at zero becomes its siblings, which keep their lanes' registers. What fuses (R101, R106, R125, R144), by the operations that
every step applies to its tasks: fragments at RCVWAIT once every lane of the mask is there; fragments that a barrier generation frees, after
2 cycles; and the live siblings at CFUSE into one coach of the set's width and lowest number, with the lanes' registers, g, q and
EXV of the lowest live sibling (EXV by R106; R77 does not say live: log 19), and every flag; siblings that stand apart raise FUSE_MISMATCH. -/
def Obligations.HoldEvents : Prop :=
  (∀ (co : Coach) now k r, co.rbGet k = some r → co.parked = 0 → (∃ f ∈ co.frags, f.hold = .rcv k) →
    (∀ f ∈ co.frags, f.hold = .rcv k → f.off = r.off ∧ f.ctx.hdr = r.hdr) →
    let held := co.frags.filter fun f => decide (f.hold = .rcv k)
    let here := ∀ l, l < 64 → r.mask.getLsbD l = true → co.live.getLsbD l = true → ∃ f ∈ held, f.mask.getLsbD l = true
    let co' := co.settleRcv now k
    (¬ here → co' = co) ∧
    (here → OneCourse held → (∃ f, co'.frags = co.frags.filter (fun g => decide (g.hold ≠ .rcv k)) ++ [f] ∧ FusedInto held now 0 f) ∧
      co'.rbGet k = none ∧ co' = { co with frags := co'.frags, rb := co'.rb, readySince := co'.readySince, reserved := co'.reserved })) ∧
  (∀ (t : Task) now (co : Coach) id g, co.frags ≠ [] → (∀ f ∈ co.frags, f.hold = .gen true id g) → OneCourse co.frags →
    let co' := t.settleGen now co
    (((t.barrier id).gen < g ∨ t.stopSince ≠ none) → co' = co) ∧
    (g ≤ (t.barrier id).gen → t.stopSince = none → t.mark = none →
      ∃ f, co'.frags = [f] ∧ FusedInto co.frags now (if g = 0 then 0 else 2) f)) ∧
  (∀ (t : Task) now (x : SibSet), let all := t.members x.id
    let live := all.filter fun c => decide (c.live ≠ 0)
    live ≠ [] → (all.map Coach.num).Nodup → (∀ c ∈ all, c.openBatch = [] ∧ ∀ o ∈ c.ops, o.done = true) →
    (∀ c ∈ live, c.stopped = false ∧ (c.sibs.head?.map fun y => y.id) = some x.id ∧ ∃ f, c.frags = [f] ∧ f.hold = .cfuse) →
    let t' := t.settleFuse now x
    let alike := ∀ c ∈ live, ∀ d ∈ live, ∀ f ∈ c.frags, ∀ g ∈ d.frags, f.off = g.off ∧ f.ctx = g.ctx ∧ f.calls = g.calls ∧ f.loops = g.loops
    (alike → ∃ c' low c0, low ∈ all ∧ (∀ c ∈ all, low.num ≤ c.num) ∧ c0 ∈ live ∧ (∀ c ∈ live, c0.num ≤ c.num) ∧
      t' = { t with coaches := t'.coaches, signals := t'.signals } ∧
      t'.coaches = t.coaches.filter (fun y => !(y.sibs.any fun z => z.id == x.id)) ++ [c'] ∧
      c'.num = low.num ∧ c'.width = x.width ∧ c'.octet0 = x.octet0 ∧ c'.g = c0.g ∧ c'.q = c0.q ∧ c'.exv = c0.exv ∧
      c'.gmode = (low.gmode &&& 0x1F#32) ||| (all.map fun c => c.gmode &&& 0x1F00#32).foldl (fun a b => a ||| b) 0 ∧
      c'.rb = [] ∧ c'.ops = [] ∧ (∃ f, c'.frags = [f] ∧ f.age = 0 ∧ f.hold = .none ∧ (∀ c ∈ live, ∀ g ∈ c.frags, f.off = g.off ∧ f.ctx = g.ctx) ∧
        ∀ l, l < 64 → (f.mask.getLsbD l = true ↔ ∃ c ∈ live, ∃ g ∈ c.frags, g.mask.getLsbD l = true)) ∧
      (∀ l, l < 64 → (c'.live.getLsbD l = true ↔ ∃ c ∈ all, c.live.getLsbD l = true)) ∧
      ((∀ c ∈ all, twf 0 c.v = true ∧ ∀ e ∈ c.v, c.lanes.getLsbD (e.1 % 64) = true) →
        (∀ c ∈ all, ∀ d ∈ all, c.num ≠ d.num → c.lanes &&& d.lanes = 0) →
        ∀ c ∈ all, ∀ r l, l < 64 → c.lanes.getLsbD l = true → c'.vget r l = c.vget r l)) ∧
    (¬ alike → t'.stopSince = some (t.stopSince.getD now) ∧ ∃ c ∈ live, (∀ d ∈ live, ∀ f ∈ c.frags, ∀ g ∈ d.frags, g.fuseAt.getD 0 ≤ f.fuseAt.getD 0) ∧
      (∃ c', t'.coach? c.num = some c' ∧ c'.stopped = true) ∧
      (t.faults.length < 64 → OneMore t.faults t'.faults fun r => r.code = 0x07 ∧ r.sev = 2 ∧ r.coach = c.num))) ∧
  (∀ s t c age tk co f i, s.task? t = some tk → tk.coach? c = some co → co.frag? age = some f →
    (∀ g ∈ co.frags, g.age = age → g = f) → co.frags.Nodup → f.stall = none →
    (∀ l sc cc tt n, f.hold = .wait l sc cc tt n → co.below l sc cc tt n = true → CoachEvent (.waitRelease t c age) s t c co fun co' =>
      ∃ mid, Observed f.mask l sc cc tt n co mid ∧ Released s.clock age f mid co') ∧
    (i = .counterHoldRelease t c age ∧ (∃ k n, f.hold = .counter k n ∧ co.count k + n ≤ 63) ∨
        i = .storeQueueRoom t c age ∧ f.hold = .queue ∧ co.queued.length < 16 →
      CoachEvent i s t c co (Released s.clock age f co))) ∧
  (∀ s t c id tk co k, s.task? t = some tk → tk.coach? c = some co → tk.stopSince = none → tk.tend = false → tk.fate = none →
    co.standsAt id = true →
    (∀ f ∈ co.activeFrags, f.barK id = some k) → ((tk.barrier id).count = 0 ∨ (tk.barrier id).k = k) →
    let b := tk.barrier id
    let done := b.count + 1 = k
    TaskEvent (.barrierArrival t c id) s t tk fun tk' =>
      tk'.barrier id = (if done then { count := 0, k, gen := b.gen + 1 } else { count := b.count + 1, k, gen := b.gen }) ∧
      (∀ n, n ≠ id → tk'.barrier n = tk.barrier n) ∧
      ((∀ d ∈ tk.coaches, ∀ f ∈ d.frags, f.hold ≠ .cfuse) → tk' = { tk with coaches := tk'.coaches, barriers := tk'.barriers } ∧
        ∀ d x y, tk.coach? d = some x → tk'.coach? d = some y →
          y = { x with frags := y.frags, rb := y.rb, arrived := y.arrived, readySince := y.readySince, reserved := y.reserved })) ∧
  ∀ s t c tk co f w, s.task? t = some tk → tk.coach? c = some co → co.former = none → tk.tend = false → tk.halted = false →
    (tk.stopSince = none ∨ co.parked ≠ 0) → co.frags = [f] → f.hold = .csplit w →
    (∀ o ∈ co.ops, o.done = true ∨ o.cls = none) → 0 < w → w * (co.width / w) = co.width → co.octet0 + co.width ≤ 8 →
    co.width / w ≤ tk.freeNums.length + 1 →
    TaskEvent (.csplitComplete t c) s t tk fun tk' => tk' = { tk with coaches := tk'.coaches, signals := tk'.signals } ∧
      (tk'.coaches.filter fun x => x.former.isNone).length
        = (tk.coaches.filter fun x => x.former.isNone && decide (x.num ≠ co.num)).length + co.width / w ∧
      (∀ x ∈ tk.coaches, x.num ≠ co.num → x ∈ tk'.coaches) ∧
      (tk'.signals.filter fun x => decide (x.coach ≠ co.num ∧ x.coach < 16)) = (tk.signals.filter fun x => decide (x.coach ≠ co.num ∧ x.coach < 16)) ∧
      ∀ j, j < co.width / w → ∃ x ∈ tk'.coaches, x.octet0 = co.octet0 + j * w ∧ x.width = w ∧ x.num = (co.num :: tk.freeNums).getD j 0 ∧
        x.g = co.g ∧ x.q = co.q ∧ x.gmode = co.gmode ∧ x.exv = co.exv ∧ (∀ o ∈ x.ops, o ∈ co.ops ∧ o.isFence = true) ∧
        ∀ r l, 8 * x.octet0 ≤ l → l < 8 * (x.octet0 + w) → x.vget r l = co.vget r l ∧ x.live.getLsbD l = co.live.getLsbD l

/-! ### Tasks, graphs and signals -/

/-- The ends of tasks and what they signal (R9, R10, R15, R119, R155, R295, R316 to R319, R337, R338): the stop's time limit; a task's end, its
completion record field by field at RECBASE + 32 times its index, where that lies on this wafer, and its launch's counter, and for a record
on another wafer the counter once its home has acknowledged it; its fault records in the error ring, entry by entry; TSIG on a node, TSPAWN and a spawn that waited for an entry, both after a release of the issuing CU. -/
def Obligations.TaskEvents : Prop :=
  (∀ s t tk n, s.task? t = some tk → tk.phase = .running → tk.stopDone = false → tk.stopSince = some n → n + 65536 ≤ s.clock →
    TaskEvent (.taskStopTimeout t) s t tk fun tk' => tk' = { tk with halted := true }) ∧
  (∀ s t tk, s.task? t = some tk → s.issue = none → tk.mayEnd = true → ∃ s', exec (.taskComplete t) s = .next s' ∧ s'.task? t = none) ∧
  (∀ (t : Task) n, RecordIs (t.record256 n) t n) ∧
  (∀ (t : Task), (∀ l, t.fate = some (.cancelled l) → t.ending = .cancelled l) ∧ ((∀ l, t.fate ≠ some (.cancelled l)) →
    (∀ r rest, t.faults = r :: rest → t.ending = .terminated r.code) ∧ (t.faults = [] → t.ending = t.fate.getD .completed))) ∧
  (∀ s t tk l v h ret off key wid, s.task? t = some tk → s.issue = none → tk.mayEnd = true → tk.copyOf = none → NoPending tk →
    tk.faults = [] → (∀ c, tk.ending ≠ .terminated c) → s.launch? tk.launch = some l → l.spanned = false → s.vf? l.vf = some v → CleanCU s tk →
    s.vaPlace v (l.recbase.toNat + 32 * tk.index) true = some h → s.globLoc h.1 h.2 0 = .glob 0xFFFF ret off key wid → RowHome s ret off 32 →
    s.reqsOf (.record l.id tk.index) = [] →
    ∃ s1, exec (.taskComplete t) s = .next (s1.settleGraph l.graph) ∧ StorageOnly { s with launches := s1.launches } s1 ∧
      s1.task? t = none ∧ (∀ u, u ≠ t → s1.task? u = s.task? u) ∧ s1.launch? l.id = some { l with counter := l.counter - 1 } ∧
      HomeSet s s1 ret off key (leBytes 32 (tk.record256 0).toNat)) ∧
  (∀ s t tk v, s.task? t = some tk → s.issue = none → tk.mayEnd = true → tk.faults ≠ [] → s.vf? tk.vf = some v →
    ∃ s' v' n, exec (.taskComplete t) s = .next s' ∧ s'.vf? tk.vf = some v' ∧ v.errSeq + tk.faults.length ≤ v'.errSeq ∧
      .interrupt (some tk.vf) n ∈ s'.outbox) ∧
  (∀ s vf v r w h ret off key wid, s.vf? vf = some v →
    s.stage2 v (v.policy.errBase + 64 * (v.errSeq % 2 ^ v.policy.errK)) true = some h → s.globLoc h.1 h.2 0 = .glob 0xFFFF ret off key wid →
    (∀ i, i < 64 → RowHome s ret (off + i) 1) →
    ∃ bs xs n v', EntryIs64 bs r (v.errSeq + 1) w ∧ HomeSet s (s.errorRing vf [(r, w)]) ret off key bs ∧
      (s.errorRing vf [(r, w)]).outbox = s.outbox ++ xs ++ [.interrupt (some vf) n] ∧
      (s.errorRing vf [(r, w)]).vf? vf = some v' ∧ v'.errSeq = v.errSeq + 1) ∧
  (∀ (s : State) l i, s.launch? l.id = some l → (∀ q ∈ s.reqsOf (.record l.id i), q.answer ≠ some .refused ∧ s.overdue q = false) →
    (s.answerOf (.record l.id i) = none → s.endRecord l i = s) ∧
    ((s.answerOf (.record l.id i)).isSome = true → ∃ s1 : State, s.endRecord l i = s1.settleGraph l.graph ∧ s1.reqsOf (.record l.id i) = [] ∧
      s1 = { s with launches := s1.launches, port := s1.port } ∧ s1.launch? l.id = some { l with counter := l.counter - 1 })) ∧
  (∀ s t tk x l g n, s.task? t = some tk → (tk.nextSignals.find? fun y => decide (y.spawn = false)) = some x → s.launch? tk.launch = some l →
    s.graph? l.graph = some g → x.val.toNat % 2 ^ 32 < 4096 → g.nodes[x.val.toNat % 2 ^ 32]? = some n → n.state = .waiting → 2 ≤ n.count →
    ∃ s', exec (.tsigApply t) s = .next s' ∧ StorageOnly { s with graphs := s'.graphs } s' ∧ CleanCU s' tk ∧
      TaskStep s s' t tk (fun tk' => tk' = { tk with signals := tk.signals.erase x }) ∧
      s'.node l.graph (x.val.toNat % 2 ^ 32) = some { n with count := n.count - 1 } ∧
      ∀ m, m ≠ x.val.toNat % 2 ^ 32 → s'.node l.graph m = s.node l.graph m) ∧
  ∀ s t tk x l y i v p n, s.task? t = some tk → tk.nextSpawn = some x → s.launch? tk.launch = some l → s.spawned tk.ret < 1024 →
    (i = .tspawnApply t ∨ i = .spawnEntryFree tk.ret ∧ (s.tasks.find? fun u => u.ret == tk.ret && u.nextSpawn.isSome) = some tk) →
    s.vf? tk.vf = some v → s.part? tk.part = some p → s.node l.graph l.node = some n → n.state.final = false → l.depth < 7 →
    ((s.releaseL1 tk.ret tk.cu).modTask t fun u => u.dropSignal x).readLaunch v p x.val (some tk.ret) = .ok y →
    ∃ s' z, exec i s = .next s' ∧ StorageOnly { s with launches := s.launches ++ [z], nextUid := s.nextUid + 1 } s' ∧ CleanCU s' tk ∧
      TaskStep s s' t tk (fun tk' => tk' = { tk with signals := tk.signals.erase x }) ∧
      z.id = s.nextUid + 1 ∧ z.graph = l.graph ∧ z.node = l.node ∧ z.depth = l.depth + 1 ∧ z.home = tk.ret ∧ z.entry = y.entry ∧
      z.counter = y.counter

/-- Graphs, copy nodes and chunks (R10, R297, R303 to R307, R314): a graph that reads correctly starts with its nodes; a completed node
decrements its successor; a copy node moves its bytes and ends its stand-in task; a chunk whose tasks have all ended is reported and its
launch's counter goes down by the number of its records that are performed at once. -/
def Obligations.GraphEvents : Prop :=
  (∀ s g x v s1 nodes succs, s.graph? g = some x → s.vf? x.vf = some v → x.started = false → s.vfRuns x.vf = true →
    s.storeVA (s.masterOf x.part) v (x.hdr.toNat + 24) (List.replicate 8 0) = some s1 → s.readGraph v x.hdr.toNat = .ok (nodes, succs) →
    nodes ≠ [] → (∀ n ∈ nodes, n.count ≠ 0 ∧ n.state = .waiting) → s1.graphs = s.graphs →
    (∀ j ∈ s1.jobs, j.handle = x.job → ∀ c ∈ j.cancels, c.1 ≠ 0) →
    ∃ s', exec (.graphStart g) s = .next s' ∧ s' = { s1 with graphs := s'.graphs } ∧
      s'.graph? g = some { x with nodes := nodes, succs := succs, started := true } ∧ ∀ h, h ≠ g → s'.graph? h = s.graph? h) ∧
  (∀ s g n x m y, s.graph? g = some x → s.nodeOver g n = true → x.succsOf n = [m] → m ≠ n → x.nodes[m]? = some y → y.state = .waiting →
    2 ≤ y.count → ∃ s' z, exec (.nodeComplete g n) s = .next s' ∧ s' = { s with graphs := s'.graphs } ∧
      s'.node g n = some z ∧ z.state = .completed ∧ s'.node g m = some { y with count := y.count - 1 } ∧
      ∀ k, k ≠ n → k ≠ m → s'.node g k = s.node g k) ∧
  (∀ s g n tk x src dst len e d, s.copyTask g n = some tk → s.node g n = some x → x.copy = some (src, dst, len) → tk.phase = .translated →
    tk.fate = none → tk.wrote = false → s.reqsOf (.node tk.uid) = [] → tk.extent? .read src len = some e → e.host = true → tk.extent? .write dst len = some d → d.host = true →
    let a := (e.pa + BitVec.ofNat 64 (src - e.va)).toNat
    let b := (d.pa + BitVec.ofNat 64 (dst - d.va)).toNat
    ∃ s', exec (.copyNodePerformed g n []) s = .next s' ∧
      s' = { s with tasks := s.tasks.filter fun u => decide (u.uid ≠ tk.uid), graphs := s'.graphs, host := s'.host } ∧
      s'.node g n = some { x with copy := none } ∧
      ∀ k, tget 0 s'.host k = if b ≤ k ∧ k < b + len then tget 0 s.host (a + (k - b)) else tget 0 s.host k) ∧
  ∀ s l i x c, s.launch? l = some x → x.chunks[i]? = some c → c.reported = false → (∀ k ∈ c.indices, ∃ r ∈ c.records, r.1 = k) →
    ∃ (s1 : State) (y : Launch), exec (.chunkReport l i) s = .next (s1.settleGraph x.graph) ∧ s1.launch? l = some y ∧
      y.counter = x.counter - (c.indices.filter fun k => !s1.recordOut l k).length ∧ ∃ d, y.chunks[i]? = some d ∧ d.reported = true

/-! ### Translation and placement -/

/-- TASK_TRANSLATE, ATS_TRANSLATION_COMPLETION and PRG_RESPONSE (R321 to R324, R330 to R332): a range past 2^52 or a page that does not
translate ends the task, and a stage-2 miss gives the host an event handle; with every page translated the task is ready for placement;
host pages wait for their answers, and a page that is not granted is asked for while fewer than 1,024 requests are out, each of which keeps
its place until its response; a page response other than Success ends the task. A task whose pages lie in a frame that a MIGRATE is moving
is not translated until the frame has its new place, which is the model's reading of R321 and R333 (log 52). -/
def Obligations.TranslationEvents : Prop :=
  (∀ s t tk v es, s.task? t = some tk → s.vf? tk.vf = some v → s.wantsOf tk = some es → s.mayTranslate tk = true →
    (s.overMoving (s.startTranslation v es tk) = true → exec (.taskTranslate t) s = .next s) ∧
    (s.overMoving (s.startTranslation v es tk) = false →
    (∀ a, es.findSome? Extent.beyond = some a → TaskEvent (.taskTranslate t) s t tk fun tk' => EndsWith tk tk' 0x24 ∧ tk'.waits = []) ∧
    (es.findSome? Extent.beyond = none → (tk.pinned = true ∨ vaClash es = none) →
      (∀ code addr aux data, (s.transAll v es).bad = some (.bad code addr aux data) →
        (code ≠ 0x22 → TaskEvent (.taskTranslate t) s t tk fun tk' => EndsWith tk tk' code) ∧
        (code = 0x22 → ∃ s', exec (.taskTranslate t) s = .next s' ∧
          s' = { s with tasks := s'.tasks, freeIx := s.freeIx + 1, outbox := s.outbox ++ [.eventHandle (Config.freeNat s.freeIx)] } ∧
          TaskStep s s' t tk fun tk' => EndsWith tk tk' code)) ∧
      ((s.transAll v es).bad = none →
        let x := s.transAll v es
        let merged := mergePages (x.done.foldl insertPage [])
        (x.waits = [] → tk.copyOf = none → (tk.pinned = true ∨ s.paClash merged = none) → merged.length ≤ 64 →
          TaskEvent (.taskTranslate t) s t tk fun tk' => tk' = { tk with phase := .translated, extents := merged, done := [], waits := [] }) ∧
        (x.waits ≠ [] → ∃ s', exec (.taskTranslate t) s = .next s' ∧
          s' = { s with tasks := s'.tasks, outbox := s.outbox ++ x.waits.map fun e => .atsRequest tk.vf e.va (decide (e.perm ≠ 0)) } ∧
          TaskStep s s' t tk fun tk' => tk' = { tk with phase := .translating, done := x.done, waits := x.waits, extents := [] }))))) ∧
  (∀ s t va pa r w tk e, s.task? t = some tk → tk.waitsAt va.toNat 0 = some e →
    (r = true → (w = true ∨ e.perm = 0) → (∃ x ∈ tk.waits, x ≠ e) → TaskEvent (.atsTranslationCompletion t va pa r w) s t tk fun tk' =>
      tk' = { tk with
        waits := tk.waits.filter fun x => decide (x ≠ e)
        done := tk.done ++ [{ e with pa := BitVec.ofNat 64 (pa.toNat / 4096 * 4096 + e.va % 4096) }] }) ∧
    ((r = false ∨ w = false ∧ e.perm ≠ 0) → s.pages.length < 1024 → (s.tasks.filter fun u => decide (u.uid = t)) = [tk] →
      (∀ u ∈ s.tasks, ∀ x ∈ u.waits, x.key ≠ 2) → ∃ s', exec (.atsTranslationCompletion t va pa r w) s = .next s' ∧
      s' = { s with tasks := s'.tasks, pages := s.pages ++ [(t, e.va / 4096)]
                    outbox := s.outbox ++ [.pageRequest tk.vf e.va (decide (e.perm ≠ 0))] } ∧
      TaskStep s s' t tk fun tk' => tk' = { tk with waits := tk.waits.map fun x => if x = e then { e with key := 1 } else x }) ∧
    ((r = false ∨ w = false ∧ e.perm ≠ 0) → 1024 ≤ s.pages.length → TaskEvent (.atsTranslationCompletion t va pa r w) s t tk fun tk' =>
      tk' = { tk with waits := tk.waits.map fun x => if x = e then { e with key := 2 } else x })) ∧
  (∀ s t va code, s.task? t = none → exec (.prgResponse t va code) s = .next { s with pages := s.pages.erase (t, va.toNat / 4096) }) ∧
  ∀ s t va code tk e, s.task? t = some tk → tk.waitsAt va.toNat 1 = some e →
    (code ≠ 0 → ∃ s', exec (.prgResponse t va code) s = .next s' ∧ s' = { s with tasks := s'.tasks, pages := s.pages.erase (t, va.toNat / 4096) } ∧
      TaskStep s s' t tk fun tk' => EndsWith tk tk' 0x24) ∧
    (code = 0 → ∃ s', exec (.prgResponse t va code) s = .next s' ∧
      s' = { s with tasks := s'.tasks, pages := s.pages.erase (t, va.toNat / 4096), outbox := s.outbox ++ [.atsRequest tk.vf e.va (decide (e.perm ≠ 0))] } ∧
      TaskStep s s' t tk fun tk' => tk' = { tk with waits := tk.waits.map fun x => if x = e then { e with key := 0 } else x })

/-- Placement, restoring and budgets (R87, R90, R240, R302, R310 to R312, R345): the task that the rules choose starts on the lowest free
span with fresh coaches and no line of the CU's L1; every waiting task of a cooperative launch starts at once; a saved task comes back on its
new span, or ends with HW_ERROR when its tag does not verify; a budget period gives every partition the credit of its budget without its children's; the end of a slice
only marks tasks for pre-emption, those that must go (R312). That a task's scratchpad starts with nothing written is the model's choice (log 5:
R90 gives no contents), and so is what is chosen before the first budget period (log 56). -/
def Obligations.PlacementEvents : Prop :=
  (∀ s ret c p l cu o b, s.choose ret = some c → c.task.saved = false → c.task.coop s = false → s.part? c.task.part = some p →
    s.launch? c.task.launch = some l → s.spot p c.task.shape c.task.ret = some (cu, o, b) → s.task? c.task.uid = some c.task →
    ∃ s' tk', exec (.taskPlace ret) s = .next s' ∧ s'.task? c.task.uid = some tk' ∧ (∀ u, u ≠ c.task.uid → s'.task? u = s.task? u) ∧
      tk'.phase = .running ∧ tk'.ret = c.task.ret ∧ tk'.cu = cu ∧ tk'.octet0 = o ∧ tk'.barrier0 = b ∧ tk'.span = c.task.shape.span ∧
      tk'.coaches = ((List.range c.task.shape.coaches).map fun i => newCoach l c.task.ret cu (o + c.task.shape.octetOf i) i s.clock) ∧
      tk'.scratch = [] ∧ tk'.barriers = [] ∧ tk'.tags = [] ∧ (∀ x ∈ s'.lines, ¬ (x.ret = c.task.ret ∧ x.cu = cu)) ∧
      (s'.ret ret).served.find? (fun x => x.1 = c.prio) = some (c.prio, c.part)) ∧
  (∀ s l x t c s1, s.launch? l = some x → (s.tasksOf x).head? = some t → s.choose t.ret = some c → c.task.launch = l → x.coop = true →
    s.placeCoop x = some s1 → (∀ u ∈ s.tasksOf x, u.saved = false) →
    ∃ s', exec (.coopLaunchPlace l) s = .next s' ∧ s'.tasks = s1.tasks ∧
      ∀ u ∈ (s.tasksOf x).filter Task.waiting, ∃ tk', s'.task? u.uid = some tk' ∧ tk'.phase = .running) ∧
  (∀ s c p l cu o b, s.choose c.task.ret = some c → c.task.saved = true → c.task.coop s = false → s.part? c.task.part = some p →
    s.launch? c.task.launch = some l → s.spot p c.task.shape c.task.ret = some (cu, o, b) → s.task? c.task.uid = some c.task →
    ∃ s' tk', exec (.taskRestore c.task.uid) s = .next s' ∧ s'.task? c.task.uid = some tk' ∧ (∀ u, u ≠ c.task.uid → s'.task? u = s.task? u) ∧
      (Config.saveTagOk c.task.saveNonce = true → tk'.phase = .running ∧ tk'.saved = false ∧ tk'.cu = cu ∧ tk'.octet0 = o ∧
        tk'.coaches = c.task.coaches.map (Coach.move c.task.octet0 o s.clock) ∧ tk'.scratch = c.task.scratch) ∧
      (Config.saveTagOk c.task.saveNonce = false → c.task.fate = none → c.task.phase ≠ .ended → tk'.fate = some (.terminated 0x3F))) ∧
  (∀ s ret, (s.ret ret).periodAt ≤ s.clock → (∃ p ∈ s.parts, p.rets.any (fun x => x.1 == ret) = true) →
    ∃ s', exec (.budgetPeriod ret) s = .next s' ∧ s' = { s with tasks := s'.tasks, rets := s'.rets } ∧
      (s'.ret ret).periodAt = (s.clock / 16000000 + 1) * 16000000 ∧
      (∀ n p, ((s.parts.filter fun p => p.rets.any fun x => x.1 == ret).find? fun p => decide (p.num = n)) = some p →
        (s'.ret ret).creditOf n = ((p.budget - ((s.parts.filter fun q => decide (q.parent = some p.num) &&
          q.rets.any fun x => x.1 == ret).map fun q => q.budget).sum : Nat) : Int) * 4000000) ∧
      ∀ u tk, s.task? u = some tk → ∃ tk', s'.task? u = some tk' ∧ tk' = { tk with mark := tk'.mark } ∧ (tk.mark ≠ none → tk'.mark = tk.mark)) ∧
  ∀ s ret part, (s.ret ret).creditOf part ≤ 0 → (∃ t ∈ s.tasks, t.placed = true ∧ t.ret = ret ∧ t.part = part) →
    ∃ s', exec (.creditExhausted ret part) s = .next s' ∧ s' = { s with tasks := s'.tasks } ∧
      (∀ u tk, s.task? u = some tk → ∃ tk', s'.task? u = some tk' ∧ tk' = { tk with mark := tk'.mark } ∧
        (tk'.mark = tk.mark ∨ tk.mark = none ∧ tk'.mark = some s.clock)) ∧
      ∀ h us u tk, s.heads ret = [h] → s.starved ret h = true → s.roomAfter h.2.2 (s.victims ret h.1) [] = some us → s.task? u = some tk →
        (u ∈ s.mustGo h.2.2 us → tk.phase = .running → ∃ tk', s'.task? u = some tk' ∧ tk'.mark ≠ none) ∧
        (u ∉ s.withMates (s.mustGo h.2.2 us) → s'.task? u = some tk)

/-! ### Invalidation, pre-emption, errors -/

/-- Invalidations and pre-emption (R333 to R336, R342 to R346): a restartable task that a host invalidation hits drops its work, a pinned
one ends with WINDOW_INVALIDATED, a task that is not hit stays as it is; on completion the answer is sent, the command moves on, and
aborted tasks return to their queue; a marked task that stands ready is saved, where the save pool has room, and returns to its queue, whole after 2 ms, with
PREEMPT_FORCED after two more, but a task that has reached TEND completes instead (R320). That steps 1 to 3 of R335 take place at once, that
an unplaced task translates again, that cause 1 hits host extents only and that an absent function is answered at once are the model's
readings (log 54); what the save pool holds of a save, and the room it needs, are the model's choice (log 64). -/
def Obligations.InvalidationAndPreemption : Prop :=
  (∀ s vf va len, s.vf? vf = none → exec (.atsInvalidationRequest vf va len) s = .next { s with outbox := s.outbox ++ [.invalDone vf] }) ∧
  (∀ s vf va len v, s.vf? vf = some v →
    let x : Inval := { id := s.root.nextInval + 1, cause := 1, vf, lo := va, hi := va + len, applied := true }
    ∃ s', exec (.atsInvalidationRequest vf va len) s = .next s' ∧
      StorageOnly { s with root := { s.root with nextInval := s.root.nextInval + 1, invals := s.root.invals ++ [x] } } s' ∧
      ∀ u tk, s.task? u = some tk → ∃ tk', s'.task? u = some tk' ∧ (s.hitBy x tk = none → tk' = tk) ∧
        ∀ e, s.hitBy x tk = some e → tk.beyondInval = false → tk.phase ≠ .aborting → x.id ∈ tk'.hits ∧
          (tk.pinned = false → tk.placed = true → tk'.phase = .aborting ∧ tk'.coaches = [] ∧ tk'.extents = [] ∧ tk'.scratch = [] ∧ tk'.cause = 1) ∧
          (tk.pinned = true → tk.placed = true → tk'.fate = some (.terminated 0x20)) ∧
          (tk.placed = false → tk.saved = false → tk'.phase = .queued ∧ tk'.extents = [])) ∧
  (∀ s i x, (s.root.invals.find? fun x => decide (x.id = i)) = some x → s.invalDone x = true → x.move = none →
    ∃ s', exec (.invalidationComplete i) s = .next s' ∧ (∀ y ∈ s'.root.invals, y.id ≠ i) ∧
      (x.cause = 1 → s'.outbox = s.outbox ++ [.invalDone x.vf]) ∧
      (x.cause ≠ 1 → x.seq ≠ 0 → (∀ y ∈ s.root.invals, y.id ≠ i → y.seq ≠ x.seq) →
        s'.root.journal = s.root.journal.map fun e => if e.seq = x.seq then { e with state := 2, code := 0 } else e) ∧
      (x.cause ≠ 1 → (∃ y ∈ s.root.invals, y.id ≠ i ∧ y.seq = x.seq) → s'.root.journal = s.root.journal) ∧
      ∀ u tk, s.task? u = some tk → tk.phase = .aborting → (∀ h ∈ tk.hits, h = i) → tk.fate = none →
        ∃ tk', s'.task? u = some tk' ∧ tk'.phase = .queued ∧ tk'.front = true ∧ 1 ≤ tk'.retries) ∧
  (∀ s t tk, s.task? t = some tk → s.issue = none → tk.saveReady = true → tk.coop s = false → (s.saveMates tk).isSome = true → ∃ s' tk', exec (.preemptSave t) s = .next s' ∧
    StorageOnly s s' ∧ s'.task? t = some tk' ∧ tk'.phase = .queued ∧ tk'.front = true ∧ tk'.saved = true ∧ tk'.mark = none ∧
    (∀ u x, u ≠ t → s.task? u = some x → ∃ y, s'.task? u = some y ∧
      (y = x ∨ x.waiting = true ∧ y = { x with phase := .queued, extents := if x.saved then x.allExtents else [], done := [], waits := [] })) ∧
    (∀ a ∈ tk'.savedIn, a ∈ s.poolFree tk) ∧
    (tk.saveStart ≠ none → ∀ d x, tk.coach? d = some x → ∃ y, tk'.coach? d = some y ∧
      (∀ r l, r < 128 → l < 64 → y.vget r l = x.vget r l) ∧ (∀ r, r < 64 → y.gget r = x.gget r) ∧ y.p = x.p ∧ y.q = x.q ∧ y.frags = x.frags)) ∧
  (∀ s t tk m, s.task? t = some tk → tk.phase = .running → tk.saveStart = none → tk.stopSince = none → tk.mark = some m →
    m + 3200000 ≤ s.clock → tk.coop s = false → tk.atLive = false → tk.tend = false →
    TaskEvent (.preemptTimeout t) s t tk fun tk' => tk' = { tk with saveStart := some s.clock }) ∧
  (∀ s t tk, s.task? t = some tk → tk.tend = true → exec (.preemptTimeout t) s = .next s ∧ exec (.preemptForced t) s = .next s) ∧
  ∀ s t tk m, s.task? t = some tk → tk.phase = .running → tk.drained = false → tk.tend = false → tk.stopSince = none → tk.saveStart = some m →
    m + 3200000 ≤ s.clock → tk.fate = none → TaskEvent (.preemptForced t) s t tk fun tk' => EndsWith tk tk' 0x38

/-- Hardware errors and automatic migration (R34, R191, R203, R339 to R341, R425, R427): a trip or an uncorrectable state error fences a live
reticle, which loses its caches and its tasks; a fenced reticle's copy of the journal goes to the lowest live one without a copy; an
uncorrectable error drops a clean copy and retires a frame otherwise, whose place the next spare of its reticle takes, or fences the reticle
where the root is fenced (R428); fill counts give candidates and start afresh, and a settled frame may
move again after its time. That the fence adds 1 to the route-table version even while the root is fenced is the model's choice, log 77 (R34
against R390 and R428). -/
def Obligations.ErrorsAndMigration : Prop :=
  (∀ s ret i, (i = .temperatureTrip ret ∨ i = .uncorrectableStateError ret) →
    (s.live ret = false → exec i s = .next s) ∧
    (s.live ret = true → ∃ s', exec i s = .next s' ∧ s'.live ret = false ∧ s'.port.version = s.port.version + 1 ∧
      (s.launches = [] → s.graphs = [] → (∀ l ∈ s'.lines, l.ret ≠ ret) ∧ ∀ x ∈ s'.sectors, x.ret ≠ ret) ∧
      ∀ u tk, s.task? u = some tk → tk.ret = ret → tk.placed = true → tk.fate = none → (∀ l ∈ s.launches, l.id = tk.launch → l.spanned = false) →
        ∃ tk', s'.task? u = some tk' ∧ tk'.fate = some (.terminated 0x3F))) ∧
  (∀ s ret n, s.root.fenced = false → s.live ret = false → (ret ∈ s.root.journalAt ∨ ret ∈ s.root.workAt) →
    ((List.range 49).find? fun r => s.live r && !s.root.journalAt.contains r && !s.root.workAt.contains r) = some n →
    ∃ s', exec (.journalRecopy ret) s = .next s' ∧ s' = { s with root := s'.root } ∧
      s'.root.journalAt = (s.root.journalAt.map fun r => if r = ret then n else r) ∧
      s'.root.workAt = (s.root.workAt.map fun r => if r = ret then n else r) ∧
      (s.root.journal.length < 65536 → s'.root.journal = s.root.journal ++
        [{ seq := s.root.nextSeq, handle := 0, kind := 0x81, state := 2, origin := 2 }])) ∧
  (∀ s ret cu seg l, s.rowLine? ret cu seg = some l → l.dirty = 0 →
    exec (.eccUncorrectable (.l1 ret cu seg)) s = .next { s with lines := s.lines.filter fun x => !x.isRow ret cu seg }) ∧
  (∀ s ret cu base pc j, exec (.eccUncorrectable (.l1Column ret cu base pc j)) s = .next { s with lines := s.lines.filter fun l =>
    !(l.column && l.ret == ret && l.cu == cu && l.base == base && l.pc == pc && l.j == j) }) ∧
  (∀ s ret seg x i, s.resident? ret seg = some (x, i) → x.dirty.getLsbD i = false →
    ∃ sec, exec (.eccUncorrectable (.llc ret seg)) s = .next { s with sectors := sec } ∧ sec.length = s.sectors.length ∧
      ∀ y ∈ sec, y.ret = ret → y.base = x.base → y.pc = x.pc → i < 32 → y.valid.getLsbD i = false) ∧
  (∀ s pa, s.root.fenced = false → pa / 65536 * 65536 ∉ s.root.retired → s.homePart (pa / 2 ^ 42) = none →
    ∃ s', exec (.eccUncorrectable (.dram pa)) s = .next s' ∧ s'.root = { s.root with retired := s.root.retired ++ [pa / 65536 * 65536] } ∧
      s' = { s with root := s'.root, lines := s'.lines, sectors := s'.sectors }) ∧
  (∀ s pa, s.root.fenced = true → exec (.eccUncorrectable (.dram pa)) s = exec (.uncorrectableStateError (pa / 2 ^ 42)) s) ∧
  (∀ s pa p v f, s.root.fenced = false → pa / 65536 * 65536 ∉ s.root.retired → s.homePart (pa / 2 ^ 42) = some p → s.vf? p.vf = some v →
    v.frameOf (pa / 65536 * 65536) = some f → (v.overrides.filter fun o => decide (o.frame ≠ f)).length < 256 →
    tget 0 s.root.spares (pa / 2 ^ 42) < 20972 → (∀ x ∈ s.root.spareOf, x.1 ≠ pa / 65536 * 65536) →
    ∃ s' v', exec (.eccUncorrectable (.dram pa)) s = .next s' ∧ pa / 65536 * 65536 ∈ s'.root.retired ∧ s'.vf? p.vf = some v' ∧
      ∃ o ∈ v'.overrides, o.frame = f ∧ o.key = p.key ∧
        o.pa = BitVec.ofNat 64 (0xFFFF * 2 ^ 48 + devAddr (pa / 2 ^ 42) (offAssignable + 65536 * tget 0 s.root.spares (pa / 2 ^ 42)))) ∧
  (∀ (s : State) a ia (t : Task) e, (t.placed || t.saved) = true → t.fate = none → t.phase ≠ .ended →
    (t.allExtents.find? fun e => !e.host && s.isHere (field e.pa 48 16) && Machine.meets (field e.pa 0 48) e.len a 65536) = some e →
    (s.retireTask a ia t).fate = some (.terminated 0x21)) ∧
  (∀ s t tk, s.task? t = some tk → tk.placed = true → tk.fate = none → TaskEvent (.scratchEccUncorrectable t) s t tk fun tk' => EndsWith tk tk' 0x3F) ∧
  (∀ s ret, (s.ret ret).fillAt ≤ s.clock → ∃ s' cands, exec (.fillCountPeriod ret) s = .next s' ∧ s' = { s with rets := s'.rets, root := s'.root } ∧
    (s'.ret ret).fillAt = (s.clock / 16000000 + 1) * 16000000 ∧ s'.root = { s.root with fills := s'.root.fills, cands := s.root.cands ++ cands } ∧
    (∀ c ∈ cands, ∃ p v f, s.homePart ret = some p ∧ s.vf? p.vf = some v ∧ c.1 = v.num ∧ v.frameOf (f * 65536) = some c.2.1 ∧ c.2.2 ≠ ret ∧
      (∀ r m, (r, m) ∈ p.rets → r ≠ ret → tget 0 s.root.fills (f * 64 + r) ≤ tget 0 s.root.fills (f * 64 + c.2.2)) ∧
      4096 ≤ tget 0 s.root.fills (f * 64 + c.2.2) ∧ 4 * tget 0 s.root.fills (f * 64 + ret) ≤ tget 0 s.root.fills (f * 64 + c.2.2)) ∧
    ∀ x ∈ s'.root.fills, x.1 / 64 * 65536 / 2 ^ 42 ≠ ret) ∧
  (∀ s vf frame c v a key s1, (s.root.cands.find? fun c => decide (c.1 = vf) && decide (c.2.1 = frame)) = some c → s.vf? vf = some v →
    s.frameAt v frame = some (a, key) → s.root.fenced = false → s.frameHeld a = false → s.mayMove vf frame = true →
    ({ s with root := { s.root with cands := s.root.cands.filter fun x => decide (x ≠ c) } } : State).moveFrame vf frame c.2.2 = some s1 →
    ∃ s', exec (.frameMigrate vf frame) s = .next s' ∧ s'.vfs = s1.vfs ∧ s'.dram = s1.dram ∧ c ∉ s'.root.cands ∧
      ∃ m ∈ s'.root.moved, m.vf = vf ∧ m.frame = frame ∧ s.clock ∈ m.times) ∧
  ∀ s vf frame m, (s.root.moved.find? fun m => decide (m.vf = vf) && decide (m.frame = frame)) = some m → m.settleTill ≠ 0 → m.settleTill ≤ s.clock →
    ∃ s', exec (.frameSettleEnd vf frame) s = .next s' ∧ s' = { s with root := { s.root with moved := s'.root.moved } } ∧
      s'.movedOf vf frame = { m with times := [], settleTill := 0 } ∧
      ∀ v f, (v ≠ vf ∨ f ≠ frame) → s'.movedOf v f = s.movedOf v f

/-! ### Links (R382 to R400) -/

/-- The link layer (R382 to R389, R393): a corrupted flit in sequence is discarded and answered by a NAK with the number expected; a
flit in sequence is accepted and the number expected moves on: one from the mesh to the switch, one from an optical link to its target or
the injection queue, unless that queue is full; one out of sequence is discarded; LACK frees what came before it; a NAK has every flit
from its number on sent again, its fourth retrains or retires the link; a flit that leaves is numbered, sealed and kept; the switch sends
nearer or deflects; retraining ends with both directions resending. Payload layouts are log 40's, the queue's limit is R385's. Model's choices
of log 58: a discarded flit of the number expected counts as a discarded resend only after its NAK, the third of them retrains, and each is
answered by a NAK again, where R388 speaks of one for each expected number; and RETRAIN_COMPLETE at an optical end that is not retraining
tells of a retrain that the far end began. -/
def Obligations.LinkEvents : Prop :=
  (∀ s site port ch bits, (s.portUp site port = false ∨ s.switchOn site = false) → exec (.flitReceive site port ch bits) s = .next s) ∧
  (∀ s site port ch bits, let f := flitOf (ch % 8) bits
    s.portUp site port = true → s.switchOn site = true →
    (flitBad bits = true ∨ (isOptical port = true ∧ f.kind ≠ 15 ∧ (s.link site port).auth f = none)) →
    let l := s.link site port
    let nak := controlFlit l.expect true
    (s.accepts site port = false → Completes (.flitReceive site port ch bits) s fun s' =>
      s' = { s with links := s'.links } ∧ s'.link site port = { l with owed := true }) ∧
    (s.accepts site port = true → f.kind ≠ 15 → f.lseq = l.expect →
      ((l.nakSent = false ∨ l.discards < 2) → Completes (.flitReceive site port ch bits) s fun s' =>
        LinksOnly s s' ∧ Sends s s' [.flit site port (s.wireOf site port nak) nak.word] ∧ (s'.link site port).expect = l.expect ∧
        (s'.link site port).discards = l.discards + (if l.nakSent = true then 1 else 0) ∧ (s'.link site port).nakSent = true) ∧
      (l.nakSent = true → 2 ≤ l.discards → (l.level < 6 ∨ s.root.fenced = true) → Completes (.flitReceive site port ch bits) s fun s' =>
        (s'.link site port).retraining = true ∧ (s'.link site port).level = min (l.level + 1) 6) ∧
      (l.nakSent = true → 2 ≤ l.discards → 6 ≤ l.level → s.root.fenced = false → Completes (.flitReceive site port ch bits) s fun s' =>
        (s'.link site port).retired = true))) ∧
  (∀ s site port ch bits, Sound s site port bits → let f := flitOf (ch % 8) bits
    f.kind ≠ 15 → f.lseq = (s.link site port).expect → Completes (.flitReceive site port ch bits) s fun s' =>
      s' = { s with links := s'.links, counters := s'.counters, switches := s'.switches, outbox := s'.outbox } ∧ Sends s s' [] ∧
      (s'.link site port).expect = ((s.link site port).expect + 1) % 1024 ∧ (s'.link site port).nakSent = false ∧
      (s'.link site port).discards = 0 ∧
      ((f.kind ≠ 11 ∨ f.srcRet = 24) → (s'.switch site).arrived =
        (s.switch site).arrived ++ [(s.clock, { f with via := s.viaOf site port f })]) ∧
      (f.kind = 11 → f.srcRet ≠ 24 → s'.switches = s.switches)) ∧
  (∀ s site port ch bits bs, s.portUp site port = true → s.switchOn site = true → isOptical port = true → flitBad bits = false →
    let f := flitOf (ch % 8) bits
    let g : Flit := { f with payload := bs, mac := 0 }
    f.nak = false → f.kind ≠ 15 → f.lseq = (s.link site port).expect → (s.link site port).auth f = some bs →
    (s.optRoom site = true → (f.kind ≠ 11 ∨ f.srcRet = 24) → Completes (.flitReceive site port ch bits) s fun s' =>
      (s'.link site port).expect = ((s.link site port).expect + 1) % 1024 ∧ (s'.link site port).nakSent = false ∧
      (∀ r, flitRequest g = some r → s.isHere (field f.dest 48 16) = true → field f.dest 42 6 = site →
        s' = { s with links := s'.links, counters := s'.counters, outbox := s'.outbox
                      port := { s.port with applied := s'.port.applied }, inputs := s'.inputs } ∧
        ((s.link site port).mayTx = true → Sends s s' []) ∧
        s'.inputs = { dt := 0, ev := .remoteRequestArrive site r } :: s.inputs) ∧
      ((s.isHere (field f.dest 48 16) = false ∨ field f.dest 42 6 ≠ site) → ((s.link site port).mayTx = true → Sends s s' []) ∧
        s' = { s with links := s'.links, counters := s'.counters, outbox := s'.outbox, port := { s.port with applied := s'.port.applied }
                      switches := s'.switches } ∧ (s'.switch site).optical = (s.switch site).optical ++ [g])) ∧
    (s.optRoom site = false → Completes (.flitReceive site port ch bits) s fun s' =>
      s' = { s with links := s'.links, counters := s'.counters, outbox := s'.outbox, port := { s.port with applied := s'.port.applied } } ∧
      Sends s s' [] ∧ (s'.link site port).expect = (s.link site port).expect ∧ (s'.link site port).owed = true)) ∧
  (∀ s site port ch bits, Sound s site port bits → let f := flitOf (ch % 8) bits
    f.kind ≠ 15 → f.lseq ≠ (s.link site port).expect → Completes (.flitReceive site port ch bits) s fun s' =>
      LinksOnly s s' ∧ (s'.link site port).expect = (s.link site port).expect ∧
      ((s.link site port).nakSent = false → (s.link site port).owed = false → (s'.link site port).nakSent = true ∧
        Sends s s' [.flit site port 0 (controlFlit (s.link site port).expect true).word])) ∧
  (∀ s site port ch bits, Sound s site port bits → let f := flitOf (ch % 8) bits
    f.kind = 15 → Completes (.flitReceive site port ch bits) s fun s' =>
      LinksOnly s s' ∧ (s'.link site port).expect = (s.link site port).expect ∧
      Sends s s' [] ∧ ((s.link site port).replay = [] → (s'.link site port).replay = []) ∧
      ∀ g rest, (s.link site port).replay = g :: rest → let k := (f.lack + 1024 - g.lseq) % 1024
        (s'.link site port).replay = if k ≤ rest.length + 1 then (g :: rest).drop k else g :: rest) ∧
  (∀ s site port lack, s.portUp site port = true →
    let l := s.link site port
    let n := if l.nakAt = some lack then l.resends else 0
    (n < 3 → Completes (.nakReceive site port lack) s fun s' => LinksOnly s s' ∧ (s'.link site port).replay = l.replay ∧
      (s'.link site port).nakAt = some lack ∧ (s'.link site port).resends = n + 1 ∧
      Sends s s' ((l.replay.drop (l.before lack)).map fun g => .flit site port (s.wireOf site port g) g.word)) ∧
    (3 ≤ n → (l.level < 6 ∨ s.root.fenced = true) → Completes (.nakReceive site port lack) s fun s' => LinksOnly s s' ∧
      (s'.link site port).retraining = true ∧ (s'.link site port).level = min (l.level + 1) 6) ∧
    (3 ≤ n → 6 ≤ l.level → s.root.fenced = false → Completes (.nakReceive site port lack) s fun s' =>
      (s'.link site port).retired = true ∧ s'.linkUp site port = false ∧ s'.port.version = s.port.version + 1 ∧
      (s'.link site port).replay = [] ∧ (s'.link site port).queue = [] ∧
      ∃ t : State, t.port = s'.port ∧
        (s'.switch site).optical = (s.switch site).optical ++ (l.clear ++ l.queue).map fun f => t.planned site f)) ∧
  (∀ (s : State) site port f, ∃ g, Sends s (s.sendOn site port f) [.flit site port (s.wireOf site port g) g.word] ∧
    g = (s.link site port).seal { f with lseq := (s.link site port).lseq, lack := (s.link site port).expect, nak := false } ∧
    g.ch = f.ch ∧ g.lseq = (s.link site port).lseq ∧ g.lack = (s.link site port).expect ∧ g.nak = false ∧
    ((s.sendOn site port f).link site port).replay = (s.link site port).replay ++ [g] ∧
    ((s.sendOn site port f).link site port).lseq = ((s.link site port).lseq + 1) % 1024) ∧
  (∀ (s : State) yields site t f, t ≠ site →
    (∀ n, (s.freePorts yields site f.ch).find? (s.nearer site t) = some n → s.tryPort yields site t f = some (s.sendMesh site n.1 f) ∧
      ∃ d d', n ∈ meshNeighbours site ∧ s.meshDist site t = some d ∧ s.meshDist n.2 t = some d' ∧ d' < d) ∧
    (∀ n ns, (s.freePorts yields site f.ch).find? (s.nearer site t) = none → s.freePorts yields site f.ch = n :: ns →
      s.tryPort yields site t f = if f.age < 255 then some (s.deflect site n.1 f) else none)) ∧
  (∀ s site ch, s.waitsLong (s.switch site) ch = true → ch ∉ (s.switch site).drains → Completes (.drainRaise site ch) s fun s' =>
    s' = { s with switches := s'.switches } ∧ (s'.switch site).drains = (s.switch site).drains ++ [ch]) ∧
  (∀ s site port, (s.link site port).retraining = true → Completes (.retrainComplete site port) s fun s' =>
    LinksOnly { s with port := { s.port with probeDue := s'.port.probeDue } } s' ∧ (∀ k ∈ fibresOf site port, k ∈ s'.port.probeDue) ∧
    ∀ e ∈ linkEnds site port, (s'.link e.1 e.2).retraining = false ∧
      ∀ g ∈ (s.link e.1 e.2).replay, .flit e.1 e.2 (s.wireOf e.1 e.2 g) g.word ∈ s'.outbox) ∧
  (∀ s site port, isOptical port = true → (s.link site port).retraining = false → s.optUp site port = true →
    ((s.link site port).level < 6 ∨ s.root.fenced = true → Completes (.retrainComplete site port) s fun s' =>
      (s'.link site port).retraining = false ∧ (s'.link site port).level = min ((s.link site port).level + 1) 6 ∧
      (∀ k ∈ fibresOf site port, k ∈ s'.port.probeDue) ∧
      ∀ g ∈ (s.link site port).replay, .flit site port (s.wireOf site port g) g.word ∈ s'.outbox) ∧
    (6 ≤ (s.link site port).level → s.root.fenced = false → Completes (.retrainComplete site port) s fun s' =>
      (s'.link site port).retired = true)) ∧
  ∀ s site port, 0 < (s.link site port).level → (s.link site port).levelAt + 1440000000000 ≤ s.clock →
    Completes (.retrainDecay site port) s fun s' => s' = { s with links := s'.links } ∧
      ∀ e ∈ linkEnds site port, (s'.link e.1 e.2).level = (s.link e.1 e.2).level - 1 ∧ (s'.link e.1 e.2).levelAt = s.clock

/-- Lasers, probes, link keys and Ultra Ethernet (R360, R394 to R398), and messages between roots (R382, R416; their layout is the model's,
log 41): a failed laser narrows every lane group with a wavelength on its fibre; a rotation is asked for at 2^34 flits and no flit leaves
after 2^36; an installed key goes to the idle slot and an outgoing direction changes phase; a packet is applied once, its gap reported, and
what is missing or late sent again. Keys of a scale-out pair follow the same rules; its packets wait for a key and for the window of
their class, travel sealed under the key of their phase and are discarded where they do not verify (logs 71, 79). A probe is due in each
second and after a retrain; what it finds is free (log 9). -/
def Obligations.LasersKeysAndTransport : Prop :=
  (∀ s site fibre, s.live site = true → fibre < 8 → site * 8 + fibre ∉ s.port.lasers → Completes (.laserFailure site fibre) s fun s' =>
    s'.port.lasers = s.port.lasers ++ [site * 8 + fibre] ∧
    ∀ g, g < 16 →
      let l := s.link site (optPort g)
      let n := groupOnFibre site g fibre
      let l' := s'.link site (optPort g)
      0 < n → l'.lost = l.lost + n ∧ (l.retired = false → (4 ≤ l.lost + n → s.root.fenced = false → l'.retired = true) ∧
        (4 ≤ l.lost + n → s.root.fenced = true → l'.dead = true) ∧
        (l.lost + n < 4 → (l.level < 6 ∨ s.root.fenced = true) → l.dead = false → l'.retraining = true))) ∧
  (∀ s site fibre dir event dist loss, s.live site = true → fibre < 8 → event < 4 →
    Completes (.reflectometryProbe site fibre dir event dist loss) s fun s' => ∃ x : Dword,
      s' = { s with
        outbox := s.outbox ++ [.probe site fibre x]
        port := { s.port with
          probes := s'.port.probes, probeDue := s.port.probeDue.erase (site * 16 + fibre * 2 + (if dir then 1 else 0)) } } ∧
      tget 0 s'.port.probes (site * 16 + fibre * 2 + (if dir then 1 else 0)) = x ∧
      field x 0 3 = fibre ∧ x.getLsbD 3 = dir ∧ field x 4 2 = (if 20000 < dist then 0 else event) ∧
      ((event = 1 ∨ event = 2) → dist ≤ 20000 → field x 6 15 = dist ∧ field x 21 8 = min loss 255) ∧
      ((event = 0 ∨ event = 3 ∨ 20000 < dist) → field x 6 15 = 0 ∧ field x 21 8 = 0) ∧
      field x 32 32 = s.clock / 1600000000 % 2 ^ 32) ∧
  (∀ (s : State) key, key < 784 → s.live (key / 16) = true →
    (key ∈ s.port.probeDue ∨ field (tget 0 s.port.probes key) 32 32 < s.clock / 1600000000) →
    ∃ event dist loss, .reflectometryProbe (key / 16) (key / 2 % 8) (key % 2 == 1) event dist loss ∈ s.probes) ∧
  (∀ s site port, (s.keyHolder site port).mayRotate = true → s.root.fenced = false →
    (2 ^ 34 ≤ (s.keyHolder site port).count → Completes (.keyRotationRequest site port) s fun s' =>
      s' = { s with links := s'.links, uet := s'.uet } ∧ s'.keyHolder site port = { s.keyHolder site port with rotating := true }) ∧
    (2 ^ 36 ≤ (s.keyHolder site port).count → Completes (.flitCountLimit site port) s fun s' =>
      s' = { s with links := s'.links, uet := s'.uet } ∧ s'.keyHolder site port = { s.keyHolder site port with rotating := true })) ∧
  (∀ l : Link, isOptical l.port = true → 2 ^ 36 ≤ l.count → l.mayTx = false) ∧
  (∀ s site port incoming, isOptical port = true → port < 20 → s.root.fenced = false → (s.link site port).retired = false →
    (s.link site port).retraining = false → s.linkUp site port = true →
    let l := s.link site port
    let k := some (s.root.keyCount + 1, s.root.keyCount + 1)
    Completes (.keyInstall site port incoming) s fun s' =>
      s' = { s with
        links := s'.links, counters := s'.counters, outbox := s'.outbox, root := { s.root with keyCount := s.root.keyCount + 1 } } ∧
      Sends s s' [] ∧
      (incoming = true → let l' := s'.link site port
        l' = { l with rkey0 := l'.rkey0, rkey1 := l'.rkey1, rcount := l'.rcount } ∧
        (l.rxKey l.rphase = none → l'.rxKey l.rphase = k ∧ l'.rxKey (!l.rphase) = l.rxKey (!l.rphase) ∧ l'.rcount = 0) ∧
        (l.rxKey l.rphase ≠ none → l'.rxKey l.rphase = l.rxKey l.rphase ∧ l'.rcount = l.rcount ∧
          l'.rxKey (!l.rphase) = (if l.rxKey (!l.rphase) = none then k else l.rxKey (!l.rphase)))) ∧
      (incoming = false → l.txKey l.phase = none → (s'.link site port).txKey l.phase = k ∧ (s'.link site port).phase = l.phase ∧
        (s'.link site port).count = 0) ∧
      (incoming = false → l.txKey l.phase ≠ none → l.txKey (!l.phase) = none → (s'.link site port).phase = !l.phase ∧
        (s'.link site port).count = 0 ∧ (s'.link site port).txKey (!l.phase) = k ∧
        ((∀ f ∈ l.replay, f.kp = !l.phase) → (s'.link site port).txKey l.phase = none) ∧
        ((∃ f ∈ l.replay, f.kp = l.phase) → (s'.link site port).txKey l.phase = l.txKey l.phase))) ∧
  (∀ s ret peer incoming, s.root.fenced = false → s.optUp ret (optPort 15) = true →
    let u := s.uet? ret peer
    let k := some (s.root.keyCount + 1, s.root.keyCount + 1)
    Completes (.keyInstall ret (20 + peer) incoming) s fun s' =>
      let u' := s'.uet? ret peer
      s' = { s with uet := s'.uet, links := s'.links, counters := s'.counters, outbox := s'.outbox
                    root := { s.root with keyCount := s.root.keyCount + 1 } } ∧
      (incoming = true → s'.outbox = s.outbox ∧ u'.sent = u.sent ∧ u'.keys.rphase = u.keys.rphase ∧
        (u.keys.rxKey u.keys.rphase = none → u'.keys.rxKey u.keys.rphase = k ∧ u'.keys.rxKey (!u.keys.rphase) = u.keys.rxKey (!u.keys.rphase)) ∧
        (u.keys.rxKey u.keys.rphase ≠ none → u'.keys.rxKey u.keys.rphase = u.keys.rxKey u.keys.rphase ∧
          u'.keys.rxKey (!u.keys.rphase) = (if u.keys.rxKey (!u.keys.rphase) = none then k else u.keys.rxKey (!u.keys.rphase)))) ∧
      (incoming = false → u.keys.txKey u.keys.phase = none → u'.keys.phase = u.keys.phase ∧ u'.keys.txKey u.keys.phase = k ∧
        (u.keys.replay = [] → (∀ p ∈ u.sent, p.unsent = true) → ∀ p, u.sent.head? = some p →
          .uet ret peer p.psn (u'.keys.sealPacket p.psn p.flit).word ∈ s'.outbox)) ∧
      (incoming = false → u.keys.txKey u.keys.phase ≠ none → u.keys.txKey (!u.keys.phase) = none → u'.keys.phase = !u.keys.phase ∧
        u'.keys.txKey (!u.keys.phase) = k ∧
        ((∀ p ∈ u.sent, p.unsent = true ∨ p.kp = !u.keys.phase) → u'.keys.txKey u.keys.phase = none) ∧
        ((∃ p ∈ u.sent, p.unsent = false ∧ p.kp = u.keys.phase) → u'.keys.txKey u.keys.phase = u.keys.txKey u.keys.phase))) ∧
  (∀ (s : State) ret f, let peer := field f.dest 48 16 * 64 + ret
    let u := s.uet? ret peer
    let s' := s.sendUet ret f
    s' = { s with uet := s'.uet, links := s'.links, counters := s'.counters, outbox := s'.outbox } ∧
    (u.keys.mayTx = false → s'.outbox = s.outbox ∧
      ∃ p, (s'.uet? ret peer).sent = u.sent ++ [p] ∧ p.flit = f ∧ p.unsent = true ∧ p.psn = u.next) ∧
    (u.keys.mayTx = true → (∀ p ∈ u.sent, p.unsent = false ∧ p.flit.tc ≠ f.tc) →
      Sends s s' [.uet ret peer u.next (u.keys.sealPacket u.next f).word])) ∧
  (∀ s ret peer psn f, s.optUp ret (optPort 15) = true → s.optRoom ret = true → (s.uet? ret peer).keys.openPacket psn f = none →
    Completes (.uetPacketReceive ret peer psn f) s fun s' => LinksOnly s s' ∧ Sends s s' []) ∧
  (∀ s ret peer psn f bs, (s.uet? ret peer).keys.openPacket psn f = some bs → s.optUp ret (optPort 15) = true → s.optRoom ret = true →
    let missing := (List.range psn).filter fun n => !(s.uet? ret peer).got.contains n
    (psn ∉ (s.uet? ret peer).got → ∀ r, flitRequest { f with payload := bs, mac := 0, via := none } = some r → s.isHere (field f.dest 48 16) = true → field f.dest 42 6 = ret →
      Completes (.uetPacketReceive ret peer psn f) s fun s' =>
        s' = { s with uet := s'.uet, links := s'.links, counters := s'.counters, outbox := s'.outbox
                      inputs := { dt := 0, ev := .remoteRequestArrive ret r } :: s.inputs } ∧ Sends s s' [.sack ret peer psn missing] ∧
        (s'.uet? ret peer).got = (s.uet? ret peer).got ++ [psn]) ∧
    (psn ∈ (s.uet? ret peer).got → Completes (.uetPacketReceive ret peer psn f) s fun s' =>
      s' = { s with uet := s'.uet, outbox := s.outbox ++ [.sack ret peer psn missing] } ∧
      (s'.uet? ret peer).got = (s.uet? ret peer).got)) ∧
  (∀ s ret peer acked missing, Completes (.uetSackReceive ret peer acked missing) s fun s' =>
    let sent := (s.uet? ret peer).sent
    s' = { s with uet := s'.uet, port := { s.port with applied := s'.port.applied }
                  outbox := s.outbox ++ (sent.filter fun p => !p.unsent && missing.contains p.psn).map fun p => .uet ret peer p.psn p.flit.word } ∧
    ∀ p, p ∈ (s'.uet? ret peer).sent ↔ p ∈ sent ∧ (p.unsent = true ∨ acked < p.psn ∨ p.psn ∈ missing)) ∧
  (∀ s ret peer psn, (∃ p ∈ (s.uet? ret peer).sent, p.unsent = false ∧ p.psn = psn ∧ p.since + p.timer ≤ s.clock) →
    Completes (.uetRetransmitTimer ret peer psn) s fun s' =>
      (∃ p ∈ (s.uet? ret peer).sent, p.psn = psn ∧ s' = { s with uet := s'.uet, outbox := s.outbox ++ [.uet ret peer psn p.flit.word] }) ∧
      (s'.uet? ret peer).sent = (s.uet? ret peer).sent.map fun p => if p.unsent = false ∧ p.psn = psn ∧ p.since + p.timer ≤ s.clock then
        { p with timer := min (2 * p.timer) 1600000, since := s.clock } else p) ∧
  ∀ s node vf (x : BitVec 256) op, node ∈ s.podNodes → s.root.fenced = false → vf < 2 ^ 16 →
    let msg (op : Nat) (rest : List Byte) : List Byte := leBytes 2 vf ++ [BitVec.ofNat 8 op, 0] ++ rest
    (op = 0 → Completes (.rootMessage 24 node (msg 0 [])) s fun s' => s' = { s with root := { s.root with bindings := s'.root.bindings } } ∧
      ∀ b, b ∈ s'.root.bindings ↔ b ∈ s.root.bindings ∧ ¬ (b.1 = node ∧ b.2.1 = vf)) ∧
    (op = 1 ∨ op = 2 → Completes (.rootMessage 24 node (msg op (leBytes 32 x.toNat))) s fun s' =>
      s' = { s with root := { s.root with bindings := s'.root.bindings }, port := { s.port with outgoing := s'.port.outgoing } } ∧
      (∀ b ∈ s.root.bindings, ¬ (b.1 = node ∧ b.2.1 = vf) → b ∈ s'.root.bindings) ∧
      ∃ d, (node, vf, d) ∈ s'.root.bindings ∧ (if op = 1 then d.extractLsb' 0 256 else d.extractLsb' 256 256) = x)

/-! ### Mailboxes and commands (R410 to R424) -/

/-- Registers of a mailbox, submission and completion (R410 to R415, R417): MBCTL starts the rings when EN rises and keeps their sizes
while EN stands; doorbells are taken modulo the ring; the bases change only while EN is clear; an entry that is read is journalled under the
next number and refused or started; a resent one is answered again from the journal; a fenced root answers 0x8C; and the end of a
command writes its entry in the journal and, unless it has been answered, its completion in the ring. Two clauses are the model's choice:
a resent command that has created an object repeats its handle (log 33), and the ROM mismatch found at a command boundary refuses the
command of that boundary with 0x8C (log 51). -/
def Obligations.MailboxesAndCompletions : Prop :=
  (∀ s fn m x, s.mailbox? fn = some m → Completes (.mbctlWrite fn x) s fun s' => ∃ m', s'.mailbox? fn = some m' ∧
    s' = { s with vfs := s'.vfs, root := { s.root with mailbox := s'.root.mailbox } } ∧
    let y := x &&& 0x0001FFF1#32
    let sized := decide (4 ≤ field x 4 4 ∧ field x 4 4 ≤ 12 ∧ 4 ≤ field x 8 4 ∧ field x 8 4 ≤ 12)
    (m.en = true → x.getLsbD 0 = true → m' = { m with mbctl := (y &&& 0xFFFFF00F#32) ||| (m.mbctl &&& 0x00000FF0#32) }) ∧
    (m.en = true → x.getLsbD 0 = false →
      m' = { m with mbctl := (y &&& 0xFFFFF00F#32) ||| (m.mbctl &&& 0x00000FF0#32), ready := false, cfgerr := false }) ∧
    (m.en = false → x.getLsbD 0 = true → sized = true →
      m' = { m with mbctl := y, ready := true, cfgerr := false, sqhead := 0, cqtail := 0, sqtail := 0, cqhead := 0, phase := true }) ∧
    (m.en = false → x.getLsbD 0 = true → sized = false → m' = { m with mbctl := y, ready := false, cfgerr := true }) ∧
    (m.en = false → x.getLsbD 0 = false → m' = { m with mbctl := y })) ∧
  (∀ s fn m x, s.mailbox? fn = some m →
    (Completes (.sqtailDoorbell fn x) s fun s' => s' = { s with vfs := s'.vfs, root := { s.root with mailbox := s'.root.mailbox } } ∧
      s'.mailbox? fn = some { m with sqtail := x.toNat % 2 ^ field m.mbctl 4 4 }) ∧
    (Completes (.cqheadDoorbell fn x) s fun s' => s' = { s with vfs := s'.vfs, root := { s.root with mailbox := s'.root.mailbox } } ∧
      s'.mailbox? fn = some { m with cqhead := x.toNat % 2 ^ field m.mbctl 8 4 }) ∧
    ∀ off, Completes (.registerWrite fn off x) s fun s' => s' = { s with vfs := s'.vfs, root := { s.root with mailbox := s'.root.mailbox } } ∧
      ((m.en = true ∨ off ∉ [0x08, 0x0C, 0x10, 0x14]) → s'.mailbox? fn = some m) ∧
      (m.en = false →
        (off = 0x08 → s'.mailboxRead fn 0x08 = x &&& 0xFFFFFFC0#32) ∧ (off = 0x0C → s'.mailboxRead fn 0x0C = x) ∧
        (off = 0x10 → s'.mailboxRead fn 0x10 = x &&& 0xFFFFFFE0#32) ∧ (off = 0x14 → s'.mailboxRead fn 0x14 = x) ∧
        ∀ k, k ≠ off → s'.mailboxRead fn k = s.mailboxRead fn k)) ∧
  (∀ s, s.nextTurn = none → exec .submissionRead s = .next s) ∧
  (∀ s t fn m, s.nextTurn = some t → fn = (if t = 0 then none else some (t - 1)) → s.mailbox? fn = some m → m.ready = true →
    Completes .submissionRead s fun s' =>
      let e : BitVec 512 := BitVec.ofNat 512 (leNat (Memory.readN s.host (m.sqbase.toNat + 64 * m.sqhead) 64))
      let ctag : Dword := e.extractLsb' 0 64
      let x := s.openEntry fn e
      let a := m.cqbase.toNat + 32 * m.cqtail
      s'.root.turn = t ∧ s'.root.heartbeat = s.clock ∧ (s'.mailbox? fn).map (·.sqhead) = some ((m.sqhead + 1) % m.sqn) ∧
      ((s.root.fenced = true ∨ s.root.romOk = false) → s'.root.fenced = true ∧ s'.root.journal = s.root.journal ∧ s'.inputs = s.inputs ∧
        EntryAt s' a ctag 0 0 0x8C 3 m.phase) ∧
      (s.root.fenced = false → s.root.romOk = true →
        (∀ j, s.sameCommand fn ctag = some j → s'.root.journal = s.root.journal ∧ s'.inputs = s.inputs ∧
          EntryAt s' a ctag j.seq (if j.made then j.handle else j.result) j.code j.state m.phase) ∧
        (s.sameCommand fn ctag = none → s.root.journal.length < 65536 → (∀ e ∈ s.root.journal, e.seq < s.root.nextSeq) →
          ∃ j, s'.root.journal = s.root.journal ++ [j] ∧ s'.root.nextSeq = s.root.nextSeq + 1 ∧ j.seq = s.root.nextSeq ∧ j.ctag = ctag ∧
            j.kind = x.kind ∧ j.handle = x.handle ∧ j.made = false ∧ j.step = 0 ∧ j.origin = (if fn = none then 1 else 0) ∧
            (∀ code, s.refusal fn x = some code → j.state = 3 ∧ j.code = code ∧
              EntryAt s' a ctag s.root.nextSeq 0 code 3 m.phase) ∧
            (s.refusal fn x = none → j.state = 0 ∧ j.code = 0) ∧
            (s.refusal fn x = none → x.kind ∈ [0x07, 0x08, 0x09, 0x0A, 0x0B, 0x0C, 0x0D, 0x0E, 0x40, 0x41, 0x42, 0x43, 0x44] →
              ∃ i, (commandOf x.kind { fn, seq := s.root.nextSeq, ctag, handle := x.handle, body := x.body }).map (·.1) = some i ∧
                s'.inputs = { dt := 0, ev := i } :: s.inputs)))) ∧
  (∀ (s : State) c state code obj res value, s.close c state code obj res value =
      { s with vfs := (s.close c state code obj res value).vfs, host := (s.close c state code obj res value).host
               outbox := (s.close c state code obj res value).outbox, inputs := (s.close c state code obj res value).inputs
               root := { s.root with journal := (s.close c state code obj res value).root.journal
                                     mailbox := (s.close c state code obj res value).root.mailbox } } ∧
    (s.close c state code obj res value).root.journal = (s.root.journal.map fun e =>
      if e.seq = c.seq then { e with state, code, result := res, handle := obj.getD e.handle, made := e.made || obj.isSome } else e) ∧
    (state < 2 → (s.close c state code obj res value).inputs = s.inputs) ∧
    (∀ n v, s.vf? n = some v → ∃ v', (s.close c state code obj res value).vf? n = some v' ∧
      v' = { v with mailbox := v'.mailbox, waiting := v'.waiting }) ∧
    (c.answered = true → (s.close c state code obj res value).host = s.host ∧ (s.close c state code obj res value).outbox = s.outbox) ∧
    (c.answered = false → ∀ m, s.mailbox? c.fn = some m →
      (m.ready = false → (s.close c state code obj res value).host = s.host) ∧
      (m.ready = true →
        let t := s.close c state code obj res value
        let a := m.cqbase.toNat + 32 * m.cqtail
        EntryAt t a c.ctag c.seq (obj.getD value) code state m.phase ∧
        (∀ b, (b < a ∨ a + 32 ≤ b) → tget 0 t.host b = tget 0 s.host b) ∧
        t.outbox = s.outbox ++ [.interrupt c.fn (field m.mbctl 12 5)] ∧
        t.mailbox? c.fn = some { m with cqtail := (m.cqtail + 1) % m.cqn, phase := if m.cqtail + 1 = m.cqn then !m.phase else m.phase }))) ∧
  ∀ (s : State) n v i j rest q, s.vf? n = some v → v.waiting = i :: j :: rest → cmdSeq i = some q →
    (s.nextCmd n q).inputs = { dt := 0, ev := j } :: s.inputs ∧ ((s.nextCmd n q).vf? n).map (·.waiting) = some (j :: rest)

/-- CREATE_VF, LOAD_POLICY and ASSIGN (R28, R308, R309, R413, R416, R418, R420, R434): each checks in its order and is refused with the reason
of the first check that fails; LOAD_POLICY runs on while invalidations of the ranges that peers lose are deferred (R334); and a command of
any kind that the journal does not hold as accepted changes nothing. The order of ASSIGN's checks and the reason of each (log 36), that
last clause (log 45) and the frames of the save pool (log 64) are the model's choice. -/
def Obligations.FunctionsPoliciesAndPartitions : Prop :=
  (∀ mk ∈ [Instr.createVf, .assign, .loadPolicy, .pause, .resume, .evict, .resetVf, .destroy, .readJournal, .queryCounters, .linkRestore,
      .identify, .podForm, .nodeTable, .submit, .cancel, .setS1root, .s1Inval, .ctrConfig, .rekey, .migrate],
    ∀ s c, s.accepted c = false → exec (mk c) s = .next s) ∧
  (∀ s c, s.accepted c = true →
    (c.body.length ≠ 64 → Refuses (.createVf c) s c 0x86) ∧
    (c.body.length = 64 → (∀ n, n < 384 → (s.vf? n).isSome = true) → Refuses (.createVf c) s c 0x89) ∧
    ∀ n, c.body.length = 64 → n < 384 → s.vf? n = none → (∀ k, k < n → (s.vf? k).isSome = true) →
      Makes (.createVf c) s c fun h t => (∀ k, k ≠ n → t.vf? k = s.vf? k) ∧ ∃ v, t.vf? n = some v ∧ v.handle = h ∧
        v.tkd.toNat = leNat c.body ∧ v.state = .created ∧ v.hasPolicy = false ∧ v.spdm = false ∧ v.tdi = .unlocked ∧ v.s1root = 0) ∧
  (∀ s c, s.accepted c = true → (s.vfByHandle c.handle = none → Refuses (.loadPolicy c) s c 0x80) ∧
    ∀ v, s.vfByHandle c.handle = some v →
      (v.state ≠ .created → v.state ≠ .ready → Refuses (.loadPolicy c) s c 0x87) ∧
      ((v.state = .created ∨ v.state = .ready) →
        (Policy.parse s.port.node c.body = none → Refuses (.loadPolicy c) s c 0x86) ∧
        ∀ n key, Policy.parse s.port.node c.body = some (n, key) →
          (policySigned v key c.body = false → Refuses (.loadPolicy c) s c 0x84) ∧
          (policySigned v key c.body = true → n.version ≤ v.highest → Refuses (.loadPolicy c) s c 0x85) ∧
          (policySigned v key c.body = true → v.highest < n.version → s.policyFits v n = false → Refuses (.loadPolicy c) s c 0x8E) ∧
          (policySigned v key c.body = true → v.highest < n.version → s.policyFits v n = true →
            ((s.install v n c.seq).tablesFit = false → Refuses (.loadPolicy c) s c 0x89) ∧
            ((s.install v n c.seq).tablesFit = true → DoesAfter (.loadPolicy c) s c fun t => ∀ w, s.vf? v.num = some w → ∃ w', t.vf? v.num = some w' ∧
              w'.policy = n ∧ w'.hasPolicy = true ∧ w'.highest = n.version ∧ w'.state = .ready ∧ w'.tkd = w.tkd ∧ w'.handle = w.handle)))) ∧
  (∀ s c, s.accepted c = true →
    let parent := s.partByHandle c.handle
    let fn := match parent with
      | some p => s.vf? p.vf
      | none => s.vfByHandle c.handle
    (fn = none → Refuses (.assign c) s c 0x80) ∧
    ∀ v, fn = some v →
      (v.state ≠ .ready → Refuses (.assign c) s c 0x87) ∧
      (v.state = .ready → AssignBody.parse c.body = none → Refuses (.assign c) s c 0x86) ∧
      ∀ b, v.state = .ready → AssignBody.parse c.body = some b →
        (b.child ≠ parent.isSome → Refuses (.assign c) s c 0x80) ∧
        (∀ q, parent = some q → b.child = true →
          (q.parent ≠ none → Refuses (.assign c) s c 0x86) ∧
          (q.parent = none → s.assignPlaces v parent b = false → Refuses (.assign c) s c 0x82) ∧
          (q.parent = none → s.assignPlaces v parent b = true → s.assignBounds v parent b = false → Refuses (.assign c) s c 0x83) ∧
          (q.parent = none → s.assignPlaces v parent b = true → s.assignBounds v parent b = true → s.assignRoom parent b = false →
            Refuses (.assign c) s c 0x89) ∧
          (q.parent = none → s.assignPlaces v parent b = true → s.assignBounds v parent b = true → s.assignRoom parent b = true →
            Makes (.assign c) s c fun h t => ∃ p, t = { s with parts := s.parts ++ [p], nextUid := s.nextUid + 1, root := { s.root with
                draws := t.root.draws, handles := s.root.handles ++ [h] } } ∧
              p.handle = h ∧ p.uid = s.nextUid + 1 ∧ p.pool = [] ∧ p.vf = v.num ∧ p.parent = some q.num ∧ p.key = q.key ∧ p.rets.map (·.1) = b.rets.take b.bays.length ∧
              p.budget = b.budget ∧ p.bwshare = b.bwshare ∧ p.queues = b.queues ∧ p.prioMax = b.prioMax)) ∧
        (parent = none → b.child = false →
          (s.assignPlaces v none b = false → Refuses (.assign c) s c 0x82) ∧
          (s.assignPlaces v none b = true → s.assignBounds v none b = false → Refuses (.assign c) s c 0x83) ∧
          (s.assignPlaces v none b = true → s.assignBounds v none b = true → (s.assignRoom none b = false ∨ s.freeSlot = none) →
            Refuses (.assign c) s c 0x89)) ∧
        (parent = none → b.child = false → s.assignPlaces v none b = true → s.assignBounds v none b = true → s.assignRoom none b = true →
          (v.ranges.any fun r => b.rets.any fun x => r.overlaps (homeRange x 0)) = false → ∀ key t, s.freeSlot = some key →
          (s.drawHandle).1.createPart v none b (s.drawHandle).2 key = some t →
          exec (.assign c) s = .next (t.close c 2 0 (some (s.drawHandle).2)) ∧ FreshHandle s (s.drawHandle).2 ∧
          ∃ p, t.parts = s.parts ++ [p] ∧ p.handle = (s.drawHandle).2 ∧ p.vf = v.num ∧ p.parent = none ∧ p.key = key ∧ p.budget = b.budget ∧
            p.uid = s.nextUid + 1 ∧ p.pool = b.rets.flatMap savePool ∧ p.queues = b.queues ∧ p.pinQuota = b.pinQuota ∧ ∃ k ∈ t.root.slots, k.slot = key ∧ k.state = .active ∧ k.rets = b.rets))

/-- PAUSE, RESUME, EVICT, RESET_VF and DESTROY, the end of a pause and the writing of an image (R342, R347, R413, R418, R421 to R423):
each is refused with the reason of the first check that fails. An image that has been restored keeps its handle, and its counter makes
a second RESUME fail with 0x8B. The model's choice: the layout of EVICT's body (log 42), the KIND 0x08 of DESTROY's step entries (log 34),
PAUSE done at once and EVICT counted and EVICTED at its start (log 47), and what makes an image good (log 43). -/
def Obligations.PauseEvictionAndReset : Prop :=
  (∀ s c, s.accepted c = true → (s.vfByHandle c.handle = none → Refuses (.pause c) s c 0x80 ∧ Refuses (.evict c) s c 0x80 ∧
      Refuses (.resetVf c) s c 0x80 ∧ Refuses (.destroy c) s c 0x80 ∧ (s.imageByHandle c.handle = none → Refuses (.resume c) s c 0x80)) ∧
    ∀ v w, s.vfByHandle c.handle = some v → s.vf? v.num = some w →
      (v.state ≠ .ready → Refuses (.pause c) s c 0x87) ∧
      (v.state = .ready → v.policy.rights.getLsbD 0 = false → Refuses (.pause c) s c 0x81) ∧
      (v.state = .ready → v.policy.rights.getLsbD 0 = true → Does (.pause c) s c fun t =>
        t = { s with vfs := t.vfs, tasks := t.tasks } ∧ t.vf? v.num = some { w with state := .paused, pausedAt := s.clock } ∧
        ∀ u tk, s.task? u = some tk → ∃ tk', t.task? u = some tk' ∧ tk' = { tk with mark := tk'.mark } ∧
          (tk.vf = v.num → tk.phase = .running → tk.copyOf = none → tk'.mark ≠ none)) ∧
      (v.state ≠ .paused → Refuses (.resume c) s c 0x87) ∧
      (v.state = .paused → Does (.resume c) s c fun t => t = { s with vfs := t.vfs } ∧ t.vf? v.num = some { w with state := .ready }) ∧
      (v.state ≠ .ready → v.state ≠ .paused → Refuses (.evict c) s c 0x87) ∧
      ((v.state = .ready ∨ v.state = .paused) → v.policy.rights.getLsbD 1 = false → Refuses (.evict c) s c 0x81) ∧
      ((v.state = .ready ∨ v.state = .paused) → v.policy.rights.getLsbD 1 = true → c.body.length ≠ 8 → Refuses (.evict c) s c 0x86) ∧
      ((v.state = .ready ∨ v.state = .paused) → v.policy.rights.getLsbD 1 = true → c.body.length = 8 →
        ∃ t : State, exec (.evict c) s = .next (t.runs c) ∧ t = { s with vfs := t.vfs, tasks := t.tasks, root := { s.root with evictions := t.root.evictions } } ∧
          t.vf? v.num = some { w with state := .evicted } ∧ t.evictions v.num = s.evictions v.num + 1 ∧
          ∀ u tk, s.task? u = some tk → ∃ tk', t.task? u = some tk' ∧ tk' = { tk with mark := tk'.mark, saveStart := tk'.saveStart } ∧
            (tk.vf = v.num → tk.phase = .running → tk.copyOf = none → tk'.saveStart ≠ none)) ∧
      (DoesAfter (.resetVf c) s c fun t => NoWork t v.num ∧ SevenSteps s t 0x07 ∧ (∀ l ∈ t.lines, l.key ∉ s.keysOf v.num) ∧
        (∀ x ∈ t.sectors, x.owner ∉ s.keysOf v.num) ∧ ∃ w', t.vf? v.num = some w' ∧ w'.state = .created ∧ w'.hasPolicy = false ∧
          w'.highest = w.highest ∧ w'.tkd = w.tkd ∧ w'.handle = w.handle ∧ w'.tdi = .unlocked ∧ w'.s1root = 0 ∧ w'.ranges = [] ∧ w'.overrides = []) ∧
      (DoesAfter (.destroy c) s c fun t => NoWork t v.num ∧ SevenSteps s t 0x08 ∧ t.vf? v.num = none ∧ (∀ x ∈ t.root.images, x.vf ≠ v.num) ∧
        (∀ l ∈ t.lines, l.key ∉ s.keysOf v.num) ∧ (∀ x ∈ t.sectors, x.owner ∉ s.keysOf v.num) ∧ ∀ n, n ≠ v.num → (t.vf? n).isSome = (s.vf? n).isSome)) ∧
  (∀ s c x v, s.accepted c = true → s.vfByHandle c.handle = none → s.imageByHandle c.handle = some x →
    (s.vf? x.vf = none → Refuses (.resume c) s c 0x80) ∧
    (s.vf? x.vf = some v → v.state ≠ .evicted → Refuses (.resume c) s c 0x87) ∧
    (s.vf? x.vf = some v → v.state = .evicted → s.imageGood x = false → Refuses (.resume c) s c 0x8B) ∧
    (s.vf? x.vf = some v → v.state = .evicted → s.imageGood x = true → s.restoreImage v x = none → Refuses (.resume c) s c 0x89) ∧
    ∀ t, s.vf? x.vf = some v → v.state = .evicted → s.imageGood x = true → s.restoreImage v x = some t → exec (.resume c) s = .next (t.done c) ∧
      (t.vf? x.vf).map (·.state) = some .ready ∧ t.parts.length = s.parts.length + x.parts.length ∧
      t.evictions x.vf = s.evictions x.vf + 1 ∧ t.root.images = s.root.images ∧ t.imageGood x = false) ∧
  (∀ s vf v, s.vf? vf = some v → s.root.fenced = false → v.state = .paused → v.policy.pauseMax ≠ 0 →
    v.pausedAt + v.policy.pauseMax * 1600000 ≤ s.clock → s.root.journal.length < 65536 → Completes (.pausemaxExpiry vf) s fun s' =>
      s' = { s with vfs := s'.vfs, root := { s.root with journal := s'.root.journal, nextSeq := s.root.nextSeq + 1 } } ∧
      s'.vf? vf = some { v with state := .ready } ∧ s'.root.journal = s.root.journal ++
        [{ seq := s.root.nextSeq, handle := v.handle, kind := 0x05, state := 2, origin := 2, vf }]) ∧
  ∀ s vf v c, s.vf? vf = some v → s.evicting v = some c → Completes (.evictImageWritten vf) s fun s' => NoWork s' vf ∧
    ∃ h x, s'.root.images = s.root.images ++ [x] ∧ x.handle = h ∧ FreshHandle s h ∧ x.vf = vf ∧ x.count = s.evictions vf ∧ x.addr = leNat c.body ∧
      x.colls = v.colls ∧ (s'.vf? vf).map (·.colls) = some [] ∧
      x.pins = ((s.sectors.filter fun y => y.pinned && decide (y.owner ∈ s.keysOf vf)).map fun y => (y.ret, y.base, y.pc)) ∧
      s'.root.journal = s.root.journal.map fun e => if e.seq ≠ c.seq then e
        else if c.seq = 0 ∨ s'.invalsOf c.seq = true then { e with result := h } else { e with state := 2, code := 0, result := h }

/-- READ_JOURNAL, QUERY_COUNTERS, LINK_RESTORE, IDENTIFY, POD_FORM and NODE_TABLE (R30, R351, R390, R398, R399, R409, R413, R423, R426,
R434). The bodies and answers that the specification does not lay out are the model's (log 42), and so is that LINK_RESTORE refuses an
optical link without a wavelength left and leaves the links of a disabled site out of service (log 90), and that NODE_TABLE is taken
before the first POD_FORM (log 88). -/
def Obligations.QueriesAndPodCommands : Prop :=
  (∀ s c, s.accepted c = true →
    let f (i n : Nat) : Nat := bytesAt c.body i n
    let bad := c.handle ≠ 0 ∨ c.body.length ≠ 24 ∨ f 8 4 = 0 ∨ 4096 < f 8 4 ∨ f 12 4 ≠ 0 ∨ f 16 8 % 32 ≠ 0
    (bad → Refuses (.readJournal c) s c 0x86) ∧
    (¬ bad →
      let es := (s.root.journal.filter fun e => decide (f 0 8 ≤ e.seq) && (match c.fn with
        | none => true
        | some v => e.vf == v)).take (f 8 4)
      ∃ t : State, exec (.readJournal c) s = .next (t.close c 2 0 none 0 (BitVec.ofNat 32 es.length)) ∧ t = { s with host := t.host } ∧
        (∀ i e, es[i]? = some e → Memory.readN t.host (f 16 8 + 32 * i) 32 = e.bytes c.fn.isNone) ∧
        ∀ a, (a < f 16 8 ∨ f 16 8 + 32 * es.length ≤ a) → tget 0 t.host a = tget 0 s.host a)) ∧
  (∀ (e : JEntry) pf,
    let hide := pf && decide (e.origin = 0)
    let f (i n : Nat) : Nat := bytesAt (e.bytes pf) i n
    (e.bytes pf).length = 32 ∧ f 0 8 = e.seq % 2 ^ 64 ∧ f 8 4 = e.handle.toNat ∧ f 12 4 = (if hide then 0 else e.result.toNat) ∧
    f 16 1 = (if hide then 0x3F else e.kind % 256) ∧ f 17 1 = e.code % 256 ∧
    f 18 1 = e.state % 8 + 8 * (e.step % 8) + 64 * (e.origin % 4) ∧ f 19 2 = e.vf % 512 ∧ f 24 8 = e.ctag.toNat) ∧
  (∀ s c, s.accepted c = true →
    let f (i : Nat) : Nat := bytesAt c.body i 1
    ((c.body.length ≠ 4 ∨ 3 < f 0 ∨ (f 0 = 3 ∧ f 3 ≠ 0)) → Refuses (.queryCounters c) s c 0x86) ∧
    (c.body.length = 4 → f 0 ≤ 3 → (f 0 = 3 → f 3 = 0) → Does (.queryCounters c) s c fun t => ∃ bs, t = { s with outbox := s.outbox ++ [.answer c.fn bs] } ∧
      (f 0 = 0 → bs.length = 104 ∧ bytesAt bs 96 8 = (s.link (f 1) (f 2)).level % 2 ^ 64 ∧
        ∀ i, i < 12 → bytesAt bs (8 * i) 8 = if i = 8 ∧ f 2 < 4 then (s.switch (f 1)).deflect % 2 ^ 48
          else if i = 9 then (s.switch (f 1)).reinjected % 2 ^ 48 else tget 0 (s.link (f 1) (f 2)).raw (0x300 + i) % 2 ^ 64) ∧
      (f 0 = 1 → bs = leBytes 8 (tget 0 s.port.probes (f 1 * 16 + f 2 * 2 + f 3)).toNat) ∧
      (f 0 = 2 → bs = leBytes 8 (((s.counters.find? fun x => decide (x.ret = f 1 ∧ x.cu = (if f 2 = 255 then none else some (f 2)) ∧
        x.idx = f 3)).map fun x => x.val.toNat).getD 0)) ∧
      (f 0 = 3 →
        let owner := if f 1 + 256 * f 2 = 0xFFFF then none else some (f 1 + 256 * f 2)
        let xs := (s.counters ++ s.contexts).filter fun x => decide (x.owner = owner)
        bs.length = 16 * xs.length ∧ ∀ i x, xs[i]? = some x → bytesAt bs (16 * i) 1 = x.ret % 256 ∧ bytesAt bs (16 * i + 8) 8 = x.val.toNat))) ∧
  (∀ s c, s.accepted c = true →
    let site := bytesAt c.body 0 1
    let port := bytesAt c.body 1 1
    let bad := c.body.length ≠ 2 ∨ 49 ≤ site ∨ 20 ≤ port ∨ (port < 4 ∧ meshPeer site port = none)
    (bad → Refuses (.linkRestore c) s c 0x86) ∧
    let dark := isOptical port = true ∧ 4 ≤ (s.link site port).lost
    (¬ bad → ((s.link site port).retired = false ∨ dark) → Refuses (.linkRestore c) s c 0x87) ∧
    (¬ bad → (s.link site port).retired = true → ¬ dark → Does (.linkRestore c) s c fun t =>
      t = { s with links := t.links, port := { s.port with out := t.port.out, version := s.port.version + 1 } } ∧
      ∀ e ∈ linkEnds site port, (t.link e.1 e.2).retired = false ∧ (t.link e.1 e.2).level = 0 ∧
        (linkKey e.1 e.2 ∉ s.ident.noLinks → t.linkUp e.1 e.2 = true) ∧
        (linkKey e.1 e.2 ∈ s.ident.noLinks → t.linkUp e.1 e.2 = s.linkUp e.1 e.2))) ∧
  (∀ s c, s.accepted c = true → Does (.identify c) s c fun t => t = { s with outbox := s.outbox ++ [.answer c.fn s.identityBlock] }) ∧
  (∀ s : State, s.identityBlock.length = 96 + 49 * 48 + 49 * 49 ∧ bytesAt s.identityBlock 0 2 = Config.vendorId.toNat ∧
    bytesAt s.identityBlock 2 2 = Config.deviceId.toNat ∧ bytesAt s.identityBlock 4 1 = Config.stepping.toNat ∧
    bytesAt s.identityBlock 5 1 = (if s.ident.code46 then 1 else 0) ∧
    (∀ r, r < 49 → (bytesAt s.identityBlock 6 8).testBit r = decide (r = 24 ∨ r ∈ s.ident.absent)) ∧
    bytesAt s.identityBlock 16 64 = Config.romHash.toNat ∧ bytesAt s.identityBlock 80 8 = Config.serial.toNat ∧
    ∀ a b, a < 49 → b < 49 → bytesAt s.identityBlock (96 + 49 * 48 + 49 * a + b) 1
      = ((a / 7 - b / 7) + (b / 7 - a / 7) + ((a % 7 - b % 7) + (b % 7 - a % 7))) % 256) ∧
  (∀ s c, s.accepted c = true →
    let node := bytesAt c.body 0 2
    let slot := bytesAt c.body 2 1
    let peers := ((List.range 15).map fun i => (if i < slot then i else i + 1, bytesAt c.body (4 + 2 * i) 2)).filter fun x => decide (x.2 ≠ 0xFFFF)
    let names := node :: peers.map (·.2)
    let bad := c.body.length ≠ 34 ∨ node = 0xFFFF ∨ 16 ≤ slot ∨ bytesAt c.body 3 1 ≠ 0 ∨ names.eraseDups.length ≠ names.length
    let known := peers.all fun x => Config.spdmAccepts (1024 + x.2) 0 c.body
    (s.parts ≠ [] → Refuses (.podForm c) s c 0x87) ∧ (s.parts = [] → bad → Refuses (.podForm c) s c 0x86) ∧
    (s.parts = [] → ¬ bad → known = false → Refuses (.podForm c) s c 0x8A) ∧
    let kept := s.port.nodes.filter fun (e : NodeEntry) => decide (e.kind = 2 ∧ e.node ∉ names)
    (s.parts = [] → ¬ bad → known = true → 1024 < peers.length + kept.length → Refuses (.podForm c) s c 0x89) ∧
    (s.parts = [] → ¬ bad → known = true → peers.length + kept.length ≤ 1024 → Does (.podForm c) s c fun t =>
      t = { s with root := { s.root with bindings := [] }
                   port := { s.port with node, slot, nodes := t.port.nodes, version := s.port.version + 1, outgoing := t.port.outgoing } } ∧
      (∀ x ∈ peers, { node := x.2, kind := 1, slot := x.1 } ∈ t.port.nodes) ∧
      ∀ e ∈ t.port.nodes, (e.kind = 1 ∧ (e.slot, e.node) ∈ peers) ∨ (e.kind = 2 ∧ e ∈ s.port.nodes ∧ e.node ∉ names))) ∧
  (∀ s c, s.accepted c = true →
    let items := (List.range (c.body.length / 4)).map fun i => (bytesAt c.body (4 * i) 2, bytesAt c.body (4 * i + 2) 1)
    let own (x : Nat) : Prop := x = s.port.node ∨ x = 0xFFFF ∨ ∃ e ∈ s.port.nodes, e.kind = 1 ∧ e.node = x
    let bad := c.body.length = 0 ∨ c.body.length % 4 ≠ 0 ∨ (∃ x ∈ items, own x.1 ∨ 1 < x.2) ∨
      ∃ i, 4 * i + 3 < c.body.length ∧ bytesAt c.body (4 * i + 3) 1 ≠ 0
    let nodes := items.foldl (fun ns x => (ns.filter fun e => decide (e.node ≠ x.1)) ++
      (if x.2 = 1 then [({ node := x.1, kind := 2, slot := 0 } : NodeEntry)] else [])) s.port.nodes
    (bad → Refuses (.nodeTable c) s c 0x86) ∧ (¬ bad → 1024 < nodes.length → Refuses (.nodeTable c) s c 0x89) ∧
    (¬ bad → nodes.length ≤ 1024 → Does (.nodeTable c) s c fun t =>
      t = { s with port := { s.port with nodes, version := s.port.version + 1 } }))

/-- SUBMIT, CANCEL, SET_S1ROOT, S1_INVAL, CTR_CONFIG, REKEY and MIGRATE, and the events of re-encryption and of key slots (R298, R326, R333,
R334, R341, R413, R420, R427, R430, R434). The model's choice: the bodies that the specification does not lay out (log 42), the order of
MIGRATE's checks (log 52), that key slot 0 is root storage, whose error fences the root (log 48), and the frames of a REKEY with its last
invalidation, counted as one frame more (log 50). -/
def Obligations.TenantCommandsAndKeys : Prop :=
  (∀ s c, s.accepted c = true → ((s.tenant c = none ∨ s.partByHandle c.handle = none) → Refuses (.submit c) s c 0x80) ∧
    ∀ v p, s.tenant c = some v → s.partByHandle c.handle = some p →
      let bad := c.body.length ≠ 16 ∨ bytesAt c.body 0 8 % 16 ≠ 0 ∨ bytesAt c.body 8 8 ≠ 0
      let running := (s.jobs.filter fun j => decide (j.part = p.num) && !j.done).length
      (p.vf ≠ v.num → Refuses (.submit c) s c 0x80) ∧ (p.vf = v.num → bad → Refuses (.submit c) s c 0x86) ∧
      (p.vf = v.num → ¬ bad → 16 ≤ running → Refuses (.submit c) s c 0x83) ∧
      (p.vf = v.num → ¬ bad → running < 16 →
        (s.readJob v (bytesAt c.body 0 8) = .error 0x86 → Refuses (.submit c) s c 0x86) ∧
        (s.readJob v (bytesAt c.body 0 8) ≠ .error 0x86 → ∃ h j, FreshHandle s h ∧ exec (.submit c) s = .next
            (State.advanceJob { ((s.drawHandle).1.close c 1 0 (some h)) with jobs := s.jobs ++ [j] } h.toNat) ∧
          j.handle = h.toNat ∧ j.vf = v.num ∧ j.part = p.num ∧ j.seq = c.seq ∧ j.done = false ∧ j.cancels = [] ∧
          (∀ ps, s.readJob v (bytesAt c.body 0 8) = .ok ps → j.phases = ps ∧ j.fail = none) ∧
          ∀ k, s.readJob v (bytesAt c.body 0 8) = .error k → j.fail = some k))) ∧
  (∀ s c, s.accepted c = true →
    let job := s.jobs.find? fun j => decide (j.handle = c.handle.toNat)
    ((s.tenant c = none ∨ job = none) → Refuses (.cancel c) s c 0x80) ∧
    ∀ v j, s.tenant c = some v → job = some j →
      (j.vf ≠ v.num → Refuses (.cancel c) s c 0x80) ∧
      (j.vf = v.num → CancelBody.parse c.body = none → Refuses (.cancel c) s c 0x86) ∧
      ∀ x, j.vf = v.num → CancelBody.parse c.body = some x →
        (s.cancelNames j x = false → Refuses (.cancel c) s c 0x86) ∧
        (s.cancelNames j x = true → exec (.cancel c) s = .next ((s.cancelJob j x).done c) ∧
          ((j.done = true ∨ j.when x = 0) → s.cancelJob j x = s) ∧
          (j.done = false → j.when x = 2 → s.cancelJob j x = { s with jobs := s.jobs.map fun k => if k.handle = j.handle then
            { k with cancels := k.cancels ++ [(x.level, x.phase, x.graph, x.node)] } else k }))) ∧
  (∀ s c, s.accepted c = true → (s.tenant c = none → Refuses (.setS1root c) s c 0x80 ∧ Refuses (.s1Inval c) s c 0x80) ∧
    ∀ v, s.tenant c = some v → (c.handle ≠ v.handle → Refuses (.setS1root c) s c 0x80 ∧ Refuses (.s1Inval c) s c 0x80) ∧
      (c.handle = v.handle →
        let root := bytesAt c.body 0 8
        let len := bytesAt c.body 8 8
        ((c.body.length ≠ 8 ∨ root % 512 ≠ 0 ∨ 2 ^ 48 ≤ root) → Refuses (.setS1root c) s c 0x86) ∧
        (c.body.length = 8 → root % 512 = 0 → root < 2 ^ 48 → Completes (.setS1root c) s fun s' =>
          (∃ w, s'.vf? v.num = some w ∧ w = { v with s1root := root, mailbox := w.mailbox }) ∧
          InvalStarts s s' 2 v.num 0 (2 ^ 52) c.seq none ∧ EntryIs s s' c 1 0) ∧
        ((c.body.length ≠ 16 ∨ len = 0 ∨ 2 ^ 52 < root + len) → Refuses (.s1Inval c) s c 0x86) ∧
        (c.body.length = 16 → len ≠ 0 → root + len ≤ 2 ^ 52 → Completes (.s1Inval c) s fun s' =>
          InvalStarts s s' 2 v.num root (root + len) c.seq none ∧ EntryIs s s' c 1 0))) ∧
  (∀ s c, s.accepted c = true →
    let f (i n : Nat) : Nat := bytesAt c.body i n
    let cu := if f 2 1 = 255 then none else some (f 2 1)
    let at' (k : Counter) : Bool := decide (k.ret = f 1 1 ∧ k.cu = cu ∧ k.idx = f 3 1)
    let w := f 8 8
    let bad := c.body.length ≠ 16 ∨ 1 < f 0 1 ∨ f 4 4 ≠ 0
    let set (k : Counter) : Counter := { k with
      event := w % 1024, en := w.testBit 10, ovie := w.testBit 11, ovf := k.ovf && !w.testBit 12, vec := w / 2 ^ 13 % 32, link := w / 2 ^ 32 % 32 }
    let new : Counter := { ret := f 1 1, cu, idx := f 3 1, val := 0, event := 0, en := false, ovie := false, ovf := false, vec := 0,
                           link := 0, owner := c.fn }
    (bad → Refuses (.ctrConfig c) s c 0x86) ∧
    (¬ bad → s.mayConfigure c.fn (f 1 1) cu (f 3 1) = false → Refuses (.ctrConfig c) s c 0x80) ∧
    (¬ bad → s.mayConfigure c.fn (f 1 1) cu (f 3 1) = true →
      (f 0 1 = 0 → Does (.ctrConfig c) s c fun t => t = { s with outbox := s.outbox ++
        [.answer c.fn (leBytes 8 (((s.counters.find? at').map fun k => k.control c.fn.isSome).getD 0))] }) ∧
      (f 0 1 = 1 → (eventListed (w % 1024) = false ∨ (0x300 ≤ w % 1024 ∧ 20 ≤ w / 2 ^ 32 % 32)) → Refuses (.ctrConfig c) s c 0x86) ∧
      (f 0 1 = 1 → eventListed (w % 1024) = true → (w % 1024 < 0x300 ∨ w / 2 ^ 32 % 32 < 20) → Does (.ctrConfig c) s c fun t =>
        t = { s with counters := t.counters } ∧ (∀ k, s.counters.find? at' = some k → t.counters.find? at' = some (set k)) ∧
        (s.counters.find? at' = none → t.counters = s.counters ++ [set new])))) ∧
  (∀ s c, s.accepted c = true → ((s.tenant c = none ∨ s.partByHandle c.handle = none) → Refuses (.rekey c) s c 0x80) ∧
    ∀ v p, s.tenant c = some v → s.partByHandle c.handle = some p → (p.vf ≠ v.num → Refuses (.rekey c) s c 0x80) ∧
      (p.vf = v.num → s.freeSlot = none → Refuses (.rekey c) s c 0x89) ∧
      ∀ slot, p.vf = v.num → s.freeSlot = some slot →
        let top := (p.parent.bind s.part?).getD p
        ∃ t : State, exec (.rekey c) s = .next (t.runs c) ∧ t = { s with root := t.root } ∧
          t.root.rekeys = s.root.rekeys ++ [{ part := top.num, rets := top.rets.map (·.1), old := top.key, new := slot, seq := c.seq, next := 0, deferred := [] }] ∧
          (∃ k ∈ t.root.slots, k.slot = slot ∧ (slot ≠ top.key → k.state = .active)) ∧ ∀ k ∈ t.root.slots, k.slot = top.key → k.state = .retiring) ∧
  (∀ s c, s.accepted c = true → (s.vfByHandle c.handle = none → Refuses (.migrate c) s c 0x80) ∧
    ∀ v, s.vfByHandle c.handle = some v →
      let first := bytesAt c.body 0 4
      let n := bytesAt c.body 4 4
      let ret := bytesAt c.body 8 1
      let mine := c.fn = none ∨ c.fn = some v.num
      let up := v.state = .ready ∨ v.state = .paused
      let may := c.fn ≠ none ∨ v.policy.rights.getLsbD 2 = true
      let bad := c.body.length ≠ 16 ∨ n = 0 ∨ bytesAt c.body 9 7 ≠ 0
      let there := ret ∈ s.retsOf v.num ∧ s.live ret = true ∧ ∀ i, i < n → s.frameAt v (first + i) ≠ none
      (¬ mine → Refuses (.migrate c) s c 0x80) ∧ (mine → ¬ up → Refuses (.migrate c) s c 0x87) ∧
      (mine → up → ¬ may → Refuses (.migrate c) s c 0x81) ∧ (mine → up → may → bad → Refuses (.migrate c) s c 0x86) ∧
      (mine → up → may → ¬ bad → 256 < n → Refuses (.migrate c) s c 0x89) ∧
      (mine → up → may → ¬ bad → n ≤ 256 → ¬ there → Refuses (.migrate c) s c 0x82) ∧
      (mine → up → may → ¬ bad → n ≤ 256 → there → Completes (.migrate c) s fun s' =>
        InvalStarts s s' 3 v.num 0 0 c.seq (some (first, n, ret)) ∧ EntryIs s s' c 1 0 ∧
        ∃ x ∈ s'.root.invals, x.id = s.root.nextInval + 1 ∧ x.frames.length = n ∧
          ∀ i, i < n → x.frames[i]? = (s.frameAt v (first + i)).map (·.1))) ∧
  (∀ s slot ret, (∃ k ∈ s.root.slots, k.slot = slot ∧ k.state = .zeroising ∧ ret ∈ k.rets) → Completes (.zeroiseConfirm slot ret) s fun s' =>
    s' = { s with root := { s.root with slots := s'.root.slots } } ∧
    (∀ k ∈ s'.root.slots, k.slot = slot → k.state = .zeroising → ret ∉ k.rets ∧ k.rets ≠ []) ∧
    ∀ k ∈ s.root.slots, k.slot ≠ slot → k.state ≠ .zeroising → k ∈ s'.root.slots) ∧
  (∀ s r p frame, (s.root.rekeys.find? fun x => decide (x.part = r.part)) = some r → s.part? r.part = some p → s.root.fenced = false →
    frame = r.next → frame < rekeyFrames r →
    let a := rekeyAddr r frame
    let hit := s.deferred { id := 0, cause := 4, vf := p.vf, lo := a, hi := a + 65536 }
    (hit = true → Completes (.frameReencrypted r.part frame) s fun s' => s' = { s with root := { s.root with rekeys := s'.root.rekeys } } ∧
      (s'.root.rekeys.find? fun x => decide (x.part = r.part)) = some { r with next := r.next + 1, deferred := r.deferred ++ [frame] }) ∧
    (hit = false → Completes (.frameReencrypted r.part frame) s fun s' =>
      InvalStarts s s' 4 p.vf a (a + 65536) 0 none ∧
      (s'.root.rekeys.find? fun x => decide (x.part = r.part)) = some { r with next := r.next + 1 } ∧
      ((∀ l ∈ s.lines, l.dirty = 0) → s'.segKey = s.segKey.map fun e =>
        if a ≤ 32 * e.1 ∧ 32 * e.1 < a + 65536 ∧ e.2 = s.keyIn r.old then (e.1, s.keyIn r.new) else e))) ∧
  (∀ s r p frame, (s.root.rekeys.find? fun x => decide (x.part = r.part)) = some r → s.part? r.part = some p → s.root.fenced = false →
    rekeyFrames r ≤ frame →
    let open' := s.root.invals.any fun x => decide (x.cause = 4 ∧ x.vf = p.vf)
    let rest := s.rekeyRest r p.vf
    ((r.next < rekeyFrames r ∨ r.deferred ≠ [] ∨ open' = true) → exec (.frameReencrypted r.part frame) s = .next s) ∧
    (r.next = rekeyFrames r → r.deferred = [] → open' = false → rest.frames ≠ [] →
      (s.deferred rest = true → exec (.frameReencrypted r.part frame) s = .next s) ∧
      (s.deferred rest = false → Completes (.frameReencrypted r.part frame) s fun s' => InvalStarts s s' 4 p.vf 0 0 0 none ∧
        (s'.root.rekeys.find? fun x => decide (x.part = r.part)) = some { r with next := r.next + 1 })) ∧
    (r.deferred = [] → open' = false → r.new ≠ r.old → (rekeyFrames r < r.next ∨ r.next = rekeyFrames r ∧ rest.frames = []) →
      Completes (.frameReencrypted r.part frame) s fun s' =>
        (∀ x ∈ s'.parts, x.key ≠ r.old) ∧ (∀ x ∈ s'.root.rekeys, x.part ≠ r.part) ∧ (∀ k ∈ s'.root.slots, k.slot = r.old → k.state = .zeroising) ∧
        s'.root.journal = s.root.journal.map fun e => if e.seq = r.seq then { e with state := 2, code := 0 } else e)) ∧
  ∀ s slot, (slot = 0 → exec (.keySlotEccError slot) s = .next { s with root := { s.root with fenced := true } }) ∧
    (slot ≠ 0 → Completes (.keySlotEccError slot) s fun s' => s' = { s with tasks := s'.tasks, root := s'.root } ∧
      (∀ k ∈ s'.root.slots, k.slot = slot → k.state = .zeroising) ∧
      ∀ u tk p, s.task? u = some tk → p ∈ s.parts → p.num = tk.part → p.key = slot → tk.copyOf = none → tk.phase ≠ .ended → tk.fate = none →
        ∃ tk', s'.task? u = some tk' ∧ EndsWith tk tk' 0x3F)

/-- SPDM, TDISP and IDE_KM (R412, R419): every request of a function that exists is answered in the standard's form (log 9); FINISH and
END_SESSION begin and end its session; an interface goes from unlocked to locked to running and back, any other request takes it to
ERROR, where it stays; IDE_KM keys the stream of at most 256 functions. The last clause, that a mailbox is reached only over its function's
IDE stream with its TDI in RUN or ERROR, is the model's choice between R412 and R419 (log 46). -/
def Obligations.SecureMessages : Prop :=
  (∀ s vf msg, s.responds vf = true →
    let ans (i : Instr) (code : Nat) (m : List Byte) := exec i s = .next { s with outbox := s.outbox ++ [.answer vf (Config.spdmAnswer (session vf) code m)] }
    ans (.getVersion vf msg) 0x84 msg ∧ ans (.getCapabilities vf msg) 0xE1 msg ∧ ans (.negotiateAlgorithms vf msg) 0xE3 msg ∧
    ans (.getDigests vf msg) 0x81 msg ∧ ans (.getCertificate vf msg) 0x82 msg ∧ ans (.challenge vf msg) 0x83 (msg ++ s.measurements vf) ∧
    ans (.getMeasurements vf msg) 0xE0 (msg ++ s.measurements vf) ∧ ans (.keyExchange vf msg) (if s.hasSession vf then 0 else 0xE4) msg ∧
    ans (.keyUpdate vf msg) 0xE9 msg ∧ ans (.heartbeat vf msg) 0xE8 msg ∧ ans (.vendorDefinedRequest vf msg) 0xFE msg) ∧
  (∀ s vf msg, s.responds vf = true →
    (Completes (.finish vf msg) s fun s' =>
      s' = { s with vfs := s'.vfs, root := { s.root with spdm := s'.root.spdm }, outbox := s.outbox ++ [.answer vf (Config.spdmAnswer (session vf) 0xE5 msg)] } ∧
      s'.hasSession vf = (s.hasSession vf || Config.spdmAccepts (session vf) 0xE5 msg) ∧ ∀ fn, fn ≠ vf → s'.hasSession fn = s.hasSession fn) ∧
    Completes (.endSession vf msg) s fun s' =>
      s' = { s with vfs := s'.vfs, root := { s.root with spdm := s'.root.spdm }, outbox := s.outbox ++ [.answer vf (Config.spdmAnswer (session vf) 0xEC msg)] } ∧
      s'.hasSession vf = (s.hasSession vf && !Config.spdmAccepts (session vf) 0xEC msg) ∧ ∀ fn, fn ≠ vf → s'.hasSession fn = s.hasSession fn) ∧
  (∀ s n v msg, s.vf? n = some v →
    let moves (i : Instr) (code : Nat) (go : Option TdiState) := Completes i s fun s' =>
      s' = { s with vfs := s'.vfs, outbox := s.outbox ++ [.answer (some n) (Config.spdmAnswer (n + 1) code msg)] } ∧
      s'.vf? n = some { v with tdi := if v.spdm && Config.spdmAccepts (n + 1) code msg then go.getD .error else .error }
    moves (.lockInterface n msg) 0x83 (if v.tdi = .unlocked then some .locked else none) ∧
    moves (.getDeviceInterfaceReport n msg) 0x84 (if v.tdi = .locked then some .locked else if v.tdi = .run then some .run else none) ∧
    moves (.startInterface n msg) 0x86 (if v.tdi = .locked then some .run else none) ∧
    moves (.stopInterface n msg) 0x87 (if v.tdi = .error then none else some .unlocked)) ∧
  (∀ s n v msg, s.vf? n = some v → Completes (.ideKmMessage n msg) s fun s' =>
    s' = { s with vfs := s'.vfs, outbox := s.outbox ++ [.answer (some n) (Config.spdmAnswer (n + 1) 0x100 msg)] } ∧
    s'.vf? n = some { v with ide := v.ide || (v.spdm && Config.spdmAccepts (n + 1) 0x100 msg &&
      decide ((s.vfs.filter fun u => u.ide && decide (u.num ≠ n)).length < 256)) }) ∧
  ∀ v : Vf, v.reached = true → v.ide = true ∧ (v.tdi = .run ∨ v.tdi = .error)

/-- Reset, power and the root's fence (R424, R427, R428, R435): the watchdog and an error in root storage fence the root, and a fenced root
accepts no command; MODULE_RESET leaves the power-up state but for DRAM, the journal with its unended commands ended by 0x8D, the assigned
addressing and the retired frames and links; a part without power only waits for POWER_UP, and starts with CLOCK 0 and no function, task or
journal entry; the links of disabled sites are retired after both (R21). The model's choice: what it keeps over a loss of power (log 44),
the reason 0x8D of the unended commands (log 66), and that the new version of the routes is the next one (log 17). -/
def Obligations.ResetPowerAndFence : Prop :=
  (∀ s, s.root.heartbeat + 160000000 ≤ s.clock → exec .watchdogExpiry s = .next { s with root := { s.root with fenced := true } }) ∧
  (∀ s, s.clock < s.root.heartbeat + 160000000 → exec .watchdogExpiry s = .next s) ∧
  (∀ s, exec .rootEccError s = .next { s with root := { s.root with fenced := true } }) ∧
  (∀ (s : State) c, s.root.fenced = true → s.accepted c = false) ∧
  (∀ s, Completes .moduleReset s fun t => t.dram = s.dram ∧ t.segKey = s.segKey ∧ t.host = s.host ∧ t.outbox = s.outbox ∧ t.inputs = s.inputs ∧
    t.clock = 0 ∧ t.issue = none ∧ t.tasks = [] ∧ t.launches = [] ∧ t.graphs = [] ∧ t.jobs = [] ∧ t.vfs = [] ∧ t.parts = [] ∧ t.lines = [] ∧
    t.sectors = [] ∧ t.counters = [] ∧ t.rets = [] ∧ t.root.fenced = false ∧ t.root.slots = [] ∧ t.root.mailbox = {} ∧
    t.root.retired = s.root.retired ∧ t.root.nextSeq = s.root.nextSeq ∧
    t.root.journal = (s.root.journal.map fun e => if e.state < 2 then { e with state := 3, code := 0x8D } else e) ∧
    t.port.node = s.port.node ∧ t.port.slot = s.port.slot ∧ t.port.nodes = s.port.nodes ∧ t.port.version = s.port.version + 1 ∧
    ∀ site port, (t.link site port).level = 0 ∧ ((s.link site port).retired = true → (t.link site port).retired = true ∧ t.linkUp site port = false) ∧
      ∀ site ∈ s.ident.absent, site ≠ 24 → ∀ n ∈ meshNeighbours site, (t.link site n.1).retired = true ∧ t.linkUp site n.1 = false) ∧
  (∀ s, Completes .powerLoss s fun t => t.off = true ∧ t.dram = [] ∧ t.host = s.host ∧ t.root.journal = [] ∧ t.tasks = [] ∧ t.root.retired = s.root.retired) ∧
  (∀ s, s.off = true → Completes .powerUp s fun t => t.off = false ∧ t.clock = 0 ∧ t.root.journal = [] ∧ t.root.nextSeq = 1 ∧ t.vfs = [] ∧
    t.parts = [] ∧ t.tasks = [] ∧ t.port.node = 0xFFFF ∧ t.root.mailbox = {} ∧ t.root.fenced = false ∧
    ∀ site ∈ s.ident.absent, site ≠ 24 → ∀ n ∈ meshNeighbours site, (t.link site n.1).retired = true ∧ t.linkUp site n.1 = false) ∧
  (∀ s, s.off = false → exec .powerUp s = .next s) ∧
  (∀ s, s.off = true → (∀ x rest, s.inputs = x :: rest → x.ev ≠ .powerUp) → step s = .next { s with inputs := s.inputs.drop 1 }) ∧
  (State.reset.clock = 0 ∧ State.reset.root.journal = [] ∧ State.reset.root.nextSeq = 1 ∧ State.reset.port.node = 0xFFFF ∧ State.reset.vfs = [] ∧
    State.reset.parts = [] ∧ State.reset.tasks = [] ∧ State.reset.issue = none ∧ State.reset.off = false ∧ State.reset.root.fenced = false ∧
    State.reset.root.mailbox = {} ∧ Memory.wf State.reset.dram = true ∧ Memory.wf State.reset.host = true ∧
    ∀ r, (State.reset.ret r).fenced = false)

/-! ### Decoding and the step (R48, R51, R53, R54) -/

/-- Words that the specification works out field by field decode to the instructions beside them: one or more of majors 0x06, 0x08, 0x09,
0x22, 0x27, 0x2C, 0x2D, 0x30, 0x31, 0x33, 0x38, 0x3B and 0x3D. -/
def Obligations.SpecWordsDecode : Prop :=
  decodeTableWord 32 0x62650100 = some (.voteCount 20 2) ∧
  decodeTableWord 64 0x020000007B050061 = some (.atoms 4 10 0 12 0 { order := 0, scope := 1, policy := 0, op := 0, ofs := 0 }) ∧
  decodeTableWord 64 0x020000047B098061 = some (.atoms 4 19 0 12 0 { order := 0, scope := 1, policy := 0, op := 0, ofs := 4 }) ∧
  decodeTableWord 32 0x60A30500 = some (.bcastC 12 10) ∧ decodeTableWord 32 0x66234700 = some (.prfx 1 13 14) ∧
  decodeTableWord 32 0x0C000840 = some (.barSync false 1 1) ∧ decodeTableWord 32 0x10185000 = some (.loop 3 2 2) ∧
  decodeTableWord 32 0x12100100 = some (.step false 8 256) ∧ decodeTableWord 32 0x58001040 = some (.cpT 0 8 16) ∧
  decodeTableWord 32 0x58011844 = some (.cpT 1 12 17) ∧ decodeTableWord 32 0x5A030D00 = some (.mldb 12 13) ∧
  decodeTableWord 32 0x5A1040AA = some (.mma 0 16 21 1) ∧ decodeTableWord 32 0x5A5060A0 = some (.mst 0 24 10) ∧
  decodeTableWord 32 0x70828312 = some (.ld 2 5 3 2 1 none) ∧ decodeTableWord 32 0x4E0142A8 = some (.cvt false 0 5 5 5) ∧
  decodeTableWord 32 0x44214307 = some (.ffma false 1 5 6 7) ∧
  decodeTableWord 64 0x000098007702816D = some (.sts 4 5 1 13 2 (some { order := 0, scope := 0, policy := 0, ofs := 0x9800 }))

/-- Decoding and encoding agree (R48, R51, R53, R54): a well-formed instruction that has words decodes from them, whatever the operands; and
a word that decodes is, but for its chain bit, the one word of its instruction, so that every reserved bit is checked. -/
def Obligations.DecodeAndEncodeAgree : Prop :=
  (∀ n i w x, Instr.wf n i = true → encode i = some (w, x) → decodeSlot n w (x.getD 0) = .ok i ∧ hasExt w = x.isSome) ∧
  ∀ n w x i, decodeSlot n w x = .ok i → Instr.wf n i = true ∧
    encode i = some (w &&& 0x7FFFFFFF#32, if hasExt w then some (x &&& 0x7FFFFFFF#32) else none)

/-- A step runs what its words decode to (R46, R47): with a bundle in issue and no hold, the next slot's instruction, its group's snapshot
taken first, each register that an operation has written and no WAIT observed showing its old or its new value, and its hold acted on after;
an input that comes within the bundle acts between two of its slots, where the bundle can go on after it; else the next event from outside,
or the first that the part brings about itself, after which what has become ready goes on; else a cycle passes. The model's choice: the
order of events (log 2), a cycle that passes where nothing else happens (log 3), the state with an instruction in the latch (log 7), which
of the two values a register shows (log 12), and the fault for a word that the fetch would not have let through (log 68). -/
def Obligations.StepRunsWhatIsDecoded : Prop :=
  (∀ s is, s.off = false → s.issue = some is → Undisturbed s is →
    (∀ it rest i, is.blocked = .none → is.items = it :: rest → decodeSlot is.task.shape.regs it.word it.ext = .ok i →
      step s = thenDo (exec i s.beginSlot) (State.afterSlot s.beginSlot)) ∧
    (∀ it rest e, is.blocked = .none → is.items = it :: rest → decodeSlot is.task.shape.regs it.word it.ext = .error e →
      step s = .fault (.latchWord it.word)) ∧
    (is.blocked = .none → is.items = [] → step s = .next (s.endBundle is).settlePort) ∧
    (is.blocked ≠ .none → step s = .next (s.holdBundle is is.blocked).settlePort)) ∧
  (∀ s is x rest t tk c, s.off = false → s.issue = some is → s.inputs = x :: rest → x.within = true →
    exec x.ev (((s.showIssue is).takeInput x rest).tick x.dt) = .next t →
    t.settleStep.task? is.task.uid = some tk → tk.coach? is.coach.num = some c → tk.phase = .running → tk.saveStart = none →
    t.settleStep.issue.isSome = true →
    step s = .next { t.settleStep with issue := some { is with task := tk, coach := c } }) ∧
  (∀ (s : State) (is : Issue) tk, s.task? is.task.uid = some tk → (s.showIssue is).task? is.task.uid = some is.back ∧
    ∀ u, u ≠ is.task.uid → (s.showIssue is).task? u = s.task? u) ∧
  (∀ (is : Issue) co, is.task.coach? is.coach.num = some co → is.back.coach? is.coach.num = some is.coach) ∧
  (∀ s x rest, s.off = false → s.issue = none → s.inputs = x :: rest →
    let s' : State := { s with inputs := rest, host := x.host.foldl (fun m c => tput 0 m c.1 c.2) s.host }
    step s = thenDo (exec x.ev (s'.tick x.dt)) State.settleStep) ∧
  (∀ s e, s.off = false → s.issue = none → s.inputs = [] → s.nextEvent = some e → step s = thenDo (exec e s) State.settleStep ∧ e ∈ s.events) ∧
  (∀ s, s.off = false → s.issue = none → s.inputs = [] → s.nextEvent = none → step s = .next (s.tick 1).settleStep ∧ (s.tick 1).clock = s.clock + 1) ∧
  (∀ (s : State) n w i, decodeTableWord n w = some i →
    step (s.withFetchWord n w) = thenDo (exec i (s.withFetchWord n w).beginSlot) (State.afterSlot (s.withFetchWord n w).beginSlot)) ∧
  ∀ (s : State) (is : Issue), s.issue = some is → (is.coach.fresh.map (·.key)).Nodup →
    ∃ co, s.mixFresh = { s with issue := some { is with coach := co }, freeIx := s.mixFresh.freeIx } ∧
      ∀ r l, l < 64 → match is.coach.fresh.find? fun x => x.key == vkey r l with
        | some x => if is.coach.vget r l = x.shown then co.vget r l = x.old ∨ co.vget r l = x.new else co.vget r l = is.coach.vget r l
        | none => co.vget r l = is.coach.vget r l

/-- Memory stays in its canonical form over every step, from every state that has it (R17, R27; the form is the model's, log 5). -/
def Obligations.MemoryStaysCanonical : Prop :=
  StepKeeps fun s => Memory.wf s.dram = true ∧ Memory.wf s.host = true
end

