-- ==== Sys2Proof/Laws/Dispatch.lean ====
section
/-! SUPPORT. Which meaning `exec` calls for each constructor. -/

namespace Sys2Proof.Laws

open Sys2Proof.Machine

variable (s : State)

theorem exec_bundleFetch {t c} : exec (.bundleFetch t c) s = execBundleFetch t c s := rfl
theorem exec_yieldHintEnd {t c} : exec (.yieldHintEnd t c) s = execYieldHintEnd t c s := rfl
theorem exec_fragmentReady {t c age} : exec (.fragmentReady t c age) s = execFragmentReady t c age s := rfl
theorem exec_issueReservation {t c} : exec (.issueReservation t c) s = execIssueReservation t c s := rfl
theorem exec_fragmentPriority {t c age} : exec (.fragmentPriority t c age) s = execFragmentPriority t c age s := rfl
theorem exec_nop : exec (.nop) s = execNop s := rfl
theorem exec_yieldN {n} : exec (.yieldN n) s = execYieldN n s := rfl
theorem exec_yieldExpiry {t c age} : exec (.yieldExpiry t c age) s = execYieldExpiry t c age s := rfl
theorem exec_srd {gdst d sel} : exec (.srd gdst d sel) s = execSrd gdst d sel s := rfl
theorem exec_swr {src sel} : exec (.swr src sel) s = execSwr src sel s := rfl
theorem exec_trap : exec (.trap) s = execTrap s := rfl
theorem exec_brkpt : exec (.brkpt) s = execBrkpt s := rfl
theorem exec_ctrrd {gdst d m} : exec (.ctrrd gdst d m) s = execCtrrd gdst d m s := rfl
theorem exec_bra {disp} : exec (.bra disp) s = execBra disp s := rfl
theorem exec_bru {disp} : exec (.bru disp) s = execBru disp s := rfl
theorem exec_brd {disp} : exec (.brd disp) s = execBrd disp s := rfl
theorem exec_call {disp} : exec (.call disp) s = execCall disp s := rfl
theorem exec_calli {k} : exec (.calli k) s = execCalli k s := rfl
theorem exec_ret : exec (.ret) s = execRet s := rfl
theorem exec_exit : exec (.exit) s = execExit s := rfl
theorem exec_brxu {k} : exec (.brxu k) s = execBrxu k s := rfl
theorem exec_rcvset {k disp} : exec (.rcvset k disp) s = execRcvset k disp s := rfl
theorem exec_rcvwait {k} : exec (.rcvwait k) s = execRcvwait k s := rfl
theorem exec_plset {n} : exec (.plset n) s = execPlset n s := rfl
theorem exec_plsetr {src} : exec (.plsetr src) s = execPlsetr src s := rfl
theorem exec_csplit {wl} : exec (.csplit wl) s = execCsplit wl s := rfl
theorem exec_csplitComplete {t c} : exec (.csplitComplete t c) s = execCsplitComplete t c s := rfl
theorem exec_cfuse : exec (.cfuse) s = execCfuse s := rfl
theorem exec_barSync {ind id k} : exec (.barSync ind id k) s = execBarSync ind id k s := rfl
theorem exec_barArr {ind id k} : exec (.barArr ind id k) s = execBarArr ind id k s := rfl
theorem exec_barWait {ind id} : exec (.barWait ind id) s = execBarWait ind id s := rfl
theorem exec_barrierArrival {t c id} : exec (.barrierArrival t c id) s = execBarrierArrival t c id s := rfl
theorem exec_wait {l src c t n} : exec (.wait l src c t n) s = execWait l src c t n s := rfl
theorem exec_waitRelease {t c age} : exec (.waitRelease t c age) s = execWaitRelease t c age s := rfl
theorem exec_counterHoldRelease {t c age} : exec (.counterHoldRelease t c age) s = execCounterHoldRelease t c age s := rfl
theorem exec_storeQueueRoom {t c age} : exec (.storeQueueRoom t c age) s = execStoreQueueRoom t c age s := rfl
theorem exec_loop {b t ns} : exec (.loop b t ns) s = execLoop b t ns s := rfl
theorem exec_step {file reg inc} : exec (.step file reg inc) s = execStep file reg inc s := rfl
theorem exec_tend : exec (.tend) s = execTend s := rfl
theorem exec_tspawn {k} : exec (.tspawn k) s = execTspawn k s := rfl
theorem exec_tsig {g} : exec (.tsig g) s = execTsig g s := rfl
theorem exec_iadd {u d a b} : exec (.iadd u d a b) s = execIadd u d a b s := rfl
theorem exec_isub {u d a b} : exec (.isub u d a b) s = execIsub u d a b s := rfl
theorem exec_imin {u d a b} : exec (.imin u d a b) s = execImin u d a b s := rfl
theorem exec_imax {u d a b} : exec (.imax u d a b) s = execImax u d a b s := rfl
theorem exec_iminn {u d a b} : exec (.iminn u d a b) s = execIminn u d a b s := rfl
theorem exec_imaxn {u d a b} : exec (.imaxn u d a b) s = execImaxn u d a b s := rfl
theorem exec_iadds {u d a b} : exec (.iadds u d a b) s = execIadds u d a b s := rfl
theorem exec_isubs {u d a b} : exec (.isubs u d a b) s = execIsubs u d a b s := rfl
theorem exec_and {u d a b} : exec (.and u d a b) s = execAnd u d a b s := rfl
theorem exec_or {u d a b} : exec (.or u d a b) s = execOr u d a b s := rfl
theorem exec_xor {u d a b} : exec (.xor u d a b) s = execXor u d a b s := rfl
theorem exec_andn {u d a b} : exec (.andn u d a b) s = execAndn u d a b s := rfl
theorem exec_shl {u d a b} : exec (.shl u d a b) s = execShl u d a b s := rfl
theorem exec_shr {u d a b} : exec (.shr u d a b) s = execShr u d a b s := rfl
theorem exec_sar {u d a b} : exec (.sar u d a b) s = execSar u d a b s := rfl
theorem exec_rotr {u d a b} : exec (.rotr u d a b) s = execRotr u d a b s := rfl
theorem exec_imul {u d a b} : exec (.imul u d a b) s = execImul u d a b s := rfl
theorem exec_imulh {u d a b} : exec (.imulh u d a b) s = execImulh u d a b s := rfl
theorem exec_imulhn {u d a b} : exec (.imulhn u d a b) s = execImulhn u d a b s := rfl
theorem exec_imad {u d a b} : exec (.imad u d a b) s = execImad u d a b s := rfl
theorem exec_popc {u d a} : exec (.popc u d a) s = execPopc u d a s := rfl
theorem exec_clz {u d a} : exec (.clz u d a) s = execClz u d a s := rfl
theorem exec_brev {u d a} : exec (.brev u d a) s = execBrev u d a s := rfl
theorem exec_bfe {u d a b} : exec (.bfe u d a b) s = execBfe u d a b s := rfl
theorem exec_bfen {u d a b} : exec (.bfen u d a b) s = execBfen u d a b s := rfl
theorem exec_bfi {u d a b} : exec (.bfi u d a b) s = execBfi u d a b s := rfl
theorem exec_bshuf {u d a b} : exec (.bshuf u d a b) s = execBshuf u d a b s := rfl
theorem exec_ffs {u d a} : exec (.ffs u d a) s = execFfs u d a s := rfl
theorem exec_icmp {u cc pd a b} : exec (.icmp u cc pd a b) s = execIcmp u cc pd a b s := rfl
theorem exec_sel {u ps d a b} : exec (.sel u ps d a b) s = execSel u ps d a b s := rfl
theorem exec_lea {u src d a b} : exec (.lea u src d a b) s = execLea u src d a b s := rfl
theorem exec_iaddi {u d a imm} : exec (.iaddi u d a imm) s = execIaddi u d a imm s := rfl
theorem exec_andi {u d a imm} : exec (.andi u d a imm) s = execAndi u d a imm s := rfl
theorem exec_ori {u d a imm} : exec (.ori u d a imm) s = execOri u d a imm s := rfl
theorem exec_xori {u d a imm} : exec (.xori u d a imm) s = execXori u d a imm s := rfl
theorem exec_shli {u d a imm} : exec (.shli u d a imm) s = execShli u d a imm s := rfl
theorem exec_shri {u d a imm} : exec (.shri u d a imm) s = execShri u d a imm s := rfl
theorem exec_sari {u d a imm} : exec (.sari u d a imm) s = execSari u d a imm s := rfl
theorem exec_icmpiEq {u pd a imm} : exec (.icmpiEq u pd a imm) s = execIcmpiEq u pd a imm s := rfl
theorem exec_movi {u d imm} : exec (.movi u d imm) s = execMovi u d imm s := rfl
theorem exec_moviH {u d imm} : exec (.moviH u d imm) s = execMoviH u d imm s := rfl
theorem exec_iaddCo {u d a b} : exec (.iaddCo u d a b) s = execIaddCo u d a b s := rfl
theorem exec_iaddCiCo {u d a b} : exec (.iaddCiCo u d a b) s = execIaddCiCo u d a b s := rfl
theorem exec_isubBo {u d a b} : exec (.isubBo u d a b) s = execIsubBo u d a b s := rfl
theorem exec_isubBiBo {u d a b} : exec (.isubBiBo u d a b) s = execIsubBiBo u d a b s := rfl
theorem exec_fadd {u rnd d a b} : exec (.fadd u rnd d a b) s = execFadd u rnd d a b s := rfl
theorem exec_fsub {u rnd d a b} : exec (.fsub u rnd d a b) s = execFsub u rnd d a b s := rfl
theorem exec_fmul {u rnd d a b} : exec (.fmul u rnd d a b) s = execFmul u rnd d a b s := rfl
theorem exec_ffma {u rnd d a b} : exec (.ffma u rnd d a b) s = execFfma u rnd d a b s := rfl
theorem exec_fmin {u d a b} : exec (.fmin u d a b) s = execFmin u d a b s := rfl
theorem exec_fmax {u d a b} : exec (.fmax u d a b) s = execFmax u d a b s := rfl
theorem exec_fminm {u d a b} : exec (.fminm u d a b) s = execFminm u d a b s := rfl
theorem exec_fmaxm {u d a b} : exec (.fmaxm u d a b) s = execFmaxm u d a b s := rfl
theorem exec_fabs {u d a} : exec (.fabs u d a) s = execFabs u d a s := rfl
theorem exec_fneg {u d a} : exec (.fneg u d a) s = execFneg u d a s := rfl
theorem exec_fcopysign {u d a b} : exec (.fcopysign u d a b) s = execFcopysign u d a b s := rfl
theorem exec_fclass {u d a} : exec (.fclass u d a) s = execFclass u d a s := rfl
theorem exec_fcmp {u cc pd a b} : exec (.fcmp u cc pd a b) s = execFcmp u cc pd a b s := rfl
theorem exec_rcp {u rnd d a} : exec (.rcp u rnd d a) s = execRcp u rnd d a s := rfl
theorem exec_rsq {u rnd d a} : exec (.rsq u rnd d a) s = execRsq u rnd d a s := rfl
theorem exec_sqrt {u rnd d a} : exec (.sqrt u rnd d a) s = execSqrt u rnd d a s := rfl
theorem exec_exp2 {u rnd d a} : exec (.exp2 u rnd d a) s = execExp2 u rnd d a s := rfl
theorem exec_log2 {u rnd d a} : exec (.log2 u rnd d a) s = execLog2 u rnd d a s := rfl
theorem exec_sinpi {u rnd d a} : exec (.sinpi u rnd d a) s = execSinpi u rnd d a s := rfl
theorem exec_cospi {u rnd d a} : exec (.cospi u rnd d a) s = execCospi u rnd d a s := rfl
theorem exec_tanh {u rnd d a} : exec (.tanh u rnd d a) s = execTanh u rnd d a s := rfl
theorem exec_cvt {u rnd d a code} : exec (.cvt u rnd d a code) s = execCvt u rnd d a code s := rfl
theorem exec_badd2 {rnd d a b} : exec (.badd2 rnd d a b) s = execBadd2 rnd d a b s := rfl
theorem exec_bmul2 {rnd d a b} : exec (.bmul2 rnd d a b) s = execBmul2 rnd d a b s := rfl
theorem exec_bfma2 {rnd d a b} : exec (.bfma2 rnd d a b) s = execBfma2 rnd d a b s := rfl
theorem exec_rand {d} : exec (.rand d) s = execRand d s := rfl
theorem exec_randf {d} : exec (.randf d) s = execRandf d s := rfl
theorem exec_idxO {d a b} : exec (.idxO d a b) s = execIdxO d a b s := rfl
theorem exec_idxC {d a b} : exec (.idxC d a b) s = execIdxC d a b s := rfl
theorem exec_upC {d a b} : exec (.upC d a b) s = execUpC d a b s := rfl
theorem exec_downC {d a b} : exec (.downC d a b) s = execDownC d a b s := rfl
theorem exec_xorC {d a b} : exec (.xorC d a b) s = execXorC d a b s := rfl
theorem exec_bcastC {d a} : exec (.bcastC d a) s = execBcastC d a s := rfl
theorem exec_voteAny {qd pa} : exec (.voteAny qd pa) s = execVoteAny qd pa s := rfl
theorem exec_voteAll {qd pa} : exec (.voteAll qd pa) s = execVoteAll qd pa s := rfl
theorem exec_voteBallot {gd pa} : exec (.voteBallot gd pa) s = execVoteBallot gd pa s := rfl
theorem exec_voteCount {gd pa} : exec (.voteCount gd pa) s = execVoteCount gd pa s := rfl
theorem exec_voteFirst {gd pa} : exec (.voteFirst gd pa) s = execVoteFirst gd pa s := rfl
theorem exec_rdc {op gd a} : exec (.rdc op gd a) s = execRdc op gd a s := rfl
theorem exec_prfx {form d a} : exec (.prfx form d a) s = execPrfx form d a s := rfl
theorem exec_ld {size d o k scale x} : exec (.ld size d o k scale x) s = execLd size d o k scale x s := rfl
theorem exec_st {size d o k scale x} : exec (.st size d o k scale x) s = execSt size d o k scale x s := rfl
theorem exec_lds {size d o k scale x} : exec (.lds size d o k scale x) s = execLds size d o k scale x s := rfl
theorem exec_sts {size d o k scale x} : exec (.sts size d o k scale x) s = execSts size d o k scale x s := rfl
theorem exec_atom {size d o k scale x} : exec (.atom size d o k scale x) s = execAtom size d o k scale x s := rfl
theorem exec_atoms {size d o k scale x} : exec (.atoms size d o k scale x) s = execAtoms size d o k scale x s := rfl
theorem exec_loadComplete {t c seq lanes remote} : exec (.loadComplete t c seq lanes remote) s = execLoadComplete t c seq lanes remote s := rfl
theorem exec_storePerformed {t c lanes} : exec (.storePerformed t c lanes) s = execStorePerformed t c lanes s := rfl
theorem exec_fence {scope kind} : exec (.fence scope kind) s = execFence scope kind s := rfl
theorem exec_fenceComplete {t c seq} : exec (.fenceComplete t c seq) s = execFenceComplete t c seq s := rfl
theorem exec_pin {d a pitch} : exec (.pin d a pitch) s = execPin d a pitch s := rfl
theorem exec_unpin {a pitch} : exec (.unpin a pitch) s = execUnpin a pitch s := rfl
theorem exec_pf {a pitch level} : exec (.pf a pitch level) s = execPf a pitch level s := rfl
theorem exec_ldaxis {d a pitch width} : exec (.ldaxis d a pitch width) s = execLdaxis d a pitch width s := rfl
theorem exec_remoteRequestArrive {ret req} : exec (.remoteRequestArrive ret req) s = execRemoteRequestArrive ret req s := rfl
theorem exec_remoteRefusal {t c seq} : exec (.remoteRefusal t c seq) s = execRemoteRefusal t c seq s := rfl
theorem exec_classTimeout {t c seq} : exec (.classTimeout t c seq) s = execClassTimeout t c seq s := rfl
theorem exec_cpT {n c src} : exec (.cpT n c src) s = execCpT n c src s := rfl
theorem exec_cpLLd {a src} : exec (.cpLLd a src) s = execCpLLd a src s := rfl
theorem exec_cpLSt {a src} : exec (.cpLSt a src) s = execCpLSt a src s := rfl
theorem exec_cpSeal {g} : exec (.cpSeal g) s = execCpSeal g s := rfl
theorem exec_cpQry {g} : exec (.cpQry g) s = execCpQry g s := rfl
theorem exec_copyChunkWrite {t c seq idx remote} : exec (.copyChunkWrite t c seq idx remote) s = execCopyChunkWrite t c seq idx remote s := rfl
theorem exec_batchComplete {t c} : exec (.batchComplete t c) s = execBatchComplete t c s := rfl
theorem exec_mldb {gd gs} : exec (.mldb gd gs) s = execMldb gd gs s := rfl
theorem exec_mldbComplete {t c seq} : exec (.mldbComplete t c seq) s = execMldbComplete t c seq s := rfl
theorem exec_mma {ac a t afmt} : exec (.mma ac a t afmt) s = execMma ac a t afmt s := rfl
theorem exec_mmg {ac a t afmt} : exec (.mmg ac a t afmt) s = execMmg ac a t afmt s := rfl
theorem exec_matrixPassStart {t group} : exec (.matrixPassStart t group) s = execMatrixPassStart t group s := rfl
theorem exec_matrixPartComplete {t c seq octet} : exec (.matrixPartComplete t c seq octet) s = execMatrixPartComplete t c seq octet s := rfl
theorem exec_mzero {ac} : exec (.mzero ac) s = execMzero ac s := rfl
theorem exec_mrd {ac col d} : exec (.mrd ac col d) s = execMrd ac col d s := rfl
theorem exec_mst {ac a gc} : exec (.mst ac a gc) s = execMst ac a gc s := rfl
theorem exec_mstSc {ac a gc} : exec (.mstSc ac a gc) s = execMstSc ac a gc s := rfl
theorem exec_mstPartComplete {t c seq octet} : exec (.mstPartComplete t c seq octet) s = execMstPartComplete t c seq octet s := rfl
theorem exec_mqry {gd gt clr} : exec (.mqry gd gt clr) s = execMqry gd gt clr s := rfl
theorem exec_postW {a src scope tc} : exec (.postW a src scope tc) s = execPostW a src scope tc s := rfl
theorem exec_postS {a ind scope tc} : exec (.postS a ind scope tc) s = execPostS a ind scope tc s := rfl
theorem exec_postQ {a src scope tc fmt} : exec (.postQ a src scope tc fmt) s = execPostQ a src scope tc fmt s := rfl
theorem exec_postComplete {t c seq} : exec (.postComplete t c seq) s = execPostComplete t c seq s := rfl
theorem exec_coll {src g scope tc} : exec (.coll src g scope tc) s = execColl src g scope tc s := rfl
theorem exec_collInstanceProceed {vf grp k remote} : exec (.collInstanceProceed vf grp k remote) s = execCollInstanceProceed vf grp k remote s := rfl
theorem exec_collComplete {t c seq} : exec (.collComplete t c seq) s = execCollComplete t c seq s := rfl
theorem exec_collTimeout {vf grp k} : exec (.collTimeout vf grp k) s = execCollTimeout vf grp k s := rfl
theorem exec_collWithdrawMsg {vf grp k} : exec (.collWithdrawMsg vf grp k) s = execCollWithdrawMsg vf grp k s := rfl
theorem exec_nxqry {gd gg sel} : exec (.nxqry gd gg sel) s = execNxqry gd gg sel s := rfl
theorem exec_taskStopTimeout {t} : exec (.taskStopTimeout t) s = execTaskStopTimeout t s := rfl
theorem exec_taskComplete {t} : exec (.taskComplete t) s = execTaskComplete t s := rfl
theorem exec_graphStart {g} : exec (.graphStart g) s = execGraphStart g s := rfl
theorem exec_nodeComplete {g n} : exec (.nodeComplete g n) s = execNodeComplete g n s := rfl
theorem exec_tsigApply {t} : exec (.tsigApply t) s = execTsigApply t s := rfl
theorem exec_tspawnApply {t} : exec (.tspawnApply t) s = execTspawnApply t s := rfl
theorem exec_spawnEntryFree {ret} : exec (.spawnEntryFree ret) s = execSpawnEntryFree ret s := rfl
theorem exec_copyNodePerformed {g n remote} : exec (.copyNodePerformed g n remote) s = execCopyNodePerformed g n remote s := rfl
theorem exec_chunkReport {l ind} : exec (.chunkReport l ind) s = execChunkReport l ind s := rfl
theorem exec_taskTranslate {t} : exec (.taskTranslate t) s = execTaskTranslate t s := rfl
theorem exec_atsTranslationCompletion {t va pa r w} : exec (.atsTranslationCompletion t va pa r w) s = execAtsTranslationCompletion t va pa r w s := rfl
theorem exec_prgResponse {t va code} : exec (.prgResponse t va code) s = execPrgResponse t va code s := rfl
theorem exec_taskPlace {ret} : exec (.taskPlace ret) s = execTaskPlace ret s := rfl
theorem exec_coopLaunchPlace {l} : exec (.coopLaunchPlace l) s = execCoopLaunchPlace l s := rfl
theorem exec_atsInvalidationRequest {vf va len} : exec (.atsInvalidationRequest vf va len) s = execAtsInvalidationRequest vf va len s := rfl
theorem exec_invalidationComplete {ind} : exec (.invalidationComplete ind) s = execInvalidationComplete ind s := rfl
theorem exec_budgetPeriod {ret} : exec (.budgetPeriod ret) s = execBudgetPeriod ret s := rfl
theorem exec_preemptSave {t} : exec (.preemptSave t) s = execPreemptSave t s := rfl
theorem exec_preemptTimeout {t} : exec (.preemptTimeout t) s = execPreemptTimeout t s := rfl
theorem exec_preemptForced {t} : exec (.preemptForced t) s = execPreemptForced t s := rfl
theorem exec_taskRestore {t} : exec (.taskRestore t) s = execTaskRestore t s := rfl
theorem exec_eccUncorrectable {site} : exec (.eccUncorrectable site) s = execEccUncorrectable site s := rfl
theorem exec_scratchEccUncorrectable {t} : exec (.scratchEccUncorrectable t) s = execScratchEccUncorrectable t s := rfl
theorem exec_fillCountPeriod {ret} : exec (.fillCountPeriod ret) s = execFillCountPeriod ret s := rfl
theorem exec_frameMigrate {vf frame} : exec (.frameMigrate vf frame) s = execFrameMigrate vf frame s := rfl
theorem exec_frameSettleEnd {vf frame} : exec (.frameSettleEnd vf frame) s = execFrameSettleEnd vf frame s := rfl
theorem exec_temperatureTrip {ret} : exec (.temperatureTrip ret) s = execTemperatureTrip ret s := rfl
theorem exec_flitReceive {site port ch bits} : exec (.flitReceive site port ch bits) s = execFlitReceive site port ch bits s := rfl
theorem exec_drainRaise {site ch} : exec (.drainRaise site ch) s = execDrainRaise site ch s := rfl
theorem exec_nakReceive {site port lack} : exec (.nakReceive site port lack) s = execNakReceive site port lack s := rfl
theorem exec_retrainComplete {site port} : exec (.retrainComplete site port) s = execRetrainComplete site port s := rfl
theorem exec_retrainDecay {site port} : exec (.retrainDecay site port) s = execRetrainDecay site port s := rfl
theorem exec_laserFailure {site fibre} : exec (.laserFailure site fibre) s = execLaserFailure site fibre s := rfl
theorem exec_keyRotationRequest {site port} : exec (.keyRotationRequest site port) s = execKeyRotationRequest site port s := rfl
theorem exec_keyInstall {site port incoming} : exec (.keyInstall site port incoming) s = execKeyInstall site port incoming s := rfl
theorem exec_flitCountLimit {site port} : exec (.flitCountLimit site port) s = execFlitCountLimit site port s := rfl
theorem exec_reflectometryProbe {site fibre dir event dist loss} : exec (.reflectometryProbe site fibre dir event dist loss) s = execReflectometryProbe site fibre dir event dist loss s := rfl
theorem exec_uetPacketReceive {ret peer psn f} : exec (.uetPacketReceive ret peer psn f) s = execUetPacketReceive ret peer psn f s := rfl
theorem exec_uetSackReceive {ret peer acked missing} : exec (.uetSackReceive ret peer acked missing) s = execUetSackReceive ret peer acked missing s := rfl
theorem exec_uetRetransmitTimer {ret peer psn} : exec (.uetRetransmitTimer ret peer psn) s = execUetRetransmitTimer ret peer psn s := rfl
theorem exec_rootMessage {srcRet srcNode payload} : exec (.rootMessage srcRet srcNode payload) s = execRootMessage srcRet srcNode payload s := rfl
theorem exec_submissionRead : exec (.submissionRead) s = execSubmissionRead s := rfl
theorem exec_createVf {cmd} : exec (.createVf cmd) s = execCreateVf cmd s := rfl
theorem exec_assign {cmd} : exec (.assign cmd) s = execAssign cmd s := rfl
theorem exec_loadPolicy {cmd} : exec (.loadPolicy cmd) s = execLoadPolicy cmd s := rfl
theorem exec_pause {cmd} : exec (.pause cmd) s = execPause cmd s := rfl
theorem exec_resume {cmd} : exec (.resume cmd) s = execResume cmd s := rfl
theorem exec_evict {cmd} : exec (.evict cmd) s = execEvict cmd s := rfl
theorem exec_resetVf {cmd} : exec (.resetVf cmd) s = execResetVf cmd s := rfl
theorem exec_destroy {cmd} : exec (.destroy cmd) s = execDestroy cmd s := rfl
theorem exec_readJournal {cmd} : exec (.readJournal cmd) s = execReadJournal cmd s := rfl
theorem exec_queryCounters {cmd} : exec (.queryCounters cmd) s = execQueryCounters cmd s := rfl
theorem exec_linkRestore {cmd} : exec (.linkRestore cmd) s = execLinkRestore cmd s := rfl
theorem exec_identify {cmd} : exec (.identify cmd) s = execIdentify cmd s := rfl
theorem exec_podForm {cmd} : exec (.podForm cmd) s = execPodForm cmd s := rfl
theorem exec_nodeTable {cmd} : exec (.nodeTable cmd) s = execNodeTable cmd s := rfl
theorem exec_submit {cmd} : exec (.submit cmd) s = execSubmit cmd s := rfl
theorem exec_cancel {cmd} : exec (.cancel cmd) s = execCancel cmd s := rfl
theorem exec_setS1root {cmd} : exec (.setS1root cmd) s = execSetS1root cmd s := rfl
theorem exec_s1Inval {cmd} : exec (.s1Inval cmd) s = execS1Inval cmd s := rfl
theorem exec_ctrConfig {cmd} : exec (.ctrConfig cmd) s = execCtrConfig cmd s := rfl
theorem exec_rekey {cmd} : exec (.rekey cmd) s = execRekey cmd s := rfl
theorem exec_migrate {cmd} : exec (.migrate cmd) s = execMigrate cmd s := rfl
theorem exec_pausemaxExpiry {vf} : exec (.pausemaxExpiry vf) s = execPausemaxExpiry vf s := rfl
theorem exec_watchdogExpiry : exec (.watchdogExpiry) s = execWatchdogExpiry s := rfl
theorem exec_journalRecopy {ret} : exec (.journalRecopy ret) s = execJournalRecopy ret s := rfl
theorem exec_zeroiseConfirm {slot ret} : exec (.zeroiseConfirm slot ret) s = execZeroiseConfirm slot ret s := rfl
theorem exec_interlockResultWritten {t c} : exec (.interlockResultWritten t c) s = execInterlockResultWritten t c s := rfl
theorem exec_creditExhausted {ret part} : exec (.creditExhausted ret part) s = execCreditExhausted ret part s := rfl
theorem exec_frameReencrypted {part frame} : exec (.frameReencrypted part frame) s = execFrameReencrypted part frame s := rfl
theorem exec_evictImageWritten {vf} : exec (.evictImageWritten vf) s = execEvictImageWritten vf s := rfl
theorem exec_mbctlWrite {fn val} : exec (.mbctlWrite fn val) s = execMbctlWrite fn val s := rfl
theorem exec_sqtailDoorbell {fn val} : exec (.sqtailDoorbell fn val) s = execSqtailDoorbell fn val s := rfl
theorem exec_cqheadDoorbell {fn val} : exec (.cqheadDoorbell fn val) s = execCqheadDoorbell fn val s := rfl
theorem exec_registerWrite {fn off val} : exec (.registerWrite fn off val) s = execRegisterWrite fn off val s := rfl
theorem exec_moduleReset : exec (.moduleReset) s = execModuleReset s := rfl
theorem exec_powerLoss : exec (.powerLoss) s = execPowerLoss s := rfl
theorem exec_powerUp : exec (.powerUp) s = execPowerUp s := rfl
theorem exec_uncorrectableStateError {ret} : exec (.uncorrectableStateError ret) s = execUncorrectableStateError ret s := rfl
theorem exec_keySlotEccError {slot} : exec (.keySlotEccError slot) s = execKeySlotEccError slot s := rfl
theorem exec_rootEccError : exec (.rootEccError) s = execRootEccError s := rfl
theorem exec_getVersion {vf msg} : exec (.getVersion vf msg) s = execGetVersion vf msg s := rfl
theorem exec_getCapabilities {vf msg} : exec (.getCapabilities vf msg) s = execGetCapabilities vf msg s := rfl
theorem exec_negotiateAlgorithms {vf msg} : exec (.negotiateAlgorithms vf msg) s = execNegotiateAlgorithms vf msg s := rfl
theorem exec_getDigests {vf msg} : exec (.getDigests vf msg) s = execGetDigests vf msg s := rfl
theorem exec_getCertificate {vf msg} : exec (.getCertificate vf msg) s = execGetCertificate vf msg s := rfl
theorem exec_challenge {vf msg} : exec (.challenge vf msg) s = execChallenge vf msg s := rfl
theorem exec_getMeasurements {vf msg} : exec (.getMeasurements vf msg) s = execGetMeasurements vf msg s := rfl
theorem exec_keyExchange {vf msg} : exec (.keyExchange vf msg) s = execKeyExchange vf msg s := rfl
theorem exec_finish {vf msg} : exec (.finish vf msg) s = execFinish vf msg s := rfl
theorem exec_keyUpdate {vf msg} : exec (.keyUpdate vf msg) s = execKeyUpdate vf msg s := rfl
theorem exec_heartbeat {vf msg} : exec (.heartbeat vf msg) s = execHeartbeat vf msg s := rfl
theorem exec_endSession {vf msg} : exec (.endSession vf msg) s = execEndSession vf msg s := rfl
theorem exec_vendorDefinedRequest {vf msg} : exec (.vendorDefinedRequest vf msg) s = execVendorDefinedRequest vf msg s := rfl
theorem exec_lockInterface {vf msg} : exec (.lockInterface vf msg) s = execLockInterface vf msg s := rfl
theorem exec_getDeviceInterfaceReport {vf msg} : exec (.getDeviceInterfaceReport vf msg) s = execGetDeviceInterfaceReport vf msg s := rfl
theorem exec_startInterface {vf msg} : exec (.startInterface vf msg) s = execStartInterface vf msg s := rfl
theorem exec_stopInterface {vf msg} : exec (.stopInterface vf msg) s = execStopInterface vf msg s := rfl
theorem exec_ideKmMessage {vf msg} : exec (.ideKmMessage vf msg) s = execIdeKmMessage vf msg s := rfl

end Sys2Proof.Laws
end

