-- ==== Sys2Proof/Laws/Encoding.lean ====
section
/-! SUPPORT. The fields of words as the four formats lay them out (R48): what each reader of Decode.lean reads from a word that
Decode.lean's encoder built. -/

namespace Sys2Proof.Laws

theorem t3_major (m u k d a b) : majorOf (t3 m u k d a b) = m.toNat := by
  unfold t3 majorOf bits
  refine congrArg BitVec.toNat ?_
  refine (BitVec.extractLsb'_append_eq_of_le (by decide)).trans ?_
  refine (BitVec.extractLsb'_append_eq_of_le (by decide)).trans ?_
  refine (BitVec.extractLsb'_append_eq_of_le (by decide)).trans ?_
  refine (BitVec.extractLsb'_append_eq_of_le (by decide)).trans ?_
  refine (BitVec.extractLsb'_append_eq_of_le (by decide)).trans ?_
  refine (BitVec.extractLsb'_append_eq_of_add_le (by decide)).trans ?_
  exact BitVec.extractLsb'_eq_self

theorem t3_u (m u k d a b) : (t3 m u k d a b).getLsbD 24 = u := by
  have h : (t3 m u k d a b).extractLsb' 24 1 = BitVec.ofBool u := by
    unfold t3
    refine (BitVec.extractLsb'_append_eq_of_le (by decide)).trans ?_
    refine (BitVec.extractLsb'_append_eq_of_le (by decide)).trans ?_
    refine (BitVec.extractLsb'_append_eq_of_le (by decide)).trans ?_
    refine (BitVec.extractLsb'_append_eq_of_le (by decide)).trans ?_
    refine (BitVec.extractLsb'_append_eq_of_add_le (by decide)).trans ?_
    exact BitVec.extractLsb'_eq_self
  have h' := congrArg (fun x : BitVec 1 => x.getLsbD 0) h
  simpa using h'

theorem t3_minor (m u k d a b) : bits (t3 m u k d a b) 21 3 = k := by
  unfold t3 bits
  refine (BitVec.extractLsb'_append_eq_of_le (by decide)).trans ?_
  refine (BitVec.extractLsb'_append_eq_of_le (by decide)).trans ?_
  refine (BitVec.extractLsb'_append_eq_of_le (by decide)).trans ?_
  refine (BitVec.extractLsb'_append_eq_of_add_le (by decide)).trans ?_
  exact BitVec.extractLsb'_eq_self

theorem t3_d (m u k d a b) : bits (t3 m u k d a b) 14 7 = d := by
  unfold t3 bits
  refine (BitVec.extractLsb'_append_eq_of_le (by decide)).trans ?_
  refine (BitVec.extractLsb'_append_eq_of_le (by decide)).trans ?_
  refine (BitVec.extractLsb'_append_eq_of_add_le (by decide)).trans ?_
  exact BitVec.extractLsb'_eq_self

theorem t3_a (m u k d a b) : bits (t3 m u k d a b) 7 7 = a := by
  unfold t3 bits
  refine (BitVec.extractLsb'_append_eq_of_le (by decide)).trans ?_
  refine (BitVec.extractLsb'_append_eq_of_add_le (by decide)).trans ?_
  exact BitVec.extractLsb'_eq_self

theorem t3_b (m u k d a b) : bits (t3 m u k d a b) 0 7 = b := by
  unfold t3 bits
  refine (BitVec.extractLsb'_append_eq_of_add_le (by decide)).trans ?_
  exact BitVec.extractLsb'_eq_self

theorem sWord_major (m k r) : majorOf (sWord m k r) = m.toNat := by
  unfold sWord majorOf bits
  refine congrArg BitVec.toNat ?_
  refine (BitVec.extractLsb'_append_eq_of_le (by decide)).trans ?_
  refine (BitVec.extractLsb'_append_eq_of_le (by decide)).trans ?_
  refine (BitVec.extractLsb'_append_eq_of_add_le (by decide)).trans ?_
  exact BitVec.extractLsb'_eq_self

theorem sWord_minor (m k r) : minorS (sWord m k r) = k.toNat := by
  unfold sWord minorS bits
  refine congrArg BitVec.toNat ?_
  refine (BitVec.extractLsb'_append_eq_of_le (by decide)).trans ?_
  refine (BitVec.extractLsb'_append_eq_of_add_le (by decide)).trans ?_
  exact BitVec.extractLsb'_eq_self

/-- A field of an S-format word lies in its last 20 bits. -/
theorem sWord_rest (m k r) (i n : Nat) (h : i + n ≤ 20) : bits (sWord m k r) i n = r.extractLsb' i n := by
  unfold sWord bits
  exact BitVec.extractLsb'_append_eq_of_add_le h

theorem bWord_major (m k d) : majorOf (bWord m k d) = m.toNat := by
  unfold bWord majorOf bits
  refine congrArg BitVec.toNat ?_
  refine (BitVec.extractLsb'_append_eq_of_le (by decide)).trans ?_
  refine (BitVec.extractLsb'_append_eq_of_le (by decide)).trans ?_
  refine (BitVec.extractLsb'_append_eq_of_add_le (by decide)).trans ?_
  exact BitVec.extractLsb'_eq_self

theorem bWord_kind (m k d) : bits (bWord m k d) 23 2 = k := by
  unfold bWord bits
  refine (BitVec.extractLsb'_append_eq_of_le (by decide)).trans ?_
  refine (BitVec.extractLsb'_append_eq_of_add_le (by decide)).trans ?_
  exact BitVec.extractLsb'_eq_self

theorem bWord_disp (m k d) : bits (bWord m k d) 0 23 = d := by
  unfold bWord bits
  refine (BitVec.extractLsb'_append_eq_of_add_le (by decide)).trans ?_
  exact BitVec.extractLsb'_eq_self

end Sys2Proof.Laws
end

