-- ==== Sys2Proof/Laws/State.lean ====
section
/-! SUPPORT. What each named update of the state leaves in each field. -/

namespace Sys2Proof.Laws

open Sys2Proof.Machine

variable (s : State)

@[simp] theorem onIssue_off (f : Issue → Issue) : (s.onIssue f).off = s.off := rfl
@[simp] theorem onIssue_ident (f : Issue → Issue) : (s.onIssue f).ident = s.ident := rfl
@[simp] theorem onIssue_clock (f : Issue → Issue) : (s.onIssue f).clock = s.clock := rfl
@[simp] theorem onIssue_inputs (f : Issue → Issue) : (s.onIssue f).inputs = s.inputs := rfl
@[simp] theorem onIssue_freeIx (f : Issue → Issue) : (s.onIssue f).freeIx = s.freeIx := rfl
@[simp] theorem onIssue_issue (f : Issue → Issue) : (s.onIssue f).issue = s.issue.map f := rfl
@[simp] theorem onIssue_tasks (f : Issue → Issue) : (s.onIssue f).tasks = s.tasks := rfl
@[simp] theorem onIssue_nextUid (f : Issue → Issue) : (s.onIssue f).nextUid = s.nextUid := rfl
@[simp] theorem onIssue_launches (f : Issue → Issue) : (s.onIssue f).launches = s.launches := rfl
@[simp] theorem onIssue_graphs (f : Issue → Issue) : (s.onIssue f).graphs = s.graphs := rfl
@[simp] theorem onIssue_jobs (f : Issue → Issue) : (s.onIssue f).jobs = s.jobs := rfl
@[simp] theorem onIssue_dram (f : Issue → Issue) : (s.onIssue f).dram = s.dram := rfl
@[simp] theorem onIssue_segKey (f : Issue → Issue) : (s.onIssue f).segKey = s.segKey := rfl
@[simp] theorem onIssue_sectors (f : Issue → Issue) : (s.onIssue f).sectors = s.sectors := rfl
@[simp] theorem onIssue_lines (f : Issue → Issue) : (s.onIssue f).lines = s.lines := rfl
@[simp] theorem onIssue_accs (f : Issue → Issue) : (s.onIssue f).accs = s.accs := rfl
@[simp] theorem onIssue_accOwner (f : Issue → Issue) : (s.onIssue f).accOwner = s.accOwner := rfl
@[simp] theorem onIssue_host (f : Issue → Issue) : (s.onIssue f).host = s.host := rfl
@[simp] theorem onIssue_parts (f : Issue → Issue) : (s.onIssue f).parts = s.parts := rfl
@[simp] theorem onIssue_vfs (f : Issue → Issue) : (s.onIssue f).vfs = s.vfs := rfl
@[simp] theorem onIssue_root (f : Issue → Issue) : (s.onIssue f).root = s.root := rfl
@[simp] theorem onIssue_port (f : Issue → Issue) : (s.onIssue f).port = s.port := rfl
@[simp] theorem onIssue_links (f : Issue → Issue) : (s.onIssue f).links = s.links := rfl
@[simp] theorem onIssue_switches (f : Issue → Issue) : (s.onIssue f).switches = s.switches := rfl
@[simp] theorem onIssue_uet (f : Issue → Issue) : (s.onIssue f).uet = s.uet := rfl
@[simp] theorem onIssue_counters (f : Issue → Issue) : (s.onIssue f).counters = s.counters := rfl
@[simp] theorem onIssue_contexts (f : Issue → Issue) : (s.onIssue f).contexts = s.contexts := rfl
@[simp] theorem onIssue_rets (f : Issue → Issue) : (s.onIssue f).rets = s.rets := rfl
@[simp] theorem onIssue_outbox (f : Issue → Issue) : (s.onIssue f).outbox = s.outbox := rfl

@[simp] theorem modTask_off (t : Nat) (f : Task → Task) : (s.modTask t f).off = s.off := rfl
@[simp] theorem modTask_ident (t : Nat) (f : Task → Task) : (s.modTask t f).ident = s.ident := rfl
@[simp] theorem modTask_clock (t : Nat) (f : Task → Task) : (s.modTask t f).clock = s.clock := rfl
@[simp] theorem modTask_inputs (t : Nat) (f : Task → Task) : (s.modTask t f).inputs = s.inputs := rfl
@[simp] theorem modTask_freeIx (t : Nat) (f : Task → Task) : (s.modTask t f).freeIx = s.freeIx := rfl
@[simp] theorem modTask_issue (t : Nat) (f : Task → Task) : (s.modTask t f).issue = s.issue := rfl
@[simp] theorem modTask_nextUid (t : Nat) (f : Task → Task) : (s.modTask t f).nextUid = s.nextUid := rfl
@[simp] theorem modTask_launches (t : Nat) (f : Task → Task) : (s.modTask t f).launches = s.launches := rfl
@[simp] theorem modTask_graphs (t : Nat) (f : Task → Task) : (s.modTask t f).graphs = s.graphs := rfl
@[simp] theorem modTask_jobs (t : Nat) (f : Task → Task) : (s.modTask t f).jobs = s.jobs := rfl
@[simp] theorem modTask_dram (t : Nat) (f : Task → Task) : (s.modTask t f).dram = s.dram := rfl
@[simp] theorem modTask_segKey (t : Nat) (f : Task → Task) : (s.modTask t f).segKey = s.segKey := rfl
@[simp] theorem modTask_sectors (t : Nat) (f : Task → Task) : (s.modTask t f).sectors = s.sectors := rfl
@[simp] theorem modTask_lines (t : Nat) (f : Task → Task) : (s.modTask t f).lines = s.lines := rfl
@[simp] theorem modTask_accs (t : Nat) (f : Task → Task) : (s.modTask t f).accs = s.accs := rfl
@[simp] theorem modTask_accOwner (t : Nat) (f : Task → Task) : (s.modTask t f).accOwner = s.accOwner := rfl
@[simp] theorem modTask_host (t : Nat) (f : Task → Task) : (s.modTask t f).host = s.host := rfl
@[simp] theorem modTask_parts (t : Nat) (f : Task → Task) : (s.modTask t f).parts = s.parts := rfl
@[simp] theorem modTask_vfs (t : Nat) (f : Task → Task) : (s.modTask t f).vfs = s.vfs := rfl
@[simp] theorem modTask_root (t : Nat) (f : Task → Task) : (s.modTask t f).root = s.root := rfl
@[simp] theorem modTask_port (t : Nat) (f : Task → Task) : (s.modTask t f).port = s.port := rfl
@[simp] theorem modTask_links (t : Nat) (f : Task → Task) : (s.modTask t f).links = s.links := rfl
@[simp] theorem modTask_switches (t : Nat) (f : Task → Task) : (s.modTask t f).switches = s.switches := rfl
@[simp] theorem modTask_uet (t : Nat) (f : Task → Task) : (s.modTask t f).uet = s.uet := rfl
@[simp] theorem modTask_counters (t : Nat) (f : Task → Task) : (s.modTask t f).counters = s.counters := rfl
@[simp] theorem modTask_contexts (t : Nat) (f : Task → Task) : (s.modTask t f).contexts = s.contexts := rfl
@[simp] theorem modTask_rets (t : Nat) (f : Task → Task) : (s.modTask t f).rets = s.rets := rfl
@[simp] theorem modTask_outbox (t : Nat) (f : Task → Task) : (s.modTask t f).outbox = s.outbox := rfl

@[simp] theorem modCoach_off (t c : Nat) (f : Coach → Coach) : (s.modCoach t c f).off = s.off := rfl
@[simp] theorem modCoach_ident (t c : Nat) (f : Coach → Coach) : (s.modCoach t c f).ident = s.ident := rfl
@[simp] theorem modCoach_clock (t c : Nat) (f : Coach → Coach) : (s.modCoach t c f).clock = s.clock := rfl
@[simp] theorem modCoach_inputs (t c : Nat) (f : Coach → Coach) : (s.modCoach t c f).inputs = s.inputs := rfl
@[simp] theorem modCoach_freeIx (t c : Nat) (f : Coach → Coach) : (s.modCoach t c f).freeIx = s.freeIx := rfl
@[simp] theorem modCoach_issue (t c : Nat) (f : Coach → Coach) : (s.modCoach t c f).issue = s.issue := rfl
@[simp] theorem modCoach_nextUid (t c : Nat) (f : Coach → Coach) : (s.modCoach t c f).nextUid = s.nextUid := rfl
@[simp] theorem modCoach_launches (t c : Nat) (f : Coach → Coach) : (s.modCoach t c f).launches = s.launches := rfl
@[simp] theorem modCoach_graphs (t c : Nat) (f : Coach → Coach) : (s.modCoach t c f).graphs = s.graphs := rfl
@[simp] theorem modCoach_jobs (t c : Nat) (f : Coach → Coach) : (s.modCoach t c f).jobs = s.jobs := rfl
@[simp] theorem modCoach_dram (t c : Nat) (f : Coach → Coach) : (s.modCoach t c f).dram = s.dram := rfl
@[simp] theorem modCoach_segKey (t c : Nat) (f : Coach → Coach) : (s.modCoach t c f).segKey = s.segKey := rfl
@[simp] theorem modCoach_sectors (t c : Nat) (f : Coach → Coach) : (s.modCoach t c f).sectors = s.sectors := rfl
@[simp] theorem modCoach_lines (t c : Nat) (f : Coach → Coach) : (s.modCoach t c f).lines = s.lines := rfl
@[simp] theorem modCoach_accs (t c : Nat) (f : Coach → Coach) : (s.modCoach t c f).accs = s.accs := rfl
@[simp] theorem modCoach_accOwner (t c : Nat) (f : Coach → Coach) : (s.modCoach t c f).accOwner = s.accOwner := rfl
@[simp] theorem modCoach_host (t c : Nat) (f : Coach → Coach) : (s.modCoach t c f).host = s.host := rfl
@[simp] theorem modCoach_parts (t c : Nat) (f : Coach → Coach) : (s.modCoach t c f).parts = s.parts := rfl
@[simp] theorem modCoach_vfs (t c : Nat) (f : Coach → Coach) : (s.modCoach t c f).vfs = s.vfs := rfl
@[simp] theorem modCoach_root (t c : Nat) (f : Coach → Coach) : (s.modCoach t c f).root = s.root := rfl
@[simp] theorem modCoach_port (t c : Nat) (f : Coach → Coach) : (s.modCoach t c f).port = s.port := rfl
@[simp] theorem modCoach_links (t c : Nat) (f : Coach → Coach) : (s.modCoach t c f).links = s.links := rfl
@[simp] theorem modCoach_switches (t c : Nat) (f : Coach → Coach) : (s.modCoach t c f).switches = s.switches := rfl
@[simp] theorem modCoach_uet (t c : Nat) (f : Coach → Coach) : (s.modCoach t c f).uet = s.uet := rfl
@[simp] theorem modCoach_counters (t c : Nat) (f : Coach → Coach) : (s.modCoach t c f).counters = s.counters := rfl
@[simp] theorem modCoach_contexts (t c : Nat) (f : Coach → Coach) : (s.modCoach t c f).contexts = s.contexts := rfl
@[simp] theorem modCoach_rets (t c : Nat) (f : Coach → Coach) : (s.modCoach t c f).rets = s.rets := rfl
@[simp] theorem modCoach_outbox (t c : Nat) (f : Coach → Coach) : (s.modCoach t c f).outbox = s.outbox := rfl

@[simp] theorem modVf_off (v : Nat) (f : Vf → Vf) : (s.modVf v f).off = s.off := rfl
@[simp] theorem modVf_ident (v : Nat) (f : Vf → Vf) : (s.modVf v f).ident = s.ident := rfl
@[simp] theorem modVf_clock (v : Nat) (f : Vf → Vf) : (s.modVf v f).clock = s.clock := rfl
@[simp] theorem modVf_inputs (v : Nat) (f : Vf → Vf) : (s.modVf v f).inputs = s.inputs := rfl
@[simp] theorem modVf_freeIx (v : Nat) (f : Vf → Vf) : (s.modVf v f).freeIx = s.freeIx := rfl
@[simp] theorem modVf_issue (v : Nat) (f : Vf → Vf) : (s.modVf v f).issue = s.issue := rfl
@[simp] theorem modVf_tasks (v : Nat) (f : Vf → Vf) : (s.modVf v f).tasks = s.tasks := rfl
@[simp] theorem modVf_nextUid (v : Nat) (f : Vf → Vf) : (s.modVf v f).nextUid = s.nextUid := rfl
@[simp] theorem modVf_launches (v : Nat) (f : Vf → Vf) : (s.modVf v f).launches = s.launches := rfl
@[simp] theorem modVf_graphs (v : Nat) (f : Vf → Vf) : (s.modVf v f).graphs = s.graphs := rfl
@[simp] theorem modVf_jobs (v : Nat) (f : Vf → Vf) : (s.modVf v f).jobs = s.jobs := rfl
@[simp] theorem modVf_dram (v : Nat) (f : Vf → Vf) : (s.modVf v f).dram = s.dram := rfl
@[simp] theorem modVf_segKey (v : Nat) (f : Vf → Vf) : (s.modVf v f).segKey = s.segKey := rfl
@[simp] theorem modVf_sectors (v : Nat) (f : Vf → Vf) : (s.modVf v f).sectors = s.sectors := rfl
@[simp] theorem modVf_lines (v : Nat) (f : Vf → Vf) : (s.modVf v f).lines = s.lines := rfl
@[simp] theorem modVf_accs (v : Nat) (f : Vf → Vf) : (s.modVf v f).accs = s.accs := rfl
@[simp] theorem modVf_accOwner (v : Nat) (f : Vf → Vf) : (s.modVf v f).accOwner = s.accOwner := rfl
@[simp] theorem modVf_host (v : Nat) (f : Vf → Vf) : (s.modVf v f).host = s.host := rfl
@[simp] theorem modVf_parts (v : Nat) (f : Vf → Vf) : (s.modVf v f).parts = s.parts := rfl
@[simp] theorem modVf_root (v : Nat) (f : Vf → Vf) : (s.modVf v f).root = s.root := rfl
@[simp] theorem modVf_port (v : Nat) (f : Vf → Vf) : (s.modVf v f).port = s.port := rfl
@[simp] theorem modVf_links (v : Nat) (f : Vf → Vf) : (s.modVf v f).links = s.links := rfl
@[simp] theorem modVf_switches (v : Nat) (f : Vf → Vf) : (s.modVf v f).switches = s.switches := rfl
@[simp] theorem modVf_uet (v : Nat) (f : Vf → Vf) : (s.modVf v f).uet = s.uet := rfl
@[simp] theorem modVf_counters (v : Nat) (f : Vf → Vf) : (s.modVf v f).counters = s.counters := rfl
@[simp] theorem modVf_contexts (v : Nat) (f : Vf → Vf) : (s.modVf v f).contexts = s.contexts := rfl
@[simp] theorem modVf_rets (v : Nat) (f : Vf → Vf) : (s.modVf v f).rets = s.rets := rfl
@[simp] theorem modVf_outbox (v : Nat) (f : Vf → Vf) : (s.modVf v f).outbox = s.outbox := rfl

@[simp] theorem modLaunch_off (l : Nat) (f : Launch → Launch) : (s.modLaunch l f).off = s.off := rfl
@[simp] theorem modLaunch_ident (l : Nat) (f : Launch → Launch) : (s.modLaunch l f).ident = s.ident := rfl
@[simp] theorem modLaunch_clock (l : Nat) (f : Launch → Launch) : (s.modLaunch l f).clock = s.clock := rfl
@[simp] theorem modLaunch_inputs (l : Nat) (f : Launch → Launch) : (s.modLaunch l f).inputs = s.inputs := rfl
@[simp] theorem modLaunch_freeIx (l : Nat) (f : Launch → Launch) : (s.modLaunch l f).freeIx = s.freeIx := rfl
@[simp] theorem modLaunch_issue (l : Nat) (f : Launch → Launch) : (s.modLaunch l f).issue = s.issue := rfl
@[simp] theorem modLaunch_tasks (l : Nat) (f : Launch → Launch) : (s.modLaunch l f).tasks = s.tasks := rfl
@[simp] theorem modLaunch_nextUid (l : Nat) (f : Launch → Launch) : (s.modLaunch l f).nextUid = s.nextUid := rfl
@[simp] theorem modLaunch_graphs (l : Nat) (f : Launch → Launch) : (s.modLaunch l f).graphs = s.graphs := rfl
@[simp] theorem modLaunch_jobs (l : Nat) (f : Launch → Launch) : (s.modLaunch l f).jobs = s.jobs := rfl
@[simp] theorem modLaunch_dram (l : Nat) (f : Launch → Launch) : (s.modLaunch l f).dram = s.dram := rfl
@[simp] theorem modLaunch_segKey (l : Nat) (f : Launch → Launch) : (s.modLaunch l f).segKey = s.segKey := rfl
@[simp] theorem modLaunch_sectors (l : Nat) (f : Launch → Launch) : (s.modLaunch l f).sectors = s.sectors := rfl
@[simp] theorem modLaunch_lines (l : Nat) (f : Launch → Launch) : (s.modLaunch l f).lines = s.lines := rfl
@[simp] theorem modLaunch_accs (l : Nat) (f : Launch → Launch) : (s.modLaunch l f).accs = s.accs := rfl
@[simp] theorem modLaunch_accOwner (l : Nat) (f : Launch → Launch) : (s.modLaunch l f).accOwner = s.accOwner := rfl
@[simp] theorem modLaunch_host (l : Nat) (f : Launch → Launch) : (s.modLaunch l f).host = s.host := rfl
@[simp] theorem modLaunch_parts (l : Nat) (f : Launch → Launch) : (s.modLaunch l f).parts = s.parts := rfl
@[simp] theorem modLaunch_vfs (l : Nat) (f : Launch → Launch) : (s.modLaunch l f).vfs = s.vfs := rfl
@[simp] theorem modLaunch_root (l : Nat) (f : Launch → Launch) : (s.modLaunch l f).root = s.root := rfl
@[simp] theorem modLaunch_port (l : Nat) (f : Launch → Launch) : (s.modLaunch l f).port = s.port := rfl
@[simp] theorem modLaunch_links (l : Nat) (f : Launch → Launch) : (s.modLaunch l f).links = s.links := rfl
@[simp] theorem modLaunch_switches (l : Nat) (f : Launch → Launch) : (s.modLaunch l f).switches = s.switches := rfl
@[simp] theorem modLaunch_uet (l : Nat) (f : Launch → Launch) : (s.modLaunch l f).uet = s.uet := rfl
@[simp] theorem modLaunch_counters (l : Nat) (f : Launch → Launch) : (s.modLaunch l f).counters = s.counters := rfl
@[simp] theorem modLaunch_contexts (l : Nat) (f : Launch → Launch) : (s.modLaunch l f).contexts = s.contexts := rfl
@[simp] theorem modLaunch_rets (l : Nat) (f : Launch → Launch) : (s.modLaunch l f).rets = s.rets := rfl
@[simp] theorem modLaunch_outbox (l : Nat) (f : Launch → Launch) : (s.modLaunch l f).outbox = s.outbox := rfl

@[simp] theorem modGraph_off (g : Nat) (f : Graph → Graph) : (s.modGraph g f).off = s.off := rfl
@[simp] theorem modGraph_ident (g : Nat) (f : Graph → Graph) : (s.modGraph g f).ident = s.ident := rfl
@[simp] theorem modGraph_clock (g : Nat) (f : Graph → Graph) : (s.modGraph g f).clock = s.clock := rfl
@[simp] theorem modGraph_inputs (g : Nat) (f : Graph → Graph) : (s.modGraph g f).inputs = s.inputs := rfl
@[simp] theorem modGraph_freeIx (g : Nat) (f : Graph → Graph) : (s.modGraph g f).freeIx = s.freeIx := rfl
@[simp] theorem modGraph_issue (g : Nat) (f : Graph → Graph) : (s.modGraph g f).issue = s.issue := rfl
@[simp] theorem modGraph_tasks (g : Nat) (f : Graph → Graph) : (s.modGraph g f).tasks = s.tasks := rfl
@[simp] theorem modGraph_nextUid (g : Nat) (f : Graph → Graph) : (s.modGraph g f).nextUid = s.nextUid := rfl
@[simp] theorem modGraph_launches (g : Nat) (f : Graph → Graph) : (s.modGraph g f).launches = s.launches := rfl
@[simp] theorem modGraph_jobs (g : Nat) (f : Graph → Graph) : (s.modGraph g f).jobs = s.jobs := rfl
@[simp] theorem modGraph_dram (g : Nat) (f : Graph → Graph) : (s.modGraph g f).dram = s.dram := rfl
@[simp] theorem modGraph_segKey (g : Nat) (f : Graph → Graph) : (s.modGraph g f).segKey = s.segKey := rfl
@[simp] theorem modGraph_sectors (g : Nat) (f : Graph → Graph) : (s.modGraph g f).sectors = s.sectors := rfl
@[simp] theorem modGraph_lines (g : Nat) (f : Graph → Graph) : (s.modGraph g f).lines = s.lines := rfl
@[simp] theorem modGraph_accs (g : Nat) (f : Graph → Graph) : (s.modGraph g f).accs = s.accs := rfl
@[simp] theorem modGraph_accOwner (g : Nat) (f : Graph → Graph) : (s.modGraph g f).accOwner = s.accOwner := rfl
@[simp] theorem modGraph_host (g : Nat) (f : Graph → Graph) : (s.modGraph g f).host = s.host := rfl
@[simp] theorem modGraph_parts (g : Nat) (f : Graph → Graph) : (s.modGraph g f).parts = s.parts := rfl
@[simp] theorem modGraph_vfs (g : Nat) (f : Graph → Graph) : (s.modGraph g f).vfs = s.vfs := rfl
@[simp] theorem modGraph_root (g : Nat) (f : Graph → Graph) : (s.modGraph g f).root = s.root := rfl
@[simp] theorem modGraph_port (g : Nat) (f : Graph → Graph) : (s.modGraph g f).port = s.port := rfl
@[simp] theorem modGraph_links (g : Nat) (f : Graph → Graph) : (s.modGraph g f).links = s.links := rfl
@[simp] theorem modGraph_switches (g : Nat) (f : Graph → Graph) : (s.modGraph g f).switches = s.switches := rfl
@[simp] theorem modGraph_uet (g : Nat) (f : Graph → Graph) : (s.modGraph g f).uet = s.uet := rfl
@[simp] theorem modGraph_counters (g : Nat) (f : Graph → Graph) : (s.modGraph g f).counters = s.counters := rfl
@[simp] theorem modGraph_contexts (g : Nat) (f : Graph → Graph) : (s.modGraph g f).contexts = s.contexts := rfl
@[simp] theorem modGraph_rets (g : Nat) (f : Graph → Graph) : (s.modGraph g f).rets = s.rets := rfl
@[simp] theorem modGraph_outbox (g : Nat) (f : Graph → Graph) : (s.modGraph g f).outbox = s.outbox := rfl

@[simp] theorem modRet_off (r : Nat) (f : RetState → RetState) : (s.modRet r f).off = s.off := by unfold State.modRet; split <;> rfl
@[simp] theorem modRet_ident (r : Nat) (f : RetState → RetState) : (s.modRet r f).ident = s.ident := by unfold State.modRet; split <;> rfl
@[simp] theorem modRet_clock (r : Nat) (f : RetState → RetState) : (s.modRet r f).clock = s.clock := by unfold State.modRet; split <;> rfl
@[simp] theorem modRet_inputs (r : Nat) (f : RetState → RetState) : (s.modRet r f).inputs = s.inputs := by unfold State.modRet; split <;> rfl
@[simp] theorem modRet_freeIx (r : Nat) (f : RetState → RetState) : (s.modRet r f).freeIx = s.freeIx := by unfold State.modRet; split <;> rfl
@[simp] theorem modRet_issue (r : Nat) (f : RetState → RetState) : (s.modRet r f).issue = s.issue := by unfold State.modRet; split <;> rfl
@[simp] theorem modRet_tasks (r : Nat) (f : RetState → RetState) : (s.modRet r f).tasks = s.tasks := by unfold State.modRet; split <;> rfl
@[simp] theorem modRet_nextUid (r : Nat) (f : RetState → RetState) : (s.modRet r f).nextUid = s.nextUid := by unfold State.modRet; split <;> rfl
@[simp] theorem modRet_launches (r : Nat) (f : RetState → RetState) : (s.modRet r f).launches = s.launches := by unfold State.modRet; split <;> rfl
@[simp] theorem modRet_graphs (r : Nat) (f : RetState → RetState) : (s.modRet r f).graphs = s.graphs := by unfold State.modRet; split <;> rfl
@[simp] theorem modRet_jobs (r : Nat) (f : RetState → RetState) : (s.modRet r f).jobs = s.jobs := by unfold State.modRet; split <;> rfl
@[simp] theorem modRet_dram (r : Nat) (f : RetState → RetState) : (s.modRet r f).dram = s.dram := by unfold State.modRet; split <;> rfl
@[simp] theorem modRet_segKey (r : Nat) (f : RetState → RetState) : (s.modRet r f).segKey = s.segKey := by unfold State.modRet; split <;> rfl
@[simp] theorem modRet_sectors (r : Nat) (f : RetState → RetState) : (s.modRet r f).sectors = s.sectors := by unfold State.modRet; split <;> rfl
@[simp] theorem modRet_lines (r : Nat) (f : RetState → RetState) : (s.modRet r f).lines = s.lines := by unfold State.modRet; split <;> rfl
@[simp] theorem modRet_accs (r : Nat) (f : RetState → RetState) : (s.modRet r f).accs = s.accs := by unfold State.modRet; split <;> rfl
@[simp] theorem modRet_accOwner (r : Nat) (f : RetState → RetState) : (s.modRet r f).accOwner = s.accOwner := by unfold State.modRet; split <;> rfl
@[simp] theorem modRet_host (r : Nat) (f : RetState → RetState) : (s.modRet r f).host = s.host := by unfold State.modRet; split <;> rfl
@[simp] theorem modRet_parts (r : Nat) (f : RetState → RetState) : (s.modRet r f).parts = s.parts := by unfold State.modRet; split <;> rfl
@[simp] theorem modRet_vfs (r : Nat) (f : RetState → RetState) : (s.modRet r f).vfs = s.vfs := by unfold State.modRet; split <;> rfl
@[simp] theorem modRet_root (r : Nat) (f : RetState → RetState) : (s.modRet r f).root = s.root := by unfold State.modRet; split <;> rfl
@[simp] theorem modRet_port (r : Nat) (f : RetState → RetState) : (s.modRet r f).port = s.port := by unfold State.modRet; split <;> rfl
@[simp] theorem modRet_links (r : Nat) (f : RetState → RetState) : (s.modRet r f).links = s.links := by unfold State.modRet; split <;> rfl
@[simp] theorem modRet_switches (r : Nat) (f : RetState → RetState) : (s.modRet r f).switches = s.switches := by unfold State.modRet; split <;> rfl
@[simp] theorem modRet_uet (r : Nat) (f : RetState → RetState) : (s.modRet r f).uet = s.uet := by unfold State.modRet; split <;> rfl
@[simp] theorem modRet_counters (r : Nat) (f : RetState → RetState) : (s.modRet r f).counters = s.counters := by unfold State.modRet; split <;> rfl
@[simp] theorem modRet_contexts (r : Nat) (f : RetState → RetState) : (s.modRet r f).contexts = s.contexts := by unfold State.modRet; split <;> rfl
@[simp] theorem modRet_outbox (r : Nat) (f : RetState → RetState) : (s.modRet r f).outbox = s.outbox := by unfold State.modRet; split <;> rfl

@[simp] theorem bumpFree_off (n : Nat) : (s.bumpFree n).off = s.off := rfl
@[simp] theorem bumpFree_ident (n : Nat) : (s.bumpFree n).ident = s.ident := rfl
@[simp] theorem bumpFree_clock (n : Nat) : (s.bumpFree n).clock = s.clock := rfl
@[simp] theorem bumpFree_inputs (n : Nat) : (s.bumpFree n).inputs = s.inputs := rfl
@[simp] theorem bumpFree_freeIx (n : Nat) : (s.bumpFree n).freeIx = s.freeIx + n := rfl
@[simp] theorem bumpFree_issue (n : Nat) : (s.bumpFree n).issue = s.issue := rfl
@[simp] theorem bumpFree_tasks (n : Nat) : (s.bumpFree n).tasks = s.tasks := rfl
@[simp] theorem bumpFree_nextUid (n : Nat) : (s.bumpFree n).nextUid = s.nextUid := rfl
@[simp] theorem bumpFree_launches (n : Nat) : (s.bumpFree n).launches = s.launches := rfl
@[simp] theorem bumpFree_graphs (n : Nat) : (s.bumpFree n).graphs = s.graphs := rfl
@[simp] theorem bumpFree_jobs (n : Nat) : (s.bumpFree n).jobs = s.jobs := rfl
@[simp] theorem bumpFree_dram (n : Nat) : (s.bumpFree n).dram = s.dram := rfl
@[simp] theorem bumpFree_segKey (n : Nat) : (s.bumpFree n).segKey = s.segKey := rfl
@[simp] theorem bumpFree_sectors (n : Nat) : (s.bumpFree n).sectors = s.sectors := rfl
@[simp] theorem bumpFree_lines (n : Nat) : (s.bumpFree n).lines = s.lines := rfl
@[simp] theorem bumpFree_accs (n : Nat) : (s.bumpFree n).accs = s.accs := rfl
@[simp] theorem bumpFree_accOwner (n : Nat) : (s.bumpFree n).accOwner = s.accOwner := rfl
@[simp] theorem bumpFree_host (n : Nat) : (s.bumpFree n).host = s.host := rfl
@[simp] theorem bumpFree_parts (n : Nat) : (s.bumpFree n).parts = s.parts := rfl
@[simp] theorem bumpFree_vfs (n : Nat) : (s.bumpFree n).vfs = s.vfs := rfl
@[simp] theorem bumpFree_root (n : Nat) : (s.bumpFree n).root = s.root := rfl
@[simp] theorem bumpFree_port (n : Nat) : (s.bumpFree n).port = s.port := rfl
@[simp] theorem bumpFree_links (n : Nat) : (s.bumpFree n).links = s.links := rfl
@[simp] theorem bumpFree_switches (n : Nat) : (s.bumpFree n).switches = s.switches := rfl
@[simp] theorem bumpFree_uet (n : Nat) : (s.bumpFree n).uet = s.uet := rfl
@[simp] theorem bumpFree_counters (n : Nat) : (s.bumpFree n).counters = s.counters := rfl
@[simp] theorem bumpFree_contexts (n : Nat) : (s.bumpFree n).contexts = s.contexts := rfl
@[simp] theorem bumpFree_rets (n : Nat) : (s.bumpFree n).rets = s.rets := rfl
@[simp] theorem bumpFree_outbox (n : Nat) : (s.bumpFree n).outbox = s.outbox := rfl

@[simp] theorem send_off (m : OutMsg) : (s.send m).off = s.off := rfl
@[simp] theorem send_ident (m : OutMsg) : (s.send m).ident = s.ident := rfl
@[simp] theorem send_clock (m : OutMsg) : (s.send m).clock = s.clock := rfl
@[simp] theorem send_inputs (m : OutMsg) : (s.send m).inputs = s.inputs := rfl
@[simp] theorem send_freeIx (m : OutMsg) : (s.send m).freeIx = s.freeIx := rfl
@[simp] theorem send_issue (m : OutMsg) : (s.send m).issue = s.issue := rfl
@[simp] theorem send_tasks (m : OutMsg) : (s.send m).tasks = s.tasks := rfl
@[simp] theorem send_nextUid (m : OutMsg) : (s.send m).nextUid = s.nextUid := rfl
@[simp] theorem send_launches (m : OutMsg) : (s.send m).launches = s.launches := rfl
@[simp] theorem send_graphs (m : OutMsg) : (s.send m).graphs = s.graphs := rfl
@[simp] theorem send_jobs (m : OutMsg) : (s.send m).jobs = s.jobs := rfl
@[simp] theorem send_dram (m : OutMsg) : (s.send m).dram = s.dram := rfl
@[simp] theorem send_segKey (m : OutMsg) : (s.send m).segKey = s.segKey := rfl
@[simp] theorem send_sectors (m : OutMsg) : (s.send m).sectors = s.sectors := rfl
@[simp] theorem send_lines (m : OutMsg) : (s.send m).lines = s.lines := rfl
@[simp] theorem send_accs (m : OutMsg) : (s.send m).accs = s.accs := rfl
@[simp] theorem send_accOwner (m : OutMsg) : (s.send m).accOwner = s.accOwner := rfl
@[simp] theorem send_host (m : OutMsg) : (s.send m).host = s.host := rfl
@[simp] theorem send_parts (m : OutMsg) : (s.send m).parts = s.parts := rfl
@[simp] theorem send_vfs (m : OutMsg) : (s.send m).vfs = s.vfs := rfl
@[simp] theorem send_root (m : OutMsg) : (s.send m).root = s.root := rfl
@[simp] theorem send_port (m : OutMsg) : (s.send m).port = s.port := rfl
@[simp] theorem send_links (m : OutMsg) : (s.send m).links = s.links := rfl
@[simp] theorem send_switches (m : OutMsg) : (s.send m).switches = s.switches := rfl
@[simp] theorem send_uet (m : OutMsg) : (s.send m).uet = s.uet := rfl
@[simp] theorem send_counters (m : OutMsg) : (s.send m).counters = s.counters := rfl
@[simp] theorem send_contexts (m : OutMsg) : (s.send m).contexts = s.contexts := rfl
@[simp] theorem send_rets (m : OutMsg) : (s.send m).rets = s.rets := rfl
@[simp] theorem send_outbox (m : OutMsg) : (s.send m).outbox = s.outbox ++ [m] := rfl

@[simp] theorem pushFront_off (evs : List Instr) : (s.pushFront evs).off = s.off := rfl
@[simp] theorem pushFront_ident (evs : List Instr) : (s.pushFront evs).ident = s.ident := rfl
@[simp] theorem pushFront_clock (evs : List Instr) : (s.pushFront evs).clock = s.clock := rfl
@[simp] theorem pushFront_freeIx (evs : List Instr) : (s.pushFront evs).freeIx = s.freeIx := rfl
@[simp] theorem pushFront_issue (evs : List Instr) : (s.pushFront evs).issue = s.issue := rfl
@[simp] theorem pushFront_tasks (evs : List Instr) : (s.pushFront evs).tasks = s.tasks := rfl
@[simp] theorem pushFront_nextUid (evs : List Instr) : (s.pushFront evs).nextUid = s.nextUid := rfl
@[simp] theorem pushFront_launches (evs : List Instr) : (s.pushFront evs).launches = s.launches := rfl
@[simp] theorem pushFront_graphs (evs : List Instr) : (s.pushFront evs).graphs = s.graphs := rfl
@[simp] theorem pushFront_jobs (evs : List Instr) : (s.pushFront evs).jobs = s.jobs := rfl
@[simp] theorem pushFront_dram (evs : List Instr) : (s.pushFront evs).dram = s.dram := rfl
@[simp] theorem pushFront_segKey (evs : List Instr) : (s.pushFront evs).segKey = s.segKey := rfl
@[simp] theorem pushFront_sectors (evs : List Instr) : (s.pushFront evs).sectors = s.sectors := rfl
@[simp] theorem pushFront_lines (evs : List Instr) : (s.pushFront evs).lines = s.lines := rfl
@[simp] theorem pushFront_accs (evs : List Instr) : (s.pushFront evs).accs = s.accs := rfl
@[simp] theorem pushFront_accOwner (evs : List Instr) : (s.pushFront evs).accOwner = s.accOwner := rfl
@[simp] theorem pushFront_host (evs : List Instr) : (s.pushFront evs).host = s.host := rfl
@[simp] theorem pushFront_parts (evs : List Instr) : (s.pushFront evs).parts = s.parts := rfl
@[simp] theorem pushFront_vfs (evs : List Instr) : (s.pushFront evs).vfs = s.vfs := rfl
@[simp] theorem pushFront_root (evs : List Instr) : (s.pushFront evs).root = s.root := rfl
@[simp] theorem pushFront_port (evs : List Instr) : (s.pushFront evs).port = s.port := rfl
@[simp] theorem pushFront_links (evs : List Instr) : (s.pushFront evs).links = s.links := rfl
@[simp] theorem pushFront_switches (evs : List Instr) : (s.pushFront evs).switches = s.switches := rfl
@[simp] theorem pushFront_uet (evs : List Instr) : (s.pushFront evs).uet = s.uet := rfl
@[simp] theorem pushFront_counters (evs : List Instr) : (s.pushFront evs).counters = s.counters := rfl
@[simp] theorem pushFront_contexts (evs : List Instr) : (s.pushFront evs).contexts = s.contexts := rfl
@[simp] theorem pushFront_rets (evs : List Instr) : (s.pushFront evs).rets = s.rets := rfl
@[simp] theorem pushFront_outbox (evs : List Instr) : (s.pushFront evs).outbox = s.outbox := rfl

end Sys2Proof.Laws
end

