-- ==== Sys2Proof/Laws/Names.lean ====
section
/-! SUPPORT. What a search by name finds after a change of one named entry: the changed entry under its own name, every other
entry as it was. -/

namespace Sys2Proof.Laws

open Sys2Proof.Machine

/-- A search by key in a list in which the entries of one key were changed, their keys kept. -/
theorem find_map_key {α κ : Type} [DecidableEq κ] (key : α → κ) (f : α → α) (hf : ∀ x, key (f x) = key x) (k u : κ)
    (xs : List α) : (xs.map fun x => if key x = k then f x else x).find? (fun x => decide (key x = u))
      = (xs.find? fun x => decide (key x = u)).map fun x => if u = k then f x else x := by
  induction xs with
  | nil => rfl
  | cons x rest ih =>
    simp only [List.map_cons, List.find?_cons]
    by_cases hx : key x = k
    · by_cases hu : key x = u
      · subst hu; simp [hx, hf]
      · simp [hx, hf, hx ▸ hu, ih]
    · by_cases hu : key x = u
      · subst hu; simp [hx]
      · simp [hx, hu, ih]

theorem task?_modTask (s : State) (t : Nat) (f : Task → Task) (hf : ∀ x, (f x).uid = x.uid) (u : Nat) :
    (s.modTask t f).task? u = (s.task? u).map fun x => if u = t then f x else x :=
  find_map_key (fun x : Task => x.uid) f hf t u s.tasks

theorem coach?_modCoach (t : Task) (c : Nat) (f : Coach → Coach) (hf : ∀ x, (f x).num = x.num) (d : Nat) :
    (t.modCoach c f).coach? d = (t.coach? d).map fun x => if d = c then f x else x :=
  find_map_key (fun x : Coach => x.num) f hf c d t.coaches

theorem frag?_modFrag (c : Coach) (a : Nat) (f : Frag → Frag) (hf : ∀ x, (f x).age = x.age) (b : Nat) :
    (c.modFrag a f).frag? b = (c.frag? b).map fun x => if b = a then f x else x :=
  find_map_key (fun x : Frag => x.age) f hf a b c.frags

theorem vf?_modVf (s : State) (v : Nat) (f : Vf → Vf) (hf : ∀ x, (f x).num = x.num) (u : Nat) :
    (s.modVf v f).vf? u = (s.vf? u).map fun x => if u = v then f x else x :=
  find_map_key (fun x : Vf => x.num) f hf v u s.vfs

theorem launch?_modLaunch (s : State) (l : Nat) (f : Launch → Launch) (hf : ∀ x, (f x).id = x.id) (u : Nat) :
    (s.modLaunch l f).launch? u = (s.launch? u).map fun x => if u = l then f x else x :=
  find_map_key (fun x : Launch => x.id) f hf l u s.launches

theorem graph?_modGraph (s : State) (g : Nat) (f : Graph → Graph) (hf : ∀ x, (f x).id = x.id) (u : Nat) :
    (s.modGraph g f).graph? u = (s.graph? u).map fun x => if u = g then f x else x :=
  find_map_key (fun x : Graph => x.id) f hf g u s.graphs

/-- The state of a reticle after a change of one reticle's state. -/
theorem ret_modRet (s : State) (r : Nat) (f : RetState → RetState) (hf : ∀ x, (f x).ret = x.ret) (u : Nat) :
    (s.modRet r f).ret u = if u = r then f (s.ret u) else s.ret u := by
  unfold State.modRet State.ret
  split
  · rename_i h
    simp only [find_map_key (fun x : RetState => x.ret) f hf r u s.rets]
    by_cases hu : u = r
    · subst hu
      simp only [List.any_eq_true, decide_eq_true_eq] at h
      cases hfd : s.rets.find? (fun x => decide (x.ret = u)) with
      | none =>
        rw [List.find?_eq_none] at hfd
        obtain ⟨x, hx, hxr⟩ := h
        exact absurd (hfd x hx) (by simp [hxr])
      | some x => simp
    · cases hfd : s.rets.find? (fun x => decide (x.ret = u)) <;> simp [hu]
  · rename_i h
    simp only [List.find?_append]
    simp only [List.any_eq_true, decide_eq_true_eq, not_exists, not_and] at h
    by_cases hu : u = r
    · subst hu
      have : s.rets.find? (fun x => decide (x.ret = u)) = none := by
        rw [List.find?_eq_none]; intro x hx; simpa using h x hx
      simp [this, hf]
    · have hn : ¬ r = u := fun e => hu e.symm
      cases hfd : s.rets.find? (fun x => decide (x.ret = u)) <;> simp [hu, hf, hn]

end Sys2Proof.Laws
end

