-- ==== Sys2Proof/Laws/Tables.lean ====
section
/-! SUPPORT. Sparse tables and memory: what a read after a write gives, for any table whatever, and that every operation keeps
the canonical form. -/

namespace Sys2Proof.Laws

open Sys2Proof.Machine

variable {β : Type}

theorem tget_tdel (d : β) (t : Table β) (k k' : Nat) : tget d (tdel t k) k' = if k' = k then d else tget d t k' := by
  induction t with
  | nil => simp [tdel, tget]
  | cons e rest ih =>
    obtain ⟨j, y⟩ := e
    simp only [tdel] at ih ⊢
    by_cases h : j = k
    · have hb : (j != k) = false := by simp [h]
      simp only [List.filter, hb, ih, tget]
      by_cases h' : k' = k
      · simp [h']
      · have : ¬ j = k' := by omega
        simp [h', this]
    · have hb : (j != k) = true := by simp [h]
      simp only [List.filter, hb, tget, ih]
      by_cases h' : k' = k
      · simp [h', h]
      · simp [h']

/-- A read after a write of a table. -/
theorem tget_tput [DecidableEq β] (d : β) (t : Table β) (k : Nat) (x : β) (k' : Nat) :
    tget d (tput d t k x) k' = if k' = k then x else tget d t k' := by
  induction t with
  | nil =>
    simp only [tput]
    by_cases hx : x = d
    · simp [hx, tget]
    · by_cases h : k' = k
      · simp [hx, h, tget]
      · have : ¬ k = k' := by omega
        simp [hx, h, this, tget]
  | cons e rest ih =>
    obtain ⟨j, y⟩ := e
    simp only [tput]
    by_cases hj : j = k
    · rw [if_pos hj, ih]
      by_cases h : k' = k
      · simp [h]
      · have : ¬ j = k' := by omega
        simp [h, tget, this]
    · rw [if_neg hj]
      by_cases h : k' = k
      · subst h
        split
        · by_cases hx : x = d
          · simp [hx, tget, hj, tget_tdel]
          · simp [hx, tget]
        · simp [tget, hj, ih]
      · split
        · have hk : ¬ k = k' := by omega
          by_cases hx : x = d
          · simp [hx, tget, tget_tdel, h]
          · simp [hx, tget, tget_tdel, h, hk]
        · simp [tget, ih, h]

@[simp] theorem tget_tput_same [DecidableEq β] (d : β) (t : Table β) (k : Nat) (x : β) : tget d (tput d t k x) k = x := by
  simp [tget_tput]

@[simp] theorem tget_nil (d : β) (k : Nat) : tget d [] k = d := rfl

/-! ### The canonical form -/

theorem tabove_mono [DecidableEq β] {d : β} {lo lo' : Nat} {t : Table β} (h : tabove d lo t = true) (hl : lo' ≤ lo) :
    tabove d lo' t = true := by
  cases t with
  | nil => rfl
  | cons e rest => simp_all [tabove]; omega

theorem tabove_tdel [DecidableEq β] {d : β} {lo k : Nat} {t : Table β} (h : tabove d lo t = true) :
    tabove d lo (tdel t k) = true := by
  induction t generalizing lo with
  | nil => rfl
  | cons e rest ih =>
    obtain ⟨j, y⟩ := e
    simp only [tabove, Bool.and_eq_true, decide_eq_true_eq] at h
    by_cases hj : j = k
    · have := ih h.2
      simp only [tdel] at this ⊢
      simp only [List.filter, hj, bne_self_eq_false]
      exact tabove_mono this (by omega)
    · have := ih h.2
      simp only [tdel] at this ⊢
      have hb : (j != k) = true := by simp [hj]
      simp only [List.filter, hb, tabove, Bool.and_eq_true, decide_eq_true_eq]
      exact ⟨h.1, this⟩

theorem tabove_tput [DecidableEq β] {d : β} {lo k : Nat} {x : β} {t : Table β} (h : tabove d lo t = true) (hk : lo < k) :
    tabove d lo (tput d t k x) = true := by
  induction t generalizing lo with
  | nil => by_cases hx : x = d <;> simp [tput, tabove, hx, hk]
  | cons e rest ih =>
    obtain ⟨j, y⟩ := e
    simp only [tabove, Bool.and_eq_true, decide_eq_true_eq] at h
    simp only [tput]
    split
    · exact ih (tabove_mono h.2 (by omega)) hk
    · split
      · rename_i hj
        have hd := tabove_tdel (k := k) h.2
        by_cases hx : x = d
        · simp only [hx, if_true, tabove, Bool.and_eq_true, decide_eq_true_eq]; exact ⟨h.1, hd⟩
        · simp only [hx, if_false, tabove, Bool.and_eq_true, decide_eq_true_eq]; exact ⟨⟨hk, hx⟩, ⟨hj, h.1.2⟩, hd⟩
      · simp only [tabove, Bool.and_eq_true, decide_eq_true_eq]
        exact ⟨h.1, ih h.2 (by omega)⟩

theorem twf_of_tabove [DecidableEq β] {d : β} {lo : Nat} {t : Table β} (h : tabove d lo t = true) : twf d t = true := by
  cases t with
  | nil => rfl
  | cons e rest => simp_all [tabove, twf]

/-- A write keeps the canonical form. -/
theorem twf_tput [DecidableEq β] {d : β} {t : Table β} (h : twf d t = true) (k : Nat) (x : β) : twf d (tput d t k x) = true := by
  cases t with
  | nil => by_cases hx : x = d <;> simp [tput, twf, tabove, hx]
  | cons e rest =>
    obtain ⟨j, y⟩ := e
    simp only [twf, Bool.and_eq_true, decide_eq_true_eq] at h
    simp only [tput]
    split
    · rename_i hj
      subst hj
      have hd := tabove_tput (x := x) (k := j + 1) (lo := j) h.2 (by omega)
      clear hd
      cases rest with
      | nil => by_cases hx : x = d <;> simp [tput, twf, tabove, hx]
      | cons e' rest' =>
        obtain ⟨j', y'⟩ := e'
        have h' := h.2
        simp only [tabove, Bool.and_eq_true, decide_eq_true_eq] at h'
        have h1 : j' ≠ j := by omega
        have h2 : j < j' := h'.1.1
        simp only [tput, h1, h2, if_true, if_false]
        have hd := tabove_tdel (k := j) h'.2
        by_cases hx : x = d
        · simp only [hx, if_true, twf, Bool.and_eq_true, decide_eq_true_eq]; exact ⟨h'.1.2, hd⟩
        · simp only [hx, if_false, twf, tabove, Bool.and_eq_true, decide_eq_true_eq]
          exact ⟨hx, ⟨h2, h'.1.2⟩, hd⟩
    · split
      · rename_i hj
        have hd := tabove_tdel (k := k) h.2
        by_cases hx : x = d
        · simp only [hx, if_true, twf, Bool.and_eq_true, decide_eq_true_eq]; exact ⟨h.1, hd⟩
        · simp only [hx, if_false, twf, tabove, Bool.and_eq_true, decide_eq_true_eq]; exact ⟨hx, ⟨hj, h.1⟩, hd⟩
      · rename_i hj hk
        simp only [twf, Bool.and_eq_true, decide_eq_true_eq]
        exact ⟨h.1, tabove_tput h.2 (by omega)⟩

/-! ### Memory -/

@[simp] theorem read_write (m : Memory) (a : Nat) (b : Byte) (a' : Nat) :
    (m.write a b).read a' = if a' = a then b else m.read a' := tget_tput 0 m a b a'

theorem write_wf {m : Memory} (h : m.wf = true) (a : Nat) (b : Byte) : (m.write a b).wf = true := twf_tput h a b

/-- A byte after a write of several: one of them inside, as before outside. -/
theorem read_writeN (m : Memory) (a : Nat) (bs : List Byte) (a' : Nat) :
    (m.writeN a bs).read a' = if a ≤ a' ∧ a' < a + bs.length then bs.getD (a' - a) 0 else m.read a' := by
  induction bs generalizing m a with
  | nil => rw [if_neg (by simp only [List.length_nil]; omega)]; rfl
  | cons b rest ih =>
    rw [Memory.writeN, ih, read_write]
    by_cases h : a' = a
    · subst h
      have h1 : ¬ (a' + 1 ≤ a' ∧ a' < a' + 1 + rest.length) := by omega
      rw [if_neg h1]; simp
    · by_cases h1 : a + 1 ≤ a' ∧ a' < a + 1 + rest.length
      · have h2 : a ≤ a' ∧ a' < a + (b :: rest).length := by simp; omega
        rw [if_pos h1, if_pos h2]
        have : a' - a = (a' - (a + 1)) + 1 := by omega
        rw [this]; simp
      · have h2 : ¬ (a ≤ a' ∧ a' < a + (b :: rest).length) := by simp; omega
        rw [if_neg h1, if_neg h2, if_neg h]

theorem writeN_wf {m : Memory} (h : m.wf = true) (a : Nat) (bs : List Byte) : (m.writeN a bs).wf = true := by
  induction bs generalizing m a with
  | nil => exact h
  | cons b rest ih => exact ih (write_wf h a b) (a + 1)

theorem readN_length (m : Memory) (a n : Nat) : (m.readN a n).length = n := by simp [Memory.readN]

/-- What has been written is read back. -/
theorem readN_writeN (m : Memory) (a : Nat) (bs : List Byte) : (m.writeN a bs).readN a bs.length = bs := by
  apply List.ext_getElem
  · simp [Memory.readN]
  · intro i h1 h2
    simp [Memory.readN, read_writeN, h2]

/-! ### Reset -/

/-- After reset both memories have the canonical form: nothing is listed. -/
theorem reset_memories_wf : Memory.wf State.reset.dram = true ∧ Memory.wf State.reset.host = true := ⟨rfl, rfl⟩

end Sys2Proof.Laws
end

