-- ==== Sys2Proof/Laws/Registers.lean ====
section
/-! SUPPORT. What a read of a register gives after a write, for each register file of a coach. -/

namespace Sys2Proof.Laws

open Sys2Proof.Machine

theorem mem_laneList {m : Lanes} {l : Nat} : l ∈ laneList m ↔ l < 64 ∧ m.getLsbD l = true := by
  simp [laneList, List.mem_filter, List.mem_range]

theorem laneBit_get (k l : Nat) (hl : l < 64) : (laneBit k).getLsbD l = decide (l = k) := by
  simp only [laneBit, BitVec.getLsbD_ofNat, hl, decide_true, Bool.true_and, Nat.testBit_two_pow]
  by_cases h : k = l
  · simp [h]
  · simp [h]; exact fun e => h e.symm

theorem laneMask_fold (f : Nat → Bool) (l : Nat) (hl : l < 64) (ls : List Nat) (m : Lanes) :
    (ls.foldl (fun m l => if f l then m ||| laneBit l else m) m).getLsbD l
      = (m.getLsbD l || (decide (l ∈ ls) && f l)) := by
  induction ls generalizing m with
  | nil => simp
  | cons k rest ih =>
    simp only [List.foldl_cons, ih]
    by_cases hk : f k
    · by_cases h : l = k
      · subst h; simp [hk, laneBit_get _ _ hl]
      · simp [hk, laneBit_get _ _ hl, h]
    · by_cases h : l = k
      · subst h; simp [hk]
      · simp [hk, h]

/-- A mask built lane by lane holds exactly the lanes of its test. -/
theorem laneMask_get (f : Nat → Bool) (l : Nat) (hl : l < 64) : (laneMask f).getLsbD l = f l := by
  rw [laneMask, laneMask_fold f l hl]
  simp [hl]

theorem vkey_inj {r l r' l' : Nat} (h : l < 64) (h' : l' < 64) : vkey r l = vkey r' l' ↔ r = r' ∧ l = l' := by
  unfold vkey; omega

theorem vput_eq (c : Coach) (d l : Nat) (x : Word) : c.vput d l x = { c with v := (c.vput d l x).v } := rfl

theorem vget_vput (c : Coach) (d : Nat) {l : Nat} (hl : l < 64) (x : Word) (r : Nat) {l' : Nat} (hl' : l' < 64) :
    (c.vput d l x).vget r l' = if r = d ∧ l' = l then x else c.vget r l' := by
  simp only [Coach.vput, Coach.vget, tget_tput, vkey_inj hl' hl]

theorem vputs_eq (c : Coach) (d : Nat) (ls : List Nat) (f : Nat → Word) :
    c.vputs d ls f = { c with v := (c.vputs d ls f).v } := by
  induction ls generalizing c with
  | nil => rfl
  | cons l rest ih =>
    simp only [Coach.vputs]
    rw [ih (c.vput d l (f l))]
    rfl

/-- The vector registers after a write of one register in a list of lanes. -/
theorem vget_vputs (c : Coach) (d : Nat) (ls : List Nat) (f : Nat → Word) (hls : ∀ l ∈ ls, l < 64) (r : Nat) {l : Nat}
    (hl : l < 64) : (c.vputs d ls f).vget r l = if r = d ∧ l ∈ ls then f l else c.vget r l := by
  induction ls generalizing c with
  | nil => simp [Coach.vputs]
  | cons k rest ih =>
    simp only [Coach.vputs]
    rw [ih (c.vput d k (f k)) fun l h => hls l (List.mem_cons_of_mem _ h), vget_vput c d (hls k (List.mem_cons_self ..)) _ r hl]
    by_cases h : r = d ∧ l ∈ rest
    · simp [h]
    · by_cases h' : r = d ∧ l = k
      · simp [h'.1, h'.2]
      · by_cases hr : r = d
        · have h1 : ¬ l ∈ rest := fun e => h ⟨hr, e⟩
          have h2 : ¬ l = k := fun e => h' ⟨hr, e⟩
          simp [h1, h2]
        · simp [hr]

/-- The same for the lanes of a mask. -/
theorem vget_vputs_lanes (c : Coach) (d : Nat) (m : Lanes) (f : Nat → Word) (r : Nat) {l : Nat} (hl : l < 64) :
    (c.vputs d (laneList m) f).vget r l = if r = d ∧ m.getLsbD l = true then f l else c.vget r l := by
  rw [vget_vputs c d _ f (fun k hk => (mem_laneList.1 hk).1) r hl]
  simp [mem_laneList, hl]

theorem gput_eq (c : Coach) (d : Nat) (x : Word) : c.gput d x = { c with g := (c.gput d x).g } := rfl

@[simp] theorem gget_gput (c : Coach) (d : Nat) (x : Word) (r : Nat) :
    (c.gput d x).gget r = if r = d then x else c.gget r := by simp only [Coach.gput, Coach.gget, tget_tput]

@[simp] theorem srget_srput (c : Coach) (l : Nat) (x : Word) (k : Nat) :
    (c.srput l x).srget k = if k = l then x else c.srget k := by simp only [Coach.srput, Coach.srget, tget_tput]

theorem pput_eq (c : Coach) (i : BitVec 3) (m x : Lanes) : c.pput i m x = { c with p := (c.pput i m x).p } := by
  unfold Coach.pput; split <;> rfl

/-- The lane predicates after a write of one of them: p7 stays true, and only the lanes of the mask change. -/
theorem pget_pput (c : Coach) (i : BitVec 3) (m x : Lanes) (j : BitVec 3) {l : Nat} (hl : l < 64) :
    ((c.pput i m x).pget j).getLsbD l
      = if j = i ∧ i ≠ 7 ∧ m.getLsbD l = true then x.getLsbD l else (c.pget j).getLsbD l := by
  unfold Coach.pput
  by_cases hi : i = 7
  · rw [if_pos hi, if_neg (fun h => h.2.1 hi)]
  · rw [if_neg hi]
    by_cases hj : j = 7
    · have hji : ¬ j = i := fun e => hi (e ▸ hj)
      rw [if_neg (fun h => hji h.1)]
      simp only [Coach.pget, if_pos hj]
    · simp only [Coach.pget, if_neg hj, tget_tput]
      by_cases hji : j = i
      · subst hji
        simp only [if_true, BitVec.getLsbD_or, BitVec.getLsbD_and, BitVec.getLsbD_not, hl, decide_true, Bool.true_and]
        cases hm : m.getLsbD l
        · simp
        · rw [if_pos (show True ∧ j ≠ 7 ∧ true = true from ⟨trivial, hi, rfl⟩)]; simp
      · have h2 : ¬ j.toNat = i.toNat := fun e => hji (BitVec.eq_of_toNat_eq e)
        rw [if_neg h2, if_neg (fun h => hji h.1)]

theorem qput_eq (c : Coach) (i : BitVec 3) (x : Bool) : c.qput i x = { c with q := (c.qput i x).q } := by
  unfold Coach.qput; split <;> rfl

/-- The group predicates after a write of one of them: q7 stays true. -/
theorem qget_qput (c : Coach) (i : BitVec 3) (x : Bool) (j : BitVec 3) :
    (c.qput i x).qget j = if j = i ∧ i ≠ 7 then x else c.qget j := by
  unfold Coach.qput
  by_cases hi : i = 7
  · rw [if_pos hi, if_neg (fun h => h.2 hi)]
  · rw [if_neg hi]
    simp only [Coach.qget]
    have hj8 : j.toNat < 8 := j.isLt
    by_cases hji : j = i
    · subst hji
      rw [if_pos (show j = j ∧ j ≠ 7 from ⟨rfl, hi⟩), show (j == 7) = false from by simpa using hi]
      cases x <;> simp [hj8]
    · have hne : j.toNat ≠ i.toNat := fun e => hji (BitVec.eq_of_toNat_eq e)
      rw [if_neg (show ¬(j = i ∧ i ≠ 7) from fun h => hji h.1)]
      congr 1
      have h1 : (1#8 <<< i.toNat).getLsbD j.toNat = false := by
        simp only [BitVec.getLsbD_shiftLeft, hj8, decide_true, Bool.true_and, BitVec.getLsbD_one]
        by_cases hlt : j.toNat < i.toNat
        · simp [hlt]
        · have : j.toNat - i.toNat ≠ 0 := by omega
          simp [this]
      cases x <;> simp only [if_true, if_false, BitVec.getLsbD_or, BitVec.getLsbD_and, BitVec.getLsbD_not, h1, hj8, decide_true,
        Bool.not_false, Bool.and_true, Bool.or_false, Bool.false_eq_true,
        show BitVec.getLsbD (0 : BitVec 8) j.toNat = false from BitVec.getLsbD_zero]

/-! ### Registers that operations write (R46) -/

/-- An operation's write of a register changes nothing else of the coach. -/
theorem landWord_frame (c : Coach) (ix : Nat) (o : Op) (k : Nat) (x : Word) :
    c.landWord ix o k x = { c with v := (c.landWord ix o k x).v, fresh := (c.landWord ix o k x).fresh } := by
  unfold Coach.landWord; split <;> rfl

/-- The register then holds the value, where no slot wrote it meanwhile; else that value or its own. -/
theorem landWord_value (c : Coach) (ix : Nat) (o : Op) (k : Nat) (x : Word) :
    if c.crossed.contains (o.seq, k) then
      tget 0 (c.landWord ix o k x).v k = x ∨ tget 0 (c.landWord ix o k x).v k = tget 0 c.v k
    else tget 0 (c.landWord ix o k x).v k = x := by
  unfold Coach.landWord
  split
  · dsimp only
    split <;> simp
  · simp

/-- Every other register holds what it held. -/
theorem landWord_other (c : Coach) (ix : Nat) (o : Op) (k : Nat) (x : Word) {k' : Nat} (h : k' ≠ k) :
    tget 0 (c.landWord ix o k x).v k' = tget 0 c.v k' := by
  unfold Coach.landWord
  split
  · dsimp only
    split <;> simp [tget_tput, h]
  · simp [tget_tput, h]

end Sys2Proof.Laws
end

