-- ==== Sys2Proof/Laws/Operands.lean ====
section
/-! SUPPORT. What each operand form leaves in the issue latch: one law for each form and each register file. -/

namespace Sys2Proof.Laws

open Sys2Proof.Machine

theorem onIssue_some {s : State} {is : Issue} (h : s.issue = some is) (f : Issue → Issue) :
    s.onIssue f = { s with issue := some (f is) } := by simp [State.onIssue, h]

theorem onIssue_none {s : State} (h : s.issue = none) (f : Issue → Issue) : s.onIssue f = s := by
  cases s; simp_all [State.onIssue]

/-- A lane destination: only the vector registers differ. -/
theorem put_lane_eq (is : Issue) (d : BitVec 7) (fv : Nat → Word) (fg : Word) :
    is.put false d fv fg = { is with coach := { is.coach with v := (is.put false d fv fg).coach.v } } := by
  simp only [Issue.put, Bool.false_eq_true, if_false, Issue.onCoach]
  rw [vputs_eq]

theorem put_lane_vget (is : Issue) (d : BitVec 7) (fv : Nat → Word) (fg : Word) (r : Nat) {l : Nat} (hl : l < 64) :
    (is.put false d fv fg).coach.vget r l
      = if r = d.toNat ∧ is.enabled.getLsbD l = true then fv l else is.coach.vget r l := by
  simp only [Issue.put, Bool.false_eq_true, if_false, Issue.onCoach, vget_vputs_lanes _ _ _ _ _ hl]

/-- A group destination: only the group registers differ. -/
theorem put_group_eq (is : Issue) (d : BitVec 7) (fv : Nat → Word) (fg : Word) :
    is.put true d fv fg = { is with coach := { is.coach with g := (is.put true d fv fg).coach.g } } := by
  simp only [Issue.put, if_true]
  split <;> rfl

theorem put_group_gget (is : Issue) (d : BitVec 7) (fv : Nat → Word) (fg : Word) (r : Nat) :
    (is.put true d fv fg).coach.gget r = if r = d.toNat ∧ is.qon = true then fg else is.coach.gget r := by
  simp only [Issue.put, if_true]
  by_cases h : is.qon = true <;> simp [h, Issue.onCoach]

theorem putPred_lane_eq (is : Issue) (pd : BitVec 3) (fv : Nat → Bool) (fg : Bool) :
    is.putPred false pd fv fg = { is with coach := { is.coach with p := (is.putPred false pd fv fg).coach.p } } := by
  simp only [Issue.putPred, Bool.false_eq_true, if_false, Issue.onCoach]
  rw [pput_eq]

theorem putPred_lane_pget (is : Issue) (pd : BitVec 3) (fv : Nat → Bool) (fg : Bool) (j : BitVec 3) {l : Nat} (hl : l < 64) :
    ((is.putPred false pd fv fg).coach.pget j).getLsbD l
      = if j = pd ∧ pd ≠ 7 ∧ is.enabled.getLsbD l = true then fv l else (is.coach.pget j).getLsbD l := by
  simp only [Issue.putPred, Bool.false_eq_true, if_false, Issue.onCoach, pget_pput _ _ _ _ _ hl, laneMask_get _ _ hl]

theorem putPred_group_eq (is : Issue) (pd : BitVec 3) (fv : Nat → Bool) (fg : Bool) :
    is.putPred true pd fv fg = { is with coach := { is.coach with q := (is.putPred true pd fv fg).coach.q } } := by
  simp only [Issue.putPred, if_true]
  split
  · simp only [Issue.onCoach]; rw [qput_eq]
  · rfl

theorem putPred_group_qget (is : Issue) (pd : BitVec 3) (fv : Nat → Bool) (fg : Bool) (j : BitVec 3) :
    (is.putPred true pd fv fg).coach.qget j
      = if j = pd ∧ pd ≠ 7 ∧ is.qon = true then fg else is.coach.qget j := by
  simp only [Issue.putPred, if_true]
  by_cases h : is.qon = true
  · simp [h, Issue.onCoach, qget_qput]
  · simp [h]

end Sys2Proof.Laws
end

