-- ==== Sys2Proof/Tests/Slice0.lean ====
section
/-! SUPPORT. Words written out from the spec's encodings, the WellFormed smoke, witnesses of the statements' hypotheses, and a few
results of single steps. -/

open Sys2Proof Sys2Proof.Machine Sys2Proof.Claim

namespace Sys2Proof.Tests

-- Each test is checked before the next one: all at once they take more threads than the memory limit of the check has room for.
set_option Elab.async false

/-- Words of SYS (R127). -/
theorem test_words_sys :
    decodeTableWord 32 0b0_000000_00000_00000000000000000000 = some (.nop) ∧
    decodeTableWord 32 0b0_000000_00001_000000000000_11001000 = some (.yieldN 200) ∧
    decodeTableWord 32 0b0_000000_00010_0000101_0_0001001_00000 = some (.srd false 5 9) ∧
    decodeTableWord 32 0b0_000000_00010_0000110_1_1000000_00000 = some (.srd true 6 64) ∧
    decodeTableWord 32 0b0_000000_00011_0000011_1_0001010_00000 = some (.swr 3 10) ∧
    decodeTableWord 32 0b0_000000_00100_00000000000000000000 = some (.trap) ∧
    decodeTableWord 32 0b0_000000_00101_00000000000000000000 = some (.brkpt) ∧
    decodeTableWord 32 0b0_000000_00110_0000100_0_10111_00_00000 = some (.ctrrd false 4 23) := by decide

/-- Words of branches, CTL, RCVSET and CONV (R48, R130, R133, R136, R137, R139, R140). -/
theorem test_words_control :
    decodeTableWord 32 0b0_000001_00_11111111111111111111110 = some (.bra (-2)) ∧
    decodeTableWord 32 0b0_000001_01_00000000000000000000101 = some (.bru 5) ∧
    decodeTableWord 32 0b0_000001_10_00000000000000000000111 = some (.brd 7) ∧
    decodeTableWord 32 0b0_000011_00_11111111111111111111111 = some (.call (-1)) ∧
    decodeTableWord 32 0b0_000010_00000_00000000000000000000 = some (.ret) ∧
    decodeTableWord 32 0b0_000010_00001_00000000000000000000 = some (.exit) ∧
    decodeTableWord 32 0b0_000010_00010_00011_000000000000000 = some (.brxu 3) ∧
    decodeTableWord 32 0b0_000010_00011_00100_000000000000000 = some (.calli 4) ∧
    decodeTableWord 32 0b0_000100_10_00000000000000000001001 = some (.rcvset 2 9) ∧
    decodeTableWord 32 0b0_000101_00000_11_000000000000000000 = some (.rcvwait 3) ∧
    decodeTableWord 32 0b0_000101_00001_110_00000000000000000 = some (.plset 6) ∧
    decodeTableWord 32 0b0_000101_00010_0001000_0000000000000 = some (.plsetr 8) ∧
    decodeTableWord 32 0b0_000101_00011_01_000000000000000000 = some (.csplit 1) ∧
    decodeTableWord 32 0b0_000101_00100_00000000000000000000 = some (.cfuse) := by decide

/-- Words of BAR, WAIT, LOOP, STEP and TASK (R142, R145, R147, R148, R153). -/
theorem test_words_barrier :
    decodeTableWord 32 0b0_000110_00000_0_11001000_10000_000000 = some (.barSync false 200 16) ∧
    decodeTableWord 32 0b0_000110_00001_1_00111111_00001_000000 = some (.barArr true 63 1) ∧
    decodeTableWord 32 0b0_000110_00010_0_00000001_00000_000000 = some (.barWait false 1) ∧
    decodeTableWord 32 0b0_000111_11111_00001_00010_00011_00000 = some (.wait 31 1 2 3 0) ∧
    decodeTableWord 32 0b0_001000_000100_000110_01_00000000000 = some (.loop 4 6 1) ∧
    decodeTableWord 32 0b0_001001_1_0001010_11111111111111111 = some (.step true 10 (-1)) ∧
    decodeTableWord 32 0b0_001010_00000_00000000000000000000 = some (.tend) ∧
    decodeTableWord 32 0b0_001010_00001_00111_000000000000000 = some (.tspawn 7) ∧
    decodeTableWord 32 0b0_001010_00010_100001_00000000000000 = some (.tsig 33) := by decide

/-- Words of majors 0x10 to 0x19 (R48, R53, R161 to R169). -/
theorem test_words_integer_1 :
    decodeTableWord 32 0b0_010000_0_000_0000011_0000001_0000010 = some (.iadd false 3 1 2) ∧
    decodeTableWord 32 0b0_010000_1_001_0000100_0000001_0000010 = some (.isub true 4 1 2) ∧
    decodeTableWord 32 0b0_010000_0_010_0000101_0000001_0000010 = some (.imin false 5 1 2) ∧
    decodeTableWord 32 0b0_010000_1_011_0000110_0000001_0000010 = some (.imax true 6 1 2) ∧
    decodeTableWord 32 0b0_010000_0_100_0000111_0000001_0000010 = some (.iminn false 7 1 2) ∧
    decodeTableWord 32 0b0_010000_1_101_0001000_0000001_0000010 = some (.imaxn true 8 1 2) ∧
    decodeTableWord 32 0b0_010000_0_110_0001001_0000001_0000010 = some (.iadds false 9 1 2) ∧
    decodeTableWord 32 0b0_010000_1_111_0001010_0000001_0000010 = some (.isubs true 10 1 2) ∧
    decodeTableWord 32 0b0_010001_0_000_0000011_0000001_0000010 = some (.and false 3 1 2) ∧
    decodeTableWord 32 0b0_010001_1_001_0000100_0000001_0000010 = some (.or true 4 1 2) ∧
    decodeTableWord 32 0b0_010001_0_010_0000101_0000001_0000010 = some (.xor false 5 1 2) ∧
    decodeTableWord 32 0b0_010001_1_011_0000110_0000001_0000010 = some (.andn true 6 1 2) ∧
    decodeTableWord 32 0b0_010001_0_100_0000111_0000001_0000010 = some (.shl false 7 1 2) ∧
    decodeTableWord 32 0b0_010001_1_101_0001000_0000001_0000010 = some (.shr true 8 1 2) ∧
    decodeTableWord 32 0b0_010001_0_110_0001001_0000001_0000010 = some (.sar false 9 1 2) ∧
    decodeTableWord 32 0b0_010001_1_111_0001010_0000001_0000010 = some (.rotr true 10 1 2) := by decide

/-- Words of majors 0x10 to 0x19 (R48, R53, R161 to R169). -/
theorem test_words_integer_2 :
    decodeTableWord 32 0b0_010010_0_000_0000011_0000001_0000010 = some (.imul false 3 1 2) ∧
    decodeTableWord 32 0b0_010010_1_001_0000100_0000001_0000010 = some (.imulh true 4 1 2) ∧
    decodeTableWord 32 0b0_010010_0_010_0000101_0000001_0000010 = some (.imulhn false 5 1 2) ∧
    decodeTableWord 32 0b0_010010_1_011_0000110_0000001_0000010 = some (.imad true 6 1 2) ∧
    decodeTableWord 32 0b0_011000_0_000_0000011_0000001_0000010 = some (.iaddCo false 3 1 2) ∧
    decodeTableWord 32 0b0_011000_1_001_0000100_0000001_0000010 = some (.iaddCiCo true 4 1 2) ∧
    decodeTableWord 32 0b0_011000_0_010_0000101_0000001_0000010 = some (.isubBo false 5 1 2) ∧
    decodeTableWord 32 0b0_011000_1_011_0000110_0000001_0000010 = some (.isubBiBo true 6 1 2) ∧
    decodeTableWord 32 0b0_010011_1_000_0001001_0010001_0000000 = some (.popc true 9 17) ∧
    decodeTableWord 32 0b0_010011_0_001_0001001_0010001_0000000 = some (.clz false 9 17) ∧
    decodeTableWord 32 0b0_010011_1_010_0001001_0010001_0000000 = some (.brev true 9 17) ∧
    decodeTableWord 32 0b0_010011_0_011_0001001_0010001_0010010 = some (.bfe false 9 17 18) ∧
    decodeTableWord 32 0b0_010011_1_100_0001001_0010001_0010010 = some (.bfen true 9 17 18) ∧
    decodeTableWord 32 0b0_010011_0_101_0001001_0010001_0010010 = some (.bfi false 9 17 18) ∧
    decodeTableWord 32 0b0_010011_1_110_0001001_0010001_0010010 = some (.bshuf true 9 17 18) ∧
    decodeTableWord 32 0b0_010011_0_111_0001001_0010001_0000000 = some (.ffs false 9 17) := by decide

/-- Words of majors 0x10 to 0x19 (R48, R53, R161 to R169). -/
theorem test_words_integer_3 :
    decodeTableWord 32 0b0_010100_0_111_0000101_0000001_0000010 = some (.icmp false 7 5 1 2) ∧
    decodeTableWord 32 0b0_010101_1_011_0000100_0000101_0000110 = some (.sel true 3 4 5 6) ∧
    decodeTableWord 32 0b0_011001_0_111_0000100_0000101_0000110 = some (.lea false 7 4 5 6) ∧
    decodeTableWord 32 0b0_010110_0_000_0000100_0000101_1000000 = some (.iaddi false 4 5 (-64)) ∧
    decodeTableWord 32 0b0_010110_0_001_0000100_0000101_1000001 = some (.andi false 4 5 (-63)) ∧
    decodeTableWord 32 0b0_010110_0_010_0000100_0000101_1000010 = some (.ori false 4 5 (-62)) ∧
    decodeTableWord 32 0b0_010110_0_011_0000100_0000101_1000011 = some (.xori false 4 5 (-61)) ∧
    decodeTableWord 32 0b0_010110_0_100_0000100_0000101_0011111 = some (.shli false 4 5 31) ∧
    decodeTableWord 32 0b0_010110_0_101_0000100_0000101_0011111 = some (.shri false 4 5 31) ∧
    decodeTableWord 32 0b0_010110_0_110_0000100_0000101_0011111 = some (.sari false 4 5 31) ∧
    decodeTableWord 32 0b0_010110_1_111_0000110_0000101_1111111 = some (.icmpiEq true 6 5 (-1)) ∧
    decodeTableWord 32 0b0_010111_0_0001001_0_1010101111001101 = some (.movi false 9 0xABCD) ∧
    decodeTableWord 32 0b0_010111_1_0001001_1_1000000000000001 = some (.moviH true 9 0x8001) := by decide

/-- Words of majors 0x20 to 0x2B (R48, R53, R170 to R176). -/
theorem test_words_float_1 :
    decodeTableWord 32 0b0_100000_0_110_0001010_0001011_0001100 = some (.fadd false 6 10 11 12) ∧
    decodeTableWord 32 0b0_100001_1_110_0001010_0001011_0001100 = some (.fmul true 6 10 11 12) ∧
    decodeTableWord 32 0b0_100010_0_110_0001010_0001011_0001100 = some (.ffma false 6 10 11 12) ∧
    decodeTableWord 32 0b0_100110_0_110_0001010_0001011_0001100 = some (.fsub false 6 10 11 12) ∧
    decodeTableWord 32 0b0_101000_0_001_0001010_0001011_0001100 = some (.badd2 1 10 11 12) ∧
    decodeTableWord 32 0b0_101001_0_001_0001010_0001011_0001100 = some (.bmul2 1 10 11 12) ∧
    decodeTableWord 32 0b0_101010_0_001_0001010_0001011_0001100 = some (.bfma2 1 10 11 12) ∧
    decodeTableWord 32 0b0_100011_0_000_0001010_0001011_0001100 = some (.fmin false 10 11 12) ∧
    decodeTableWord 32 0b0_100011_0_001_0001010_0001011_0001100 = some (.fmax false 10 11 12) ∧
    decodeTableWord 32 0b0_100011_0_010_0001010_0001011_0001100 = some (.fminm false 10 11 12) ∧
    decodeTableWord 32 0b0_100011_0_011_0001010_0001011_0001100 = some (.fmaxm false 10 11 12) ∧
    decodeTableWord 32 0b0_100011_0_100_0001010_0001011_0000000 = some (.fabs false 10 11) ∧
    decodeTableWord 32 0b0_100011_0_101_0001010_0001011_0000000 = some (.fneg false 10 11) ∧
    decodeTableWord 32 0b0_100011_0_110_0001010_0001011_0001100 = some (.fcopysign false 10 11 12) ∧
    decodeTableWord 32 0b0_100011_0_111_0001010_0001011_0000000 = some (.fclass false 10 11) ∧
    decodeTableWord 32 0b0_100100_1_110_0000011_0001011_0001100 = some (.fcmp true 6 3 11 12) := by decide

/-- Words of majors 0x20 to 0x2B (R48, R53, R170 to R176). -/
theorem test_words_float_2 :
    decodeTableWord 32 0b0_100101_0_000_0001010_0001011_0000000 = some (.rcp false 0 10 11) ∧
    decodeTableWord 32 0b0_100101_0_001_0001010_0001011_0000001 = some (.rsq false 1 10 11) ∧
    decodeTableWord 32 0b0_100101_0_000_0001010_0001011_0000010 = some (.sqrt false 0 10 11) ∧
    decodeTableWord 32 0b0_100101_0_001_0001010_0001011_0000011 = some (.exp2 false 1 10 11) ∧
    decodeTableWord 32 0b0_100101_0_000_0001010_0001011_0000100 = some (.log2 false 0 10 11) ∧
    decodeTableWord 32 0b0_100101_0_001_0001010_0001011_0000101 = some (.sinpi false 1 10 11) ∧
    decodeTableWord 32 0b0_100101_0_000_0001010_0001011_0000110 = some (.cospi false 0 10 11) ∧
    decodeTableWord 32 0b0_100101_0_001_0001010_0001011_0000111 = some (.tanh false 1 10 11) ∧
    decodeTableWord 32 0b0_100111_0_000_0000101_0000110_1110_000 = some (.cvt false 0 5 6 14) ∧
    decodeTableWord 32 0b0_101011_0_000_0000111_0000000_0000000 = some (.rand 7) ∧
    decodeTableWord 32 0b0_101011_0_001_0000111_0000000_0000000 = some (.randf 7) := by decide

/-- Words of XCH, VOTE, RDC and PRFX (R179 to R182). -/
theorem test_words_exchange :
    decodeTableWord 32 0b0_110000_0_000_0000111_0001000_0001001 = some (.idxO 7 8 9) ∧
    decodeTableWord 32 0b0_110000_0_001_0000111_0001000_0001001 = some (.idxC 7 8 9) ∧
    decodeTableWord 32 0b0_110000_0_010_0000111_0001000_0001001 = some (.upC 7 8 9) ∧
    decodeTableWord 32 0b0_110000_0_011_0000111_0001000_0001001 = some (.downC 7 8 9) ∧
    decodeTableWord 32 0b0_110000_0_100_0000111_0001000_0001001 = some (.xorC 7 8 9) ∧
    decodeTableWord 32 0b0_110000_0_101_0000111_0001000_0000000 = some (.bcastC 7 8) ∧
    decodeTableWord 32 0b0_110001_0_000_0000101_0000100_0000000 = some (.voteAny 5 4) ∧
    decodeTableWord 32 0b0_110001_0_001_0000110_0000100_0000000 = some (.voteAll 6 4) ∧
    decodeTableWord 32 0b0_110001_0_010_0111110_0000100_0000000 = some (.voteBallot 62 4) ∧
    decodeTableWord 32 0b0_110001_0_011_0111111_0000100_0000000 = some (.voteCount 63 4) ∧
    decodeTableWord 32 0b0_110001_0_100_0000001_0000100_0000000 = some (.voteFirst 1 4) ∧
    decodeTableWord 32 0b0_110010_0_101_0111111_1111111_0000000 = some (.rdc 5 63 127) ∧
    decodeTableWord 32 0b0_110011_0_010_0001001_0001000_0000000 = some (.prfx 2 9 8) := by decide

/-- Words of memory slots and MSYS (R48, R51, R217). -/
theorem test_words_memory :
    decodeTableWord 64 0b0_001_101_011_1111111111111111111100_0_111000_110_0000100_0001001_11110_11_1 = some (.ld 6 4 9 30 3 (some { order := 1, scope := 5, policy := 3, ofs := (-4) })) ∧
    decodeTableWord 32 0b0_111000_000_0000100_0001001_11110_11_0 = some (.ld 0 4 9 30 3 none) ∧
    decodeTableWord 32 0b0_111001_101_0000100_0001001_00001_00_0 = some (.st 5 4 9 1 0 none) ∧
    decodeTableWord 32 0b0_111010_011_0000100_0001001_00001_10_0 = some (.lds 3 4 9 1 2 none) ∧
    decodeTableWord 32 0b0_111011_010_0000100_0001001_00001_01_0 = some (.sts 2 4 9 1 1 none) ∧
    decodeTableWord 64 0b0_011_011_000_1001_111111111111111000_0_111100_101_0000100_0001001_00010_01_1 = some (.atom 5 4 9 2 1 { order := 3, scope := 3, policy := 0, op := 9, ofs := (-8) }) ∧
    decodeTableWord 64 0b0_100_001_000_1011_000000000000001000_0_111101_100_0000100_0001001_00010_01_1 = some (.atoms 4 4 9 2 1 { order := 4, scope := 1, policy := 0, op := 11, ofs := 8 }) ∧
    decodeTableWord 32 0b0_111110_00000_101_10_000000000000000 = some (.fence 5 2) ∧
    decodeTableWord 32 0b0_111110_00001_0001001_0001010_1011_00 = some (.pin 9 10 11) ∧
    decodeTableWord 32 0b0_111110_00010_0000000_0001010_0011_00 = some (.unpin 10 3) ∧
    decodeTableWord 32 0b0_111110_00011_0000000_0001010_0011_01 = some (.pf 10 3 1) ∧
    decodeTableWord 32 0b0_111110_00100_0001000_0001010_0011_10 = some (.ldaxis 8 10 3 2) := by decide

/-- Words of CP, MX and NX (R253, R272, R361). -/
theorem test_words_engines_1 :
    decodeTableWord 32 0b0_101100_00000_1111_0010100_0010101_00 = some (.cpT 15 20 21) ∧
    decodeTableWord 32 0b0_101100_00001_0_0010100_0010110_00000 = some (.cpLLd 20 22) ∧
    decodeTableWord 32 0b0_101100_00001_1_0010100_0010110_00000 = some (.cpLSt 20 22) ∧
    decodeTableWord 32 0b0_101100_00010_111101_00000000000000 = some (.cpSeal 61) ∧
    decodeTableWord 32 0b0_101100_00011_111100_00000000000000 = some (.cpQry 60) ∧
    decodeTableWord 32 0b0_101101_00000_000001_000010_00000000 = some (.mldb 1 2) ∧
    decodeTableWord 32 0b0_101101_00001_111_0000001_0000010_10_0 = some (.mma 7 1 2 2) ∧
    decodeTableWord 32 0b0_101101_00010_110_0000100_0000010_00_0 = some (.mmg 6 4 2 0) ∧
    decodeTableWord 32 0b0_101101_00011_101_00000000000000000 = some (.mzero 5) ∧
    decodeTableWord 32 0b0_101101_00100_100_1111_0001000_000000 = some (.mrd 4 15 8) ∧
    decodeTableWord 32 0b0_101101_00101_011_0001000_001010_0000 = some (.mst 3 8 10) ∧
    decodeTableWord 32 0b0_101101_00110_011_0001000_001010_0000 = some (.mstSc 3 8 10) ∧
    decodeTableWord 32 0b0_101101_00111_000001_000010_1_0000000 = some (.mqry 1 2 true) ∧
    decodeTableWord 32 0b0_101110_00000_0001000_0001010_100_11_0 = some (.postW 8 10 4 3) ∧
    decodeTableWord 32 0b0_101110_00001_0001000_0001010_011_01_0 = some (.postS 8 10 3 1) ∧
    decodeTableWord 32 0b0_101110_00010_0001000_0001010_101_00_1 = some (.postQ 8 10 5 0 true) := by decide

/-- Words of CP, MX and NX (R253, R272, R361). -/
theorem test_words_engines_2 :
    decodeTableWord 32 0b0_101110_00011_0001000_0_100001_100_10_0 = some (.coll 8 33 4 2) ∧
    decodeTableWord 32 0b0_101110_00100_001001_100001_10_000000 = some (.nxqry 9 33 2) := by decide
/-! ### Ill-formed terms: each check of `Instr.wf` refuses one -/

/-- A coach of 32 v registers. -/
def wfN : Nat := 32

/-- An LD, ST and ATOM extension word with every field at a legal value, to be spoilt one field at a time. -/
def plainExt : MemExt := { order := 0, scope := 0, policy := 0, ofs := 0 }

def plainAtom : AtomExt := { order := 0, scope := 0, policy := 0, op := 0, ofs := 0 }

/-- SYS (R129): a special register that does not exist, CLOCK into an odd pair, SWR of another number, counter 24. -/
theorem test_wf_sys :
    Instr.wf wfN (.srd false 5 17) = false ∧ Instr.wf wfN (.srd true 5 12) = false ∧ Instr.wf wfN (.srd true 64 0) = false ∧
    Instr.wf wfN (.swr 64 9) = false ∧ Instr.wf wfN (.swr 3 12) = false ∧ Instr.wf wfN (.ctrrd false 3 0) = false ∧
    Instr.wf wfN (.ctrrd true 4 24) = false := by decide

/-- CTL, BAR, LOOP and STEP (R139, R140, R142, R147, R148). -/
theorem test_wf_control :
    Instr.wf wfN (.plsetr 32) = false ∧ Instr.wf wfN (.barSync false 1 0) = false ∧
    Instr.wf wfN (.barSync false 1 17) = false ∧ Instr.wf wfN (.barArr true 64 1) = false ∧ Instr.wf wfN (.barArr false 1 17) = false ∧
    Instr.wf wfN (.barWait true 64) = false ∧ Instr.wf wfN (.loop 0 2 0) = false ∧ Instr.wf wfN (.loop 3 2 3) = false ∧
    Instr.wf wfN (.step true 64 1) = false ∧ Instr.wf wfN (.step false 32 1) = false := by decide

/-- Register fields beyond the allocation or beyond g63 (R49), and shift counts of 32 (R166). -/
theorem test_wf_integer :
    Instr.wf wfN (.iadd false 32 1 2) = false ∧ Instr.wf wfN (.iadd true 1 64 2) = false ∧ Instr.wf wfN (.imad false 1 2 32) = false ∧
    Instr.wf wfN (.popc false 1 32) = false ∧ Instr.wf wfN (.ffs true 64 1) = false ∧ Instr.wf wfN (.icmp false 0 0 1 32) = false ∧
    Instr.wf wfN (.sel true 0 1 2 64) = false ∧ Instr.wf wfN (.lea false 3 32 1 2) = false ∧ Instr.wf wfN (.iaddi false 32 1 5) = false ∧
    Instr.wf wfN (.shli false 1 2 32) = false ∧ Instr.wf wfN (.shri true 1 2 64) = false ∧ Instr.wf wfN (.sari false 1 2 127) = false ∧
    Instr.wf wfN (.icmpiEq false 0 32 1) = false ∧ Instr.wf wfN (.movi true 64 1) = false ∧ Instr.wf wfN (.moviH false 32 1) = false ∧
    Instr.wf wfN (.iaddCo false 1 32 2) = false := by decide

/-- Rounding fields and conversion codes (R54, R173, R174). -/
theorem test_wf_float :
    Instr.wf wfN (.fadd false 7 1 2 3) = false ∧ Instr.wf wfN (.ffma false 0 32 2 3) = false ∧ Instr.wf wfN (.fabs false 1 32) = false ∧
    Instr.wf wfN (.fcmp true 0 0 64 1) = false ∧ Instr.wf wfN (.rcp false 2 1 2) = false ∧ Instr.wf wfN (.tanh false 0 32 2) = false ∧
    Instr.wf wfN (.cvt false 7 1 2 0) = false ∧ Instr.wf wfN (.cvt false 0 1 2 15) = false ∧ Instr.wf wfN (.cvt false 1 1 2 5) = false ∧
    Instr.wf wfN (.cvt false 1 1 2 9) = false ∧ Instr.wf wfN (.cvt false 1 1 3 14) = false ∧ Instr.wf wfN (.badd2 7 1 2 3) = false ∧
    Instr.wf wfN (.rand 32) = false ∧ Instr.wf wfN (.randf 32) = false := by decide

/-- Lane exchange, votes, reductions and scans (R49, R180). -/
theorem test_wf_exchange :
    Instr.wf wfN (.idxC 32 1 2) = false ∧ Instr.wf wfN (.bcastC 1 32) = false ∧ Instr.wf wfN (.voteBallot 5 1) = false ∧
    Instr.wf wfN (.rdc 0 1 32) = false ∧ Instr.wf wfN (.prfx 0 32 1) = false := by decide

/-- Sizes, orders, scopes, policies, atomic operations and register runs of memory words (R51, R209, R214, R216). -/
theorem test_wf_memory :
    Instr.wf wfN (.ld 7 4 1 0 0 none) = false ∧ Instr.wf wfN (.ld 5 3 1 0 0 none) = false ∧ Instr.wf wfN (.ld 6 6 1 0 0 none) = false ∧
    Instr.wf wfN (.ld 4 4 1 0 0 (some { plainExt with order := 2 })) = false ∧ Instr.wf wfN (.ld 4 4 1 0 0 (some { plainExt with scope := 6 })) = false ∧
    Instr.wf wfN (.ld 4 4 1 0 0 (some { plainExt with policy := 4 })) = false ∧ Instr.wf wfN (.st 1 4 1 0 0 none) = false ∧
    Instr.wf wfN (.st 3 4 1 0 0 none) = false ∧ Instr.wf wfN (.st 4 4 1 0 0 (some { plainExt with order := 1 })) = false ∧
    Instr.wf wfN (.st 4 4 1 0 0 (some { plainExt with policy := 2 })) = false ∧ Instr.wf wfN (.lds 4 4 1 0 0 (some { plainExt with scope := 2 })) = false ∧
    Instr.wf wfN (.sts 4 4 1 0 0 (some { plainExt with policy := 1 })) = false ∧ Instr.wf wfN (.atom 6 4 1 0 0 plainAtom) = false ∧
    Instr.wf wfN (.atom 4 4 1 0 0 { plainAtom with op := 12 }) = false ∧ Instr.wf wfN (.atom 4 4 1 0 0 { plainAtom with order := 5 }) = false ∧
    Instr.wf wfN (.atom 5 4 1 0 0 { plainAtom with op := 10 }) = false ∧ Instr.wf wfN (.atom 4 5 1 0 0 { plainAtom with op := 9 }) = false ∧
    Instr.wf wfN (.atom 4 4 1 0 0 { plainAtom with policy := 2 }) = false ∧ Instr.wf wfN (.atoms 4 4 1 0 0 { plainAtom with scope := 2 }) = false :=
  by decide

/-- FENCE, PIN, UNPIN, PF and LDAXIS (R217, R222). -/
theorem test_wf_sector :
    Instr.wf wfN (.fence 6 0) = false ∧ Instr.wf wfN (.fence 0 3) = false ∧ Instr.wf wfN (.pin 1 3 0) = false ∧ Instr.wf wfN (.pin 1 2 12) = false ∧
    Instr.wf wfN (.unpin 3 0) = false ∧ Instr.wf wfN (.unpin 2 12) = false ∧ Instr.wf wfN (.pf 2 0 2) = false ∧ Instr.wf wfN (.pf 3 0 0) = false ∧
    Instr.wf wfN (.ldaxis 4 2 0 3) = false ∧ Instr.wf wfN (.ldaxis 6 2 0 2) = false ∧ Instr.wf wfN (.ldaxis 4 2 12 0) = false := by decide

/-- Copy, matrix and port engines (R253, R272, R273, R361). -/
theorem test_wf_engines :
    Instr.wf wfN (.cpT 0 29 1) = false ∧ Instr.wf wfN (.cpT 0 4 32) = false ∧ Instr.wf wfN (.cpLLd 3 4) = false ∧ Instr.wf wfN (.cpLSt 2 5) = false ∧
    Instr.wf wfN (.mma 0 1 2 3) = false ∧ Instr.wf wfN (.mmg 0 1 2 0) = false ∧ Instr.wf wfN (.mrd 0 0 4) = false ∧ Instr.wf wfN (.mst 0 2 5) = false ∧
    Instr.wf wfN (.mst 0 3 4) = false ∧ Instr.wf wfN (.mstSc 0 30 4) = false ∧ Instr.wf wfN (.postW 2 4 6 0) = false ∧ Instr.wf wfN (.postS 2 5 0 0) = false ∧
    Instr.wf wfN (.postQ 2 30 0 0 false) = false ∧ Instr.wf wfN (.coll 32 0 0 0) = false ∧ Instr.wf wfN (.coll 3 0 6 0) = false := by decide

/-- Each of these with the field put right is well formed. -/
theorem test_wf_repaired :
    Instr.wf wfN (.srd true 6 12) = true ∧ Instr.wf wfN (.swr 63 11) = true ∧ Instr.wf wfN (.barSync true 63 16) = true ∧
    Instr.wf wfN (.loop 1 63 2) = true ∧ Instr.wf wfN (.iadd true 63 0 62) = true ∧ Instr.wf wfN (.shli false 31 31 31) = true ∧
    Instr.wf wfN (.cvt false 0 1 2 9) = true ∧ Instr.wf wfN (.ld 6 28 31 0 0 (some { plainExt with order := 4, scope := 5, policy := 3 })) = true ∧
    Instr.wf wfN (.atom 5 28 1 0 0 { plainAtom with op := 9 }) = true ∧ Instr.wf wfN (.cpT 0 28 31) = true ∧ Instr.wf wfN (.mrd 0 0 24) = true ∧
    Instr.wf wfN (.postQ 2 28 5 3 true) = true := by decide

/-- Reserved words decode to nothing (R48, R51, R54, R127): an unused major, a reserved bit that is set, and a minor beyond the last. -/
theorem test_reserved_words :
    decodeTableWord 32 0b0_111111_0000000000000000000000000 = none ∧
    decodeTableWord 32 0b0_000000_00000_00000000000000000001 = none ∧
    decodeTableWord 32 0b0_000000_00111_00000000000000000000 = none ∧
    decodeTableWord 32 0b0_000010_00000_00000000000000000001 = none := by decide

/-! ### Witnesses: for each statement with hypotheses, a state and operands that meet them -/

/-- A fragment of eight lanes at offset 32 of a function of eight bundles. -/
def wFrag : Frag := { mask := 0xFF, off := 32, age := 0, ctx := { len := 8 } }

/-- A one-octet coach with all lanes live, q0 set, p0 set in lanes 0 and 1; lane 0 holds a pair in v2 and a count in v4. -/
def wCoach : Coach :=
  { live := 0xFF, frags := [wFrag], q := 1, p := [(0, 3)], v := [(128, 0x1000), (256, 64)], g := [(1, 5), (2, 0x40)] }

/-- Extents: 64 KiB of reticle 0's DRAM at 0x10000 that every kind of access may use, and 4 KiB of host memory at 0x40000. -/
def wDev : Extent := { va := 0x10000, len := 0x10000, pa := 0xFFFF000000010000, perm := 3, host := false, pin := false, wid := 0, key := 1 }

def wHost : Extent := { va := 0x40000, len := 0x1000, pa := 0x80000, perm := 2, host := true, pin := false, wid := 1, key := 0 }

def wTask : Task :=
  { uid := 1, phase := .running, shape := { regs := 32, scratch := 256, barriers := 2 }, extents := [wDev, wHost], coaches := [wCoach] }

/-- The latch with the pass of a slot that the predicate 7 (always) guards; the off one is guarded by p1 and q1, which do not hold. -/
def wIssue : Issue := { task := wTask, coach := wCoach, snap := wCoach, frag := wFrag, cur := { lanes := 0xFF, pred := 7 } }

def wOff : Issue := { wIssue with cur := { lanes := 0xFF, pred := 1 } }

/-- The false predicate 0xF. -/
def wNever : Issue := { wIssue with cur := { lanes := 0xFF, pred := 15 } }

/-- One participating lane, 0. -/
def wOne : Issue := { wIssue with cur := { lanes := 1, pred := 7 } }

def wState (is : Issue) : State := { State.reset with issue := some is, tasks := [wTask] }

/-- What most statements over the latch ask, and both values of what their conclusions turn on. -/
theorem witness_latch :
    (wState wIssue).issue = some wIssue ∧ wIssue.qon = true ∧ wIssue.enabled = 0xFF ∧ participants wIssue = [0, 1, 2, 3, 4, 5, 6, 7] ∧
    (wState wOff).issue = some wOff ∧ wOff.qon = false ∧ wOff.enabled = 0 ∧ wOff.cur.pred ≠ 0xF ∧
    (wState wNever).issue = some wNever ∧ wNever.cur.pred = 0xF ∧
    (wState wOne).issue = some wOne ∧ participants wOne = [0] := by decide

theorem witness_EnabledLanesAreThePredicatedActiveOnes : 63 < 64 ∧ wIssue.enabled.getLsbD 7 = true ∧ wIssue.enabled.getLsbD 63 = false := by decide

theorem witness_IntegerArithmetic : (wState wIssue).issue = some wIssue := rfl

theorem witness_LogicAndShifts : (wState wIssue).issue = some wIssue := rfl

theorem witness_BitOperations : (wState wIssue).issue = some wIssue := rfl

theorem witness_IntegerComparisons : (wState wIssue).issue = some wIssue := rfl

theorem witness_SelectAddressAndImmediates : (wState wIssue).issue = some wIssue := rfl

theorem witness_CarryChains : (wState wIssue).issue = some wIssue ∧ 63 < 64 := ⟨rfl, by decide⟩

theorem witness_FloatArithmeticUnderItsMode : (wState wIssue).issue = some wIssue := rfl

theorem witness_FloatExactForms : (wState wIssue).issue = some wIssue := rfl

theorem witness_FloatComparison : (wState wIssue).issue = some wIssue := rfl

theorem witness_FloatFunctions :
    (wState wIssue).issue = some wIssue ∧ isNan 0x7F800001 = true ∧ isNan 0xFFFFFFFF = true ∧ (0x80000000#32).toNat % 2 ^ 31 = 0 ∧
    ((0x80800000#32).getLsbD 31 = true ∧ isNan 0x80800000 = false ∧ 2 ^ 23 ≤ (0x80800000#32).toNat % 2 ^ 31) ∧
    ((0xFF800000#32).getLsbD 31 = true ∧ isNan 0xFF800000 = false ∧ 2 ^ 23 ≤ (0xFF800000#32).toNat % 2 ^ 31) := by decide

/-- A latch, and operands of each row of the conversion tables: NaNs, infinities, a subnormal that FTZ flushes, EXV, and each E2M1 code. -/
theorem witness_ConversionsAndPacked :
    (wState wIssue).issue = some wIssue ∧ isNan 0x7FC00001 = true ∧ isSig 0x7F800001 = true ∧ isNan 0xFF800000 = false ∧
    (0xFF800000#32).toNat % 2 ^ 31 = 0x7F800000 ∧ (1#32).toNat % 2 ^ 31 < 2 ^ 23 ∧ neg32 0x80000001 = true ∧ int32 0x3FC00000 = 3 * 2 ^ 22 ∧
    exp32 0x3FC00000 = -23 ∧ wIssue.snap.exv = 0x80000000 ∧ (8#32).toNat % 16 = 8 := by decide

theorem witness_RandomNumbers : (wState wIssue).issue = some wIssue ∧ 63 < 64 := ⟨rfl, by decide⟩

/-- A tie, an exact value, and generators of every width that the SR clause allows. -/
theorem witness_RoundingKeepsTheNamedNeighbour :
    (3 : Int) = 0 + (3 : Nat) ∧ 2 * (12 % 2 ^ 3) = 2 ^ 3 ∧ 16 % 2 ^ 3 = 0 ∧ 13 % 2 ^ 3 ≠ 0 ∧ 32 ≤ 32 ∧ 0 ≤ 32 := by decide

theorem witness_ExactResultsAndTheirCodes :
    (0 : Int) ≤ -3 + 3 ∧ (0 : Int) ≤ 5 + 3 ∧ fE2M1 ∈ [fFP32, fFP16, fBF16, fE5M2, fE4M3, fE2M1] ∧
    (3 : Nat) ≠ 0 ∧ (fE2M1.round .rne false false 0 true 3 0).flags &&& fOF = 0 ∧
    (fFP32.round .rne false false 0 false 1 (-149)).flags &&& fOF = 0 := by decide

theorem witness_LaneExchangeAndVotes :
    (wState wIssue).issue = some wIssue ∧ voters wIssue 0 = [0, 1] ∧ voters wIssue 3 = [] ∧ (wState wNever).issue = some wNever := by decide

/-- Widths of one octet and of eight. -/
theorem witness_ReductionsAndScans :
    (wState wIssue).issue = some wIssue ∧ (0 ≤ 3 ∧ wIssue.coach.width = 2 ^ 0) ∧
    (3 ≤ 3 ∧ ({ wIssue with coach := { wCoach with width := 8 } } : Issue).coach.width = 2 ^ 3) := by decide

theorem witness_SpecialRegisters : (wState wIssue).issue = some wIssue ∧ 63 < 64 := ⟨rfl, by decide⟩

theorem witness_SystemInstructions : (wState wIssue).issue = some wIssue := rfl

theorem witness_ControlTransfers : (wState wIssue).issue = some wIssue := rfl

/-- The fragment's own table, and each thing that the bundle's end may do. -/
theorem witness_TransfersTakeEffectAtTheBundlesEnd :
    wIssue.coach.frag? wIssue.frag.age = some wFrag ∧ ({ wIssue with next := .jump 16 } : Issue).next = .jump 16 ∧
    ({ wIssue with next := .call {} } : Issue).next = .call {} ∧
    (let is : Issue := { wIssue with next := .ret, frag := { wFrag with calls := [{ ctx := {}, off := 16 }] } }
     is.coach.frag? is.frag.age = some wFrag ∧ is.next = .ret ∧ is.frag.calls = [{ ctx := {}, off := 16 }]) ∧
    (({ wIssue with next := .ret } : Issue).next = .ret ∧ wIssue.frag.calls = []) ∧
    ({ wIssue with next := .tend } : Issue).next = .tend ∧ ({ wIssue with next := .split 1 16 } : Issue).next = .split 1 16 := by decide

/-- A bundle that a slot has faulted, and a held one whose fault its task still has to record. -/
def wTrap : CoachFault := { code := 9, plane := 0, slot := 0, addr := 0, lane := 0, pi := 0 }

def wRaised : Coach := { wCoach with frags := [{ wFrag with cfault := some wTrap, hold := .wait 0 31 31 31 31 }] }

theorem witness_TransfersTakeEffectAtTheBundlesEnd_faults :
    (wIssue.task.coach? wIssue.coach.num).isSome = true ∧ wIssue.cfault = none ∧ wIssue.task.faults.length < 64 ∧
    ({ wIssue with cfault := some wTrap } : Issue).cfault = some wTrap ∧
    (∀ t ∈ [({ wTask with coaches := [wRaised], tend := true } : Task), { wTask with coaches := [wRaised], halted := true, stopSince := some 0 }],
      (t.stopDone = true ∨ t.tend = true) ∧ wRaised ∈ t.coaches ∧ wRaised.former = none ∧
      (∃ f ∈ wRaised.frags, f.cfault = some wTrap) ∧
      t.faults.length + (t.coaches.flatMap fun c => c.frags.filterMap fun f => f.cfault).length ≤ 64) := by decide +kernel

/-- The last bundle of a loop's body, with passes to go and at the last one; a split there, and a count of 0 that skips a body. -/
def wBody (left : Nat) : LoopEntry := { start := 16, stop := 32, left := BitVec.ofNat 32 left, steps := [], depth := 0 }

def wLooped (left : Nat) : Issue := { wIssue with frag := { wFrag with loops := [wBody left] } }

theorem witness_TransfersTakeEffectAtTheBundlesEnd_loops :
    ((wLooped 2).coach.frag? (wLooped 2).frag.age = some wFrag ∧ (wLooped 2).next = .seq ∧ (wLooped 2).frag.loops.length ≤ 4) ∧
    ((afterPass 0 32 [wBody 2]).2.1 = 16 ∧ (afterPass 0 32 [wBody 1]).2.1 = 48) ∧
    ({ wLooped 1 with next := .split 1 16 } : Issue).next = .split 1 16 ∧ ({ wIssue with next := .skip 64 } : Issue).next = .skip 64 := by decide

theorem witness_ReconvergenceAndPlanes : (wState wIssue).issue = some wIssue ∧ 63 < 64 := ⟨rfl, by decide⟩

theorem witness_ResizingAtIssue : (wState wIssue).issue = some wIssue := rfl

theorem witness_BarriersAndWaitsAtIssue : (wState wIssue).issue = some wIssue := rfl

theorem witness_LoopsAndTaskRequests : (wState wIssue).issue = some wIssue := rfl

theorem witness_AccessesAtIssue : (wState wIssue).issue = some wIssue ∧ (wState wNever).issue = some wNever ∧ 63 < 64 := ⟨rfl, rfl, by decide⟩

/-- The last word of the device extent, the first of the host extent, the last of the scratchpad, and a sector in the extent. -/
theorem witness_AccessesStayInsideGrantedExtents :
    checkGlobal State.reset wTask .write 0 false false 0x1FFFC 4 = .ok (.glob 0xFFFF 0 0x1FFFC 1 0) ∧
    checkGlobal State.reset { wTask with pinned := true } .atomic 3 true true 0x10000 8 = .ok (.glob 0xFFFF 0 0x10000 1 0) ∧
    checkGlobal State.reset wTask .read 0 false false 0x40000 4 = .ok (.host 0x80000 1) ∧
    checkScratch wTask 252 4 = .ok (.scratch 252) ∧
    checkSector State.reset wTask .read 0 4 true 0x10084 = .ok (.glob 0xFFFF 0 0x10084 1 0) := by decide
/-- A state of one running task with one coach that holds the operations given. -/
def wOps (ops : List Op) : Coach := { wCoach with ops := ops }

def wRun (ops : List Op) : Task := { wTask with coaches := [wOps ops] }

def wRunning (ops : List Op) : State := { State.reset with tasks := [wRun ops] }

/-- A lane's part at the first byte of the device extent, at host memory, at the scratchpad. -/
def wDevLane : LaneOp := { lane := 0, va := 0x10000, loc := .glob 0xFFFF 0 0x10000 1 0, data := [1, 2, 3, 4] }

def wHostLane : LaneOp := { lane := 63, va := 0x40000, loc := .host 0x80000 1, data := [1, 2, 3, 4] }

def wScrLane : LaneOp := { lane := 0, va := 252, loc := .scratch 252, data := [1, 0, 0, 0, 0, 0, 0, 0] }

def wLd (x : LaneOp) : Op := { seq := 0, cls := some .l, body := .load 4 8 plainExt, lanes := [x] }

def wSt (x : LaneOp) (e : MemExt) : Op := { seq := 0, cls := some .s, body := .store 4 e, lanes := [x] }

/-- A sector by row at the extent's start, and the L1 line of its first segment. -/
def wSector : Sector := { ret := 0, base := 0x10000, pc := 0, valid := 1, owner := 1 }

def wLine : L1Line := { ret := 0, cu := 0, column := false, base := 0x10000, key := 1, data := List.replicate 32 7 }

/-- A latch whose coach holds a load still outstanding, or nothing. -/
def wBusy : Issue := { wOne with coach := wOps [wLd wDevLane] }

/-- Lane 0 holds 0x10000, in the device extent, in v2 and v3. -/
def wHint : Issue :=
  let c : Coach := { wCoach with v := [(128, 0x10000)] }
  { wOne with coach := c, snap := c }

theorem witness_FencesAndHints :
    (wState wIssue).issue = some wIssue ∧
    ((wState wBusy).issue = some wBusy ∧ ∃ p ∈ wBusy.coach.ops, p.done = false ∧ (p.isAccess || p.isFence) = true) ∧
    ((wState wHint).issue = some wHint ∧ (∀ p ∈ wHint.coach.ops, p.done = false → (p.isAccess || p.isFence) = false) ∧
      hintLanes (wState wHint) wHint 2 = [{ lane := 0, va := 0x10000, loc := .glob 0xFFFF 0 0x10000 1 0 }] ∧
      ((wState wHint).allocSector 0 (secBase 0 0x10000) 0 1 false true false).isSome = true) ∧
    (let far : Extent := { wDev with pa := 0x0007000000010000 }
     let is : Issue := { wHint with task := { wTask with extents := [far] } }
     hintLanes (wState is) is 2 = [{ lane := 0, va := 0x10000, loc := .glob 7 0 0x10000 1 0 }] ∧ (Loc.glob 7 0 0x10000 1 0).isAway = true) ∧
    (let s := { wState wHint with sectors := [{ wSector with pinned := true }], parts := [{ num := 0, rets := [(0, 0xFF)], key := 1 }] }
     s.sector? 0 (secBase 0 0x10000) 0 = some { wSector with pinned := true } ∧ (s.homePart 0).map (·.num) = some (s.topPart wHint.task.part)) ∧
    (let o : Op := { seq := 0, cls := none, body := .fence 2 0 }
     (wRunning [o]).findOp 1 0 0 = some (wRun [o], wOps [o], o) ∧
     (∀ p ∈ (wOps [o]).ops, p.seq < o.seq → p.done = false → p.isFence = false ∧ p.isAccess = false) ∧ 2 ≤ 2 ∧ NoHints (wOps [o])) := by
  refine ⟨rfl, ⟨rfl, by decide⟩, ⟨rfl, by decide, by decide, by decide⟩, by decide, by decide, by decide, by decide, by decide, ?_⟩
  intro p hp
  simp [wOps] at hp
  subst hp
  trivial

/-- Lane 63 of a load from host memory, lane 0 of loads from the scratchpad and from a segment in the L1. -/
theorem witness_LoadsComplete :
    (MayPerform (wRunning [wLd wHostLane]) 1 0 0 63 (wRun [wLd wHostLane]) (wOps [wLd wHostLane]) (wLd wHostLane) wHostLane ∧
      (wLd wHostLane).cls = some .l ∧ (wLd wHostLane).body = .load 4 8 plainExt ∧ (wRunning [wLd wHostLane]).retired wHostLane.loc = false ∧
      (wOps [wLd wHostLane]).forwarded (wLd wHostLane) wHostLane 4 = none) ∧
    MayPerform (wRunning [wLd wScrLane]) 1 0 0 0 (wRun [wLd wScrLane]) (wOps [wLd wScrLane]) (wLd wScrLane) wScrLane ∧
    (let s := { wRunning [wLd wDevLane] with lines := [wLine] }
     MayPerform s 1 0 0 0 (wRun [wLd wDevLane]) (wOps [wLd wDevLane]) (wLd wDevLane) wDevLane ∧ s.rowLine? 0 0 (0x10000 / 32 * 32) = some wLine ∧
     plainExt.order ≠ 4) ∧
    (let st : Op := wSt wScrLane plainExt
     let ld : Op := { wLd wScrLane with seq := 1 }
     MayPerform (wRunning [st, ld]) 1 0 1 0 (wRun [st, ld]) (wOps [st, ld]) ld wScrLane ∧ ((wOps [st, ld]).forwarded ld wScrLane 4).isSome = true) := by
  unfold MayPerform; decide

theorem witness_AtomicsPinsAndAxisLoads :
    (let o : Op := { wLd wScrLane with body := .atom 4 8 plainAtom }
     MayPerform (wRunning [o]) 1 0 0 0 (wRun [o]) (wOps [o]) o wScrLane ∧ o.cls = some .l ∧ o.body = .atom 4 8 plainAtom ∧
     wScrLane.loc = .scratch 252) ∧
    (let o : Op := { wLd wDevLane with body := .pin 8 0 }
     MayPerform (wRunning [o]) 1 0 0 0 (wRun [o]) (wOps [o]) o wDevLane ∧ o.cls = some .l ∧ o.body = .pin 8 0 ∧
     wDevLane.loc = .glob 0xFFFF 0 0x10000 1 0) ∧
    (let o : Op := { wLd wDevLane with body := .ldaxis 8 0 1 }
     let li : L1Line := { wLine with column := true, base := 0x10000, j := 0 }
     let s := { wRunning [o] with lines := [li] }
     MayPerform s 1 0 0 0 (wRun [o]) (wOps [o]) o wDevLane ∧ o.body = .ldaxis 8 0 1 ∧
     ∀ i, i < 1 → (s.lines.find? fun li => li.ret == 0 && li.cu == 0 && li.column && li.base == secBase 0 0x10000 && li.pc == 0 &&
       li.j == 0x10000 % 32 + i) = some li ∧ li.data = List.replicate 32 7) ∧
    NoHints (wOps [{ wLd wDevLane with body := .pin 8 0 }]) := by
  refine ⟨by unfold MayPerform; decide, by unfold MayPerform; decide, by unfold MayPerform; decide, ?_⟩
  intro p hp
  simp [wOps] at hp
  subst hp
  trivial

/-- The extent's start with its home in no sector, in one by row and in one by column; and a clean line for an access under order 4. -/
theorem witness_HomeStands (s : State) (pol : Nat)
    (h : s ∈ [wRunning [wLd wDevLane], { wRunning [wLd wDevLane] with sectors := [wSector] },
      { wRunning [wLd wDevLane] with sectors := [{ wSector with column := true }], lines := [wLine] }]) : HomeStands s 0 0x10000 4 pol := by
  simp only [List.mem_cons, List.not_mem_nil, or_false] at h
  rcases h with rfl | rfl | rfl
  · exact ⟨by decide, by decide, .inr (by decide)⟩
  · exact ⟨by decide, by decide, by decide, .inl (by decide)⟩
  · refine ⟨by decide, by decide, by decide, .inr fun l hl _ _ => ?_⟩
    have : l = wLine := by simpa [wRunning] using hl
    subst this
    rfl

theorem witness_LoadsComplete_home :
    (let o : Op := { wLd wDevLane with body := .load 4 8 { plainExt with order := 4 } }
     let s : State := { wRunning [o] with lines := [wLine], sectors := [{ wSector with column := true }] }
     MayPerform s 1 0 0 0 (wRun [o]) (wOps [o]) o wDevLane ∧ s.rowLine? 0 0 (0x10000 / 32 * 32) = some wLine ∧ wLine.dirty = 0) ∧
    (let far : LaneOp := { wDevLane with loc := .glob 0xFFFF 3 0x10000 1 0 }
     MayPerform { wRunning [wLd far] with parts := [{ num := 0, rets := [(0, 0xFF), (3, 0xFF)], key := 1 }] } 1 0 0 0 (wRun [wLd far]) (wOps [wLd far])
       (wLd far) far ∧ (3 ≠ (wRun [wLd far]).ret)) ∧
    (let s : State := { wRunning [wLd wDevLane] with root := { retired := [0x10000] } }
     MayPerform s 1 0 0 0 (wRun [wLd wDevLane]) (wOps [wLd wDevLane]) (wLd wDevLane) wDevLane ∧ s.retired wDevLane.loc = true) := by
  unfold MayPerform; decide

/-- An atomic at its home, the segment in a sector by row, no line of it or a clean one in the CU. -/
theorem witness_AtomicsPinsAndAxisLoads_home :
    (let o : Op := { wLd wDevLane with body := .atom 4 8 plainAtom }
     let s : State := { wRunning [o] with sectors := [wSector], lines := [wLine] }
     MayPerform s 1 0 0 0 (wRun [o]) (wOps [o]) o wDevLane ∧ o.body = .atom 4 8 plainAtom ∧ plainAtom.order = 0 ∧
     s.rowLine? 0 0 (0x10000 / 32 * 32) = some wLine ∧ wLine.dirty = 0) ∧
    (let o : Op := { wLd wDevLane with body := .atom 4 8 plainAtom }
     NoHints (wOps [o]) ∧ RowHome { wRunning [o] with sectors := [wSector], lines := [wLine] } 0 0x10000 4) := by
  refine ⟨by unfold MayPerform; decide, ?_, by decide, by decide, wSector, 0, by decide, by decide, by decide⟩
  intro p hp
  simp [wOps] at hp
  subst hp
  trivial

/-- What a PIN finds: a pinned sector of another pitch, the sector pinned already, 15 pinned ways of its set, and a quota that is used up
and one that is not. -/
def wPins (sec : List Sector) (quota : Nat) : State :=
  { wRunning [{ wLd wDevLane with body := .pin 8 0 }] with sectors := sec, parts := [{ num := 0, rets := [(0, 0xFF)], key := 1, pinQuota := quota }] }

def wWays : List Sector := (List.range 15).map fun i => { wSector with base := 0x10000 + (i + 1) * 0x1000400, pinned := true }

theorem witness_AtomicsPinsAndAxisLoads_pins :
    PitchConflict (wPins [{ wSector with pc := 1, pinned := true }] 4) 0 0x10000 0 ∧
    ((wPins [{ wSector with pinned := true }] 4).sector? 0 (secBase 0 0x10000) 0).any (fun y => y.pinned) = true ∧
    pinnedWays (wPins wWays 40) 0 0x10000 0 = 15 ∧ pinnedWays (wPins [] 0) 0 0x10000 0 = 0 ∧
    pinQuotaAt (wPins [] 0) 0 = 0 ∧ pinsUsed (wPins [] 0) 0 = 0 ∧ pinQuotaAt (wPins [] 4) 0 = 4 ∧
    ((wPins [] 4).sector? 0 (secBase 0 0x10000) 0).any (fun y => y.pinned) = false :=
  ⟨⟨{ wSector with pc := 1, pinned := true }, by decide, rfl, rfl, by decide, 0, 0, by decide, by decide, by decide, by decide⟩, by decide,
    by decide +kernel, by decide, by decide, by decide, by decide, by decide⟩

theorem witness_no_conflict : ¬ PitchConflict (wPins [] 4) 0 0x10000 0 ∧ ¬ PitchConflict (wPins [] 0) 0 0x10000 0 := by
  constructor <;> (rintro ⟨y, hy, -⟩; simp [wPins] at hy)

/-- Stores at the queue's head: the scratchpad, host memory, a segment resident by row, and one stored without allocation. -/
theorem witness_StoresPerformed :
    (let o := wSt wScrLane plainExt
     (wOps [o]).queueHead = some o ∧ MayPerform (wRunning [o]) 1 0 o.seq 0 (wRun [o]) (wOps [o]) o wScrLane) ∧
    (let o := wSt wHostLane plainExt
     (wOps [o]).queueHead = some o ∧ MayPerform (wRunning [o]) 1 0 o.seq 63 (wRun [o]) (wOps [o]) o wHostLane) ∧
    (let o := wSt wDevLane plainExt
     let s := { wRunning [o] with sectors := [wSector] }
     (wOps [o]).queueHead = some o ∧ MayPerform s 1 0 o.seq 0 (wRun [o]) (wOps [o]) o wDevLane ∧ plainExt.order ≠ 2 ∧ 0x10000 % 32 + 4 ≤ 32 ∧
     s.rowLine? 0 0 (0x10000 / 32 * 32) = none ∧ s.resident? 0 (0x10000 / 32 * 32) = some (wSector, 0) ∧ wSector.column = false ∧
     s.sector? 0 wSector.base wSector.pc = some wSector) ∧
    (let e := { plainExt with policy := 3 }
     let o := wSt wDevLane e
     (wOps [o]).queueHead = some o ∧ MayPerform (wRunning [o]) 1 0 o.seq 0 (wRun [o]) (wOps [o]) o wDevLane ∧
     (wRunning [o]).resident? 0 (0x10000 / 32 * 32) = none ∧ e.policy = 3) ∧
    NoHints (wOps [wSt wScrLane plainExt]) := by
  refine ⟨by unfold MayPerform; decide, by unfold MayPerform; decide, by unfold MayPerform; decide, by unfold MayPerform; decide, ?_⟩
  intro p hp
  simp [wOps] at hp
  subst hp
  trivial

/-! Requests across wafers -/

/-- A request of node 7 at the extent's start, and a wafer whose partition's policy admits that node's function 2. -/
def wReq (k : ReqKind) : RemoteReq := { srcNode := 7, srcRet := 3, tid := 9, vf := 2, tc := 1, dest := 0xFFFF000000010000, kind := k }

def wHome : Partition := { num := 0, rets := [(0, 0xFF)], key := 1 }

def wPeer : State :=
  { State.reset with
    vfs := [{ num := 0, policy := { peers := [5] }, state := .ready }]
    parts := [wHome]
    sectors := [wSector]
    root := { bindings := [(7, 2, 5)] } }

theorem none_held {α : Type} {P : α → Prop} {l : List α} (h : l = []) : ∀ x ∈ l, P x := by simp [h]

/-- A wafer out of service, one that has applied the request, a wrong reticle, an unknown node; then a read, a write and a signal. -/
theorem witness_RequestsAtTheirHome :
    (wPeer.live 24 = false ∧ wPeer.live 0 = true ∧ wPeer.live 1 = true ∧ wPeer.port.applied = []) ∧
    (let x : Applied := { req := wReq (.read 4 0), data := [1, 2, 3, 4] }
     let s := { wPeer with port := { applied := [x] } }
     (s.port.applied.find? fun x => sameTid x (wReq (.read 4 0))) = some x ∧ x.acked = false ∧
     sameTid { x with acked := true } (wReq (.read 4 0)) = true ∧ ({ x with acked := true } : Applied).req = wReq (.read 4 0) ∧
     ({ x with acked := true } : Applied).req ≠ wReq (.signal 1)) ∧
    field (wReq (.read 4 0)).dest 42 6 ≠ 1 ∧ wPeer.peerOk 8 2 0 0x10000 = false ∧
    (∀ k, Admitted wPeer 0 (wReq k) 0x10000 wHome) ∧ RowHome wPeer 0 0x10000 8 ∧ 0 < 8 := by
  have peer : wPeer.peerOk 7 2 0 0x10000 = true := by decide +kernel
  have home : wPeer.homePart 0 = some wHome := by decide
  exact ⟨by decide, by decide, (by decide : field (0xFFFF000000010000 : Dword) 42 6 ≠ 1), by decide +kernel,
    fun k => ⟨by decide, none_held rfl, (by decide : 0x10000 = field (0xFFFF000000010000 : Dword) 0 42),
      (by decide : field (0xFFFF000000010000 : Dword) 42 6 = 0), peer, home, none_held rfl⟩,
    ⟨by decide, by decide, wSector, 0, by decide, by decide, by decide⟩, by decide⟩

def wAway : LaneOp := { wDevLane with loc := .glob 7 0 0x10000 1 0 }

/-- The request of the load's lane at the port engine, refused or without an answer. -/
def wAsked (a : Option Answer) : PortReq :=
  { client := .lane 1 0 0 0, va := 0x10000, req := wReq (.read 4 0), sent := true, answer := a }

def wFails (a : Option Answer) (now : Nat) : State := { wRunning [wLd wAway] with clock := now, port := { reqs := [wAsked a] } }

theorem witness_RequestsThatFail :
    (Outstanding (wFails (some .refused) 0) 1 0 0 (wRun [wLd wAway]) (wOps [wLd wAway]) (wLd wAway) ∧
      (wFails (some .refused) 0).opReqs 1 (wOps [wLd wAway]) 0 (fun q => q.answer == some .refused) = [wAsked (some .refused)] ∧
      (wRun [wLd wAway]).fate = none ∧ (wRun [wLd wAway]).phase ≠ .ended) ∧
    (Outstanding (wFails none 32000000) 1 0 0 (wRun [wLd wAway]) (wOps [wLd wAway]) (wLd wAway) ∧
      (wFails none 32000000).opReqs 1 (wOps [wLd wAway]) 0 (wFails none 32000000).overdue = [wAsked none] ∧
      ∀ scope tc ps, (wLd wAway).body ≠ .coll scope tc ps) := by
  refine ⟨?_, ?_, ?_, ?_⟩
  · unfold Outstanding; decide
  · unfold Outstanding; decide
  · decide
  · intro _ _ _ h; cases h

/-! Copies -/

/-- A linear copy of 2048 bytes from host memory to the scratchpad, none of it written, and one to host memory. -/
def wCopy (store : Bool) : Copy := { lane := 0, site := {}, kind := .linear store 0x40000 2048, s := 0, chunks := 2 }

def wBatch (store : Bool) : Op := { seq := 1, cls := some .c, body := .batch 0 [wCopy store] none }

theorem witness_CopiesAtIssue :
    (wState wIssue).issue = some wIssue ∧ wIssue.coach.openBatch.length + 8 ≤ 16 ∧
    ((wState wOne).issue = some wOne ∧ participants wOne = [0] ∧
      (let is : Issue := { wOne with coach := { wCoach with openBatch := List.replicate 16 (wCopy false) } }
       participants is = [0] ∧ 16 ≤ is.coach.openBatch.length)) ∧
    (match checkSpans State.reset wTask true false [(0x10000, 4), (0x1FFFF, 1)] with
      | .ok => True
      | _ => False) ∧
    (match checkSpans State.reset wTask false false [(0x40FFF, 1)] with
      | .ok => True
      | _ => False) := by
  refine ⟨rfl, by decide, by decide, ?_, ?_⟩
  · rw [show checkSpans State.reset wTask true false [(0x10000, 4), (0x1FFFF, 1)] = .ok from rfl]; trivial
  · rw [show checkSpans State.reset wTask false false [(0x40FFF, 1)] = .ok from rfl]; trivial

def wHost3 : Extent := { wHost with perm := 3 }

/-- A batch whose copies are finished, and one that an error cut short. -/
def wCopied : Copy := { wCopy false with next := 2 }

def wFull : Op := { wBatch false with body := .batch 0 [wCopied] none }

def wCut : Op := { wBatch false with body := .batch 0 [wCopy false] (some (1, 0, 5)) }

theorem witness_CopiesWriteChunks :
    (∀ st ∈ [false, true], (wRunning [wBatch st]).findCopy 1 0 0 0 = some (wRun [wBatch st], wOps [wBatch st], wCopy st)) ∧
    (∀ st ∈ [false, true], (wRunning [wBatch st]).chunkReady (wRun [wBatch st]) (wOps [wBatch st]) 0 0 (wCopy st) = true) ∧
    (∀ st ∈ [false, true], (((wRunning [wBatch st]).chunkLocs (wRun [wBatch st]) (wCopy st) 0).all fun l =>
      !(wRunning [wBatch st]).refused (wRun [wBatch st]) l.1 && !l.1.isAway) = true) ∧
    (∀ st ∈ [false, true], (wCopy st).kind = .linear st 0x40000 2048 ∧ (wCopy st).next * 1024 < 2048) ∧
    ({ wTask with extents := [wHost3] } : Task).extent? .read (0x40000 + 0 * 1024) 1024 = some wHost3 ∧
    ({ wTask with extents := [wHost3] } : Task).extent? .write (0x40000 + 0 * 1024) 1024 = some wHost3 ∧
    (wRunning [wFull]).task? 1 = some (wRun [wFull]) ∧ (wRun [wFull]).coach? 0 = some (wOps [wFull]) ∧
    (wOps [wFull]).oldestBatch = some (wFull, 0, [wCopied], none) ∧ (∀ x ∈ [wCopied], x.chunks ≤ x.next) ∧
    (wOps [wCut]).oldestBatch = some (wCut, 0, [wCopy false], some (1, 0, 5)) :=
  ⟨by decide, by decide, by decide, by decide, by decide, by decide, by decide, by decide, rfl, by decide, rfl⟩

/-- A linear copy of 32 bytes at the device extent's start, and a box of 32 bytes there by a record of one-byte elements, to or from it. -/
def wDevCopy (store : Bool) : Copy := { lane := 0, site := {}, kind := .linear store 0x10000 32, s := 0, chunks := 1 }

def wLayout (store : Bool) : Layout :=
  BitVec.ofNat 512 (0x10000 + 32 * 2 ^ 64 + 2 ^ 96 + 2 ^ 128 + 2 ^ 160 + 31 * 2 ^ 352 + 3 * 2 ^ 384 + (if store then 2 ^ 392 else 0) + 2 ^ 400)

def wBoxCopy (store : Bool) : Copy := { lane := 0, site := {}, kind := .box (wLayout store) 0 0 0 0, s := 0, chunks := 1 }

def wChunk (x : Copy) : Op := { wBatch false with body := .batch 0 [x] none }

/-- The whole sector at the device extent's start, by row. -/
def wWhole : Sector := { wSector with valid := BitVec.allOnes 32 }

def wMoving (x : Copy) : State := { wRunning [wChunk x] with sectors := [wWhole] }

/-- Whether a place lies in that sector. -/
def inSeg (l : Loc × Nat) : Bool :=
  match l.1 with
  | .glob node ret off _ _ => node == 0xFFFF && ret == 0 && decide (0x10000 ≤ off) && decide (off + l.2 ≤ 0x10400)
  | _ => false

theorem quiet_of_inSeg (s : State) (ls : List (Loc × Nat)) (hs : s.sectors = [wWhole]) (h : ls.all inSeg = true) : Quiet s ls := by
  have row : ∀ k < 32, (s.resident? 0 (0x10000 + 32 * k)).map (·.1) = some wWhole := by simp only [State.resident?, hs]; decide +kernel
  intro x hx
  have := List.all_eq_true.1 h x hx
  rcases x with ⟨l, n⟩
  cases l <;> simp [inSeg] at this ⊢
  obtain ⟨⟨⟨rfl, rfl⟩, lo⟩, hi⟩ := this
  refine ⟨rfl, fun i hi' => ?_⟩
  rename_i off _ _
  have e : (off + i) / 32 * 32 = 0x10000 + 32 * ((off + i) / 32 - 2048) := by omega
  obtain ⟨⟨y, j⟩, hy, rfl⟩ := Option.map_eq_some_iff.1 (row ((off + i) / 32 - 2048) (by omega))
  exact ⟨by omega, by omega, wWhole, j, by rw [e]; exact hy, rfl, by simp only [State.sector?, hs]; decide +kernel⟩

theorem witness_CopiesWriteChunks_device (x : Copy) (h : x ∈ [wDevCopy false, wDevCopy true, wBoxCopy false, wBoxCopy true]) :
    (wMoving x).findCopy 1 0 0 0 = some (wRun [wChunk x], wOps [wChunk x], x) ∧ (wMoving x).chunkReady (wRun [wChunk x]) (wOps [wChunk x]) 0 0 x = true ∧
    (∀ l ∈ (wMoving x).chunkLocs (wRun [wChunk x]) x x.next, (wMoving x).refused (wRun [wChunk x]) l.1 = false ∧ l.1.isAway = false) ∧
    Quiet (wMoving x) ((wMoving x).chunkLocs (wRun [wChunk x]) x x.next) ∧ CleanCU (wMoving x) (wRun [wChunk x]) := by
  simp only [List.mem_cons, List.not_mem_nil, or_false] at h
  refine ⟨?_, ?_, ?_, quiet_of_inSeg _ _ rfl ?_, none_held rfl⟩ <;> rcases h with rfl | rfl | rfl | rfl <;> decide +kernel

theorem witness_CopiesWriteChunks_places :
    (wRun [wChunk (wDevCopy false)]).extent? .read 0x10000 32 = some wDev ∧ (wRun [wChunk (wDevCopy true)]).extent? .write 0x10000 32 = some wDev ∧
    (wMoving (wDevCopy true)).locate wDev 0x10000 = .glob 0xFFFF 0 0x10000 1 0 ∧
    (wLayout true).tgt = 0 ∧ (wLayout true).sfmt = 3 ∧ (wLayout true).axis = false ∧ (wLayout true).store = true ∧ (wLayout false).store = false ∧
    (wLayout true).size 0 = 32 ∧ (wLayout true).box 0 = 32 ∧ (wRun [wChunk (wBoxCopy true)]).extent? .write 0x1001F 1 = some wDev := by decide +kernel

/-! Matrix and port engines -/

/-- A latch whose coach names a good tile in g4 and a bad one in g5, an address in g6, and control words in g8 (scratchpad, FP32, a
pitch of 512) and g10 (a pitch below the row). -/
def wTile : Coach := { wCoach with g := [(4, 0x00000007), (5, 0x00600007), (8, 0x00200008), (10, 0x00100008)] }

def wMx : Issue := { wOne with coach := wTile, snap := wTile }

/-- A tag entry, and a part of octet 0 that is bound to it, started or not. -/
def wTag : TagEntry := { tag := 7, group := 0, pos := 0, fmt := 0, ready := true }

def wPart (started : Bool) : Part :=
  { octet := 0, lanes := 0xFF, ac := 2, rows := [(0, 0, .scratch 0), (7, 64, .scratch 64)], slot := some wTag, started }

def wMma (started : Bool) : Op := { seq := 0, cls := some .t, body := .mma [wPart started] }

def wOut : Op := { seq := 0, cls := some .t, body := .mst false 0x00200008 1 [{ wPart false with rows := [(0, 0, .scratch 0)] }] }

theorem witness_MatrixAtIssue :
    ((wState wNever).issue = some wNever ∧ wNever.cur.pred = 0xF) ∧
    ((wState wMx).issue = some wMx ∧ wMx.cur.pred ≠ 0xF ∧ wMx.enabled ≠ 0 ∧ ctlOk false (wMx.snap.gget 10) = false ∧
      ctlOk false (wMx.snap.gget 8) = true ∧ ctlOk true (wMx.snap.gget 8) = true) ∧
    (bDescriptor (wMx.snap.gget 5) wMx.task.span = none ∧ (bDescriptor (wMx.snap.gget 4) wMx.task.span).isSome = true) := by decide

theorem witness_MatrixPartsComplete :
    ((wRunning [wMma false]).task? 1 = some (wRun [wMma false]) ∧
      (wRun [wMma false]).groupQueue 0 = [{ coach := wOps [wMma false], op := wMma false, part := wPart false }] ∧
      (wRun [wMma false]).tileReady { coach := wOps [wMma false], op := wMma false, part := wPart false } = true ∧
      (wRunning [wMma false]).partReady (wRun [wMma false]) (wOps [wMma false]) (wMma false) (wPart false) = true ∧
      (wPart false).started = false ∧
      (wRun [wMma false]).coach? 0 = some (wOps [wMma false]) ∧ (wOps [wMma false]).op? 0 = some (wMma false)) ∧
    (Outstanding (wRunning [wMma true]) 1 0 0 (wRun [wMma true]) (wOps [wMma true]) (wMma true) ∧
      (wRunning [wMma true]).mmaReady (wRun [wMma true]) (wOps [wMma true]) (wMma true) (wPart true) = true ∧ (wPart true).slot = some wTag ∧
      (∀ x ∈ (wPart true).rows, x.1 < 8) ∧ (wPart true).ac < 8) ∧
    (let o : Op := { wMma false with body := .mzero [wPart false] }
     Outstanding (wRunning [o]) 1 0 0 (wRun [o]) (wOps [o]) o ∧ (wRunning [o]).partReady (wRun [o]) (wOps [o]) o (wPart false) = true) ∧
    (let o : Op := { wMma false with body := .mrd 15 24 [wPart false] }
     Outstanding (wRunning [o]) 1 0 0 (wRun [o]) (wOps [o]) o ∧ (wRunning [o]).partReady (wRun [o]) (wOps [o]) o (wPart false) = true) ∧
    (let o : Op := { wMma false with body := .mldb wTag 0 }
     Outstanding (wRunning [o]) 1 0 0 (wRun [o]) (wOps [o]) o ∧ State.mldbReady (wRun [o]) (wOps [o]) o wTag = true) ∧
    (Outstanding (wRunning [wOut]) 1 0 0 (wRun [wOut]) (wOps [wOut]) wOut ∧ ctlScratch 0x00200008 = true ∧
      (wRunning [wOut]).partReady (wRun [wOut]) (wOps [wOut]) wOut { wPart false with rows := [(0, 0, .scratch 0)] } = true ∧
      (wPart false).gone = [] ∧ (wRunning [wOut]).reqsOf (.part 1 0 0 0) = []) := by
  unfold Outstanding
  exact ⟨⟨by decide, rfl, by decide, by decide, by decide, by decide, by decide⟩, by decide, by decide, by decide, by decide, by decide⟩

/-- A write-out of rows 0 and 7 as FP32 to the two halves of a sector, stored or added. -/
def wRows : List (Nat × Dword × Loc) := [(0, 0x10000, .glob 0xFFFF 0 0x10000 1 0), (7, 0x10200, .glob 0xFFFF 0 0x10200 1 0)]

def wMst (add : Bool) : Op := { seq := 0, cls := some .t, body := .mst true (if add then 0x400 else 0) 1 [{ wPart false with rows := wRows }] }

theorem witness_MatrixPartsComplete_memory (add : Bool) :
    let o := wMst add
    let w : Word := if add then 0x400 else 0
    let s : State := { wRunning [o] with sectors := [wWhole] }
    Outstanding s 1 0 0 (wRun [o]) (wOps [o]) o ∧ s.partReady (wRun [o]) (wOps [o]) o { wPart false with rows := wRows } = true ∧
    s.reqsOf (.part 1 0 0 0) = [] ∧ ctlScratch w = false ∧ ctlFmt w = 0 ∧ ctlAdd w = add ∧ outRow 0 = 512 ∧ CleanCU s (wRun [o]) ∧
    (∀ x ∈ wRows, (wRun [o]).extent? .write x.2.1.toNat 512 = some wDev ∧ Quiet s [(s.locate wDev x.2.1.toNat, 512)] ∧
      s.pathOk 0 (s.locate wDev x.2.1.toNat) = true ∧ s.refused (wRun [o]) (s.locate wDev x.2.1.toNat) = false ∧
      ((s.rowLocs (wRun [o]) w x.2.1).map fun l => l.1) = [s.locate wDev x.2.1.toNat] ∧ s.locate wDev x.2.1.toNat = x.2.2) ∧
    wRows.Pairwise (fun x y => x.2.2.meets 512 y.2.2 512 = false) ∧
    (∀ x ∈ wRows, ∀ k, k < 128 → (wRun [o]).extent? .atomic (x.2.1.toNat + 4 * k) 4 = some wDev ∧
      s.locate wDev (x.2.1.toNat + 4 * k) = x.2.2.plus (4 * k)) := by
  intro o w s
  refine ⟨by unfold Outstanding; cases add <;> decide, by cases add <;> decide +kernel, by cases add <;> decide, by cases add <;> decide,
    by cases add <;> decide, by cases add <;> decide, by decide, none_held rfl, fun x hx => ?_, by decide, fun x hx => ?_⟩
  · refine ⟨?_, quiet_of_inSeg _ _ rfl ?_, ?_, ?_, ?_, ?_⟩ <;> (revert x; cases add <;> decide +kernel)
  · revert x; cases add <;> decide +kernel

/-- Two parts of one group's queue, none of them started. -/
theorem witness_MatrixPartsComplete_queue :
    let o : Op := { wMma false with body := .mma [wPart false, { wPart false with octet := 1 }] }
    (wRun [o]).groupQueue 0 = [{ coach := wOps [o], op := o, part := wPart false }, { coach := wOps [o], op := o, part := { wPart false with octet := 1 } }] ∧
    (∀ x ∈ (wRun [o]).groupQueue 0, x.part.started = false) ∧ (wRun [o]).tileReady { coach := wOps [o], op := o, part := wPart false } = true :=
  ⟨rfl, by decide, by decide⟩

theorem witness_PostsAndCollectivesAtIssue :
    ((wState wNever).issue = some wNever ∧ wNever.cur.pred = 0xF) ∧
    ((wState wOne).issue = some wOne ∧ wOne.cur.pred ≠ 0xF ∧ participants wOne = [0]) ∧
    ((wState wOff).issue = some wOff ∧ participants wOff = []) := by decide

/-- A function whose policy has group 5 of one member, this wafer's reticle 0, and a participation of instance 0 in it. -/
def wGroup : Group := { handle := 5, members := [(0xFFFF, 0)], timeout := 1 }

def wVf : Vf := { num := 0, handle := 0x11, state := .ready, policy := { groups := [wGroup], rights := 7, pauseMax := 2 }, hasPolicy := true }

def wJoin : Particip :=
  { lane := 0, vf := 0, grp := 5, inst := 0, src := 0x10000, dst := 0x10100, srcLen := 4, dstLen := 4
    join := { member := 0, op := 0, dtype := 0, rop := 0, count := 1, root := 0, data := [] } }

def wColl (p : Particip) : Op := { seq := 0, cls := some .n, body := .coll 0 0 [p] }

def wDone : Particip := { wJoin with result := some [1, 2, 3, 4] }

def wTold : Particip := { wJoin with told := true }

/-- The state of a function with a collective in flight, 100 microseconds after its first join. -/
def wInst (p : Particip) : State :=
  { wRunning [wColl p] with vfs := [{ wVf with colls := [{ grp := 5, ret := 0, joined := 1, failed := [], started := [(0, 0)] }] }], clock := 1600000 }

/-- The same with a second member on another wafer. -/
def wShared : State :=
  { wInst wJoin with
    vfs := [{ wVf with policy := { groups := [{ wGroup with members := [(0xFFFF, 0), (7, 0)] }] }, colls := [{ grp := 5, ret := 0, joined := 1, failed := [], started := [(0, 0)] }] }] }

def wPost (k : PostKind) : Op := { seq := 0, cls := some .n, body := .post 0 0 [{ lane := 0, kind := k, dst := 0x10000 }] }

/-- What a post asks of its destination, for each kind. -/
def wPostOk (k : PostKind) : Bool :=
  let s := { wRunning [wPost k] with sectors := [wSector] }
  let p : Post := { lane := 0, kind := k, dst := 0x10000 }
  s.postReady (wRun [wPost k]) (wOps [wPost k]) (wPost k) p && (wTask.extent? k.acc 0x10000 k.bytes == some wDev) &&
    (s.locate wDev 0x10000 == .glob 0xFFFF 0 0x10000 1 0) && s.pathOk 0 (.glob 0xFFFF 0 0x10000 1 0) &&
    !s.refused wTask (.glob 0xFFFF 0 0x10000 1 0) && decide (k.bytes ≤ 32) && s.lines.isEmpty

theorem witness_PostsAndCollectivesComplete :
    (∀ k ∈ [PostKind.words 0 4, .signal 3, .quant 0 4 16 true],
      ((wRunning [wPost k]).task? 1 = some (wRun [wPost k]) ∧ (wRun [wPost k]).coach? 0 = some (wOps [wPost k]) ∧
        (wOps [wPost k]).op? 0 = some (wPost k)) ∧ wPostOk k = true) ∧
    RowHome { wRunning [] with sectors := [wSector] } 0 0x10000 32 ∧ CleanCU { wRunning [] with lines := [wLine] } wTask ∧
    ((wInst wTold).group? 0 5 = some wGroup ∧ ((wInst wTold).joinedAt 0 5 0).isEmpty = false ∧
      (((wInst wTold).joinedAt 0 5 0).all fun j => j.part.told) = true ∧
      ((wInst wTold).allJoins wGroup ((wInst wTold).joinedAt 0 5 0) []).isSome = true) ∧
    (wShared.group? 0 5 = some { wGroup with members := [(0xFFFF, 0), (7, 0)] } ∧
      (wShared.joinedAt 0 5 0).map (fun j => (j.task, j.coach, j.op, j.part)) = [(wRun [wColl wJoin], wOps [wColl wJoin], wColl wJoin, wJoin)] ∧
      wJoin.told = false ∧ wShared.isHere 7 = false ∧ (∀ q ∈ (wOps [wColl wJoin]).ops, q.seq = 0) ∧
      wTask.extent? .read 0x10000 4 = some wDev ∧ wShared.locate wDev 0x10000 = .glob 0xFFFF 0 0x10000 1 0 ∧
      wShared.pathOk 0 (.glob 0xFFFF 0 0x10000 1 0) = true ∧ wShared.refused wTask (.glob 0xFFFF 0 0x10000 1 0) = false) ∧
    (Outstanding (wInst wDone) 1 0 0 (wRun [wColl wDone]) (wOps [wColl wDone]) (wColl wDone) ∧ wDone.done = false ∧
      wDone.result = some [1, 2, 3, 4] ∧ (∀ q ∈ (wOps [wColl wDone]).ops, q.seq = 0 → q = wColl wDone) ∧
      wTask.extent? .write 0x10100 4 = some wDev ∧ (wInst wDone).locate wDev 0x10100 = .glob 0xFFFF 0 0x10100 1 0 ∧
      (wInst wDone).pathOk 0 (.glob 0xFFFF 0 0x10100 1 0) = true ∧ (wInst wDone).refused wTask (.glob 0xFFFF 0 0x10100 1 0) = false) ∧
    ((wInst wJoin).vf? 0 = some { wVf with colls := [{ grp := 5, ret := 0, joined := 1, failed := [], started := [(0, 0)] }] } ∧
      (({ wVf with colls := [{ grp := 5, ret := 0, joined := 1, failed := [], started := [(0, 0)] }] } : Vf).firstJoin 5 0 = some 0) ∧
      0 + 1600000 * wGroup.timeout ≤ (wInst wJoin).clock ∧ (∃ tk ∈ (wInst wJoin).tasks, tk.particips (fun p => p.inInst 0 5 0) ≠ []) ∧
      ∃ m ∈ wGroup.members, (wInst wJoin).isHere m.1 = true) := by
  refine ⟨by decide +kernel, ⟨by decide, by decide, wSector, 0, by decide, by decide, by decide⟩, ?_, by decide +kernel, by decide +kernel, ?_, ?_⟩
  · intro l hl _ _
    have : l = wLine := by simpa using hl
    subst this
    rfl
  · unfold Outstanding; decide +kernel
  · exact ⟨by decide +kernel, by decide +kernel, by decide, by decide, by decide⟩

/-- Two members that have joined and read, one of them on another wafer and brought by the event. -/
def wRemote : CollJoin := { member := 1, op := 0, dtype := 0, rop := 0, count := 1, root := 0, data := [1, 0, 0, 0] }

def wTold2 : Particip := { wTold with join := { wTold.join with data := [2, 0, 0, 0] } }

def wReduce : State := { wShared with tasks := [wRun [wColl wTold2]], port := { node := 1, nodes := [{ node := 7, kind := 2, slot := 0 }] } }

theorem witness_PostsAndCollectivesComplete_shared :
    (wReduce.joinedAt 0 5 0).map (fun j => j.part) = [wTold2] ∧ wTold2.told = true ∧ wTold2.join.op = 0 ∧
    wReduce.allJoins { wGroup with members := [(0xFFFF, 0), (7, 0)] } (wReduce.joinedAt 0 5 0) [wRemote] = some [wTold2.join, wRemote] ∧
    (∀ a ∈ [wTold2.join, wRemote], ∀ b ∈ [wTold2.join, wRemote], sameJoin a b = true) ∧ wReduce.isHere 7 = false ∧
    ((collResult [wTold2.join, wRemote] 0).drop 0).take 4 = [3, 0, 0, 0] ∧
    (wInst wDone).particReady (wRun [wColl wDone]) (wOps [wColl wDone]) (wColl wDone) wDone = true ∧ wDone.wait = false ∧
    (∃ v, (wInst wJoin).vf? 0 = some v ∧ 0 ∉ (v.collAt 5 0).failed) ∧ State.reset.root.spareOf = [] := by
  refine ⟨by decide, rfl, rfl, by decide, by decide, by decide, by decide, by decide, rfl, ⟨_, rfl, by decide⟩, rfl⟩

/-! Issue, holds and barriers -/

def wWith (co : Coach) : Task := { wTask with coaches := [co] }

def wAt (clock : Nat) (co : Coach) : State := { State.reset with tasks := [wWith co], clock := clock }

theorem some_getD_of {α : Type} (o : Option α) (d : α) (h : o.isSome = true) : o = some (o.getD d) := by
  cases o with
  | none => simp at h
  | some x => rfl

/-- A fragment stalled until cycle 40. -/
def wStalled (yielded : Bool) : Frag := { wFrag with stall := some { till := 40, yielded } }

theorem witness_ReadinessEvents :
    ((wAt 40 { wCoach with yieldTill := 40 }).task? 1 = some (wWith { wCoach with yieldTill := 40 }) ∧
      (wWith { wCoach with yieldTill := 40 }).coach? 0 = some { wCoach with yieldTill := 40 }) ∧
    (∀ y ∈ [false, true], (wAt 40 { wCoach with frags := [wStalled y] }).task? 1 = some (wWith { wCoach with frags := [wStalled y] }) ∧
      ({ wCoach with frags := [wStalled y] } : Coach).frag? 0 = some (wStalled y) ∧ (wStalled y).hold = .none) ∧
    ((wAt 32 wCoach).task? 1 = some (wWith wCoach) ∧ (wWith wCoach).coach? 0 = some wCoach ∧ (wWith wCoach).issuing = true ∧
      wCoach.ready 32 = true ∧ wCoach.readySince + 32 ≤ 32) ∧
    ((wAt 0 { wCoach with interlocks := 1 }).task? 1 = some (wWith { wCoach with interlocks := 1 })) ∧
    (wCoach.pick 15 = some wFrag ∧ wCoach.pick 16 = some wFrag) ∧
    (let young : Frag := { wFrag with age := 3, passed := 16 }
     ({ wCoach with frags := [wFrag, young] } : Coach).pick 40 = some young) := by decide

/-- A code extent at 0x2000, and in it at offset 32 a bundle of three NOPs under predicate 7; offset 64 holds zeros, which are no bundle. -/
def wCode : Extent := { va := 0x2000, len := 0x1000, pa := 0xFFFF000000002000, perm := 0, host := false, pin := false, wid := 32, key := 1 }

def wFetch (f : Frag) : State :=
  { State.reset with tasks := [{ wTask with extents := [wCode], coaches := [{ wCoach with frags := [f] }] }]
                     dram := [(0x2022, 0x77), (0x2023, 0xA7)], clock := 16 }

def wIn (off : Word) (base : Dword) : Frag := { wFrag with off := off, ctx := { base := base, len := 8 } }

/-- What a fetch finds, as a number: 0 slots to issue, 1 a broken bundle, 2 an address outside the code. -/
def fetchKind (r : FetchRes) : Nat :=
  match r with
  | .items .. => 0
  | .fault _ => 1
  | .violation _ => 2

theorem witness_BundlesAreFetched :
    (∀ f ∈ [wIn 32 0x2000, wIn 64 0x2000, wIn 32 0x900000, { wIn 32 0x2000 with mid := true }],
      (wFetch f).fetchable 1 0 = some ({ wTask with extents := [wCode], coaches := [{ wCoach with frags := [f] }] }, { wCoach with frags := [f] }, f) ∧
      f.readySince + 16 ≤ (wFetch f).clock) ∧
    fetchKind ((wFetch (wIn 32 0x2000)).fetch { wTask with extents := [wCode] } wCoach (wIn 32 0x2000)) = 0 ∧
    fetchKind ((wFetch (wIn 64 0x2000)).fetch { wTask with extents := [wCode] } wCoach (wIn 64 0x2000)) = 1 ∧
    fetchKind ((wFetch (wIn 32 0x900000)).fetch { wTask with extents := [wCode] } wCoach (wIn 32 0x900000)) = 2 :=
  ⟨by decide, by decide, by decide, by decide⟩

/-- Fragments held at WAIT, at a full counter and at a full store queue whose condition is met; coaches that stand at a barrier of one
and of two arrivals, and a coach at CSPLIT with nothing outstanding. -/
def wHeld (h : Hold) : Coach := { wCoach with frags := [{ wFrag with hold := h }] }

/-- Coaches that are two octets wide. -/
def wWide : Coach := { wHeld (.csplit 1) with width := 2 }

theorem witness_HoldEvents :
    (∀ h ∈ [Hold.wait 0 31 31 31 31, .counter .l 1, .queue], (wAt 0 (wHeld h)).task? 1 = some (wWith (wHeld h)) ∧
      (wWith (wHeld h)).coach? 0 = some (wHeld h) ∧ (wHeld h).frag? 0 = some { wFrag with hold := h } ∧ wFrag.stall = none ∧
      (∀ g ∈ (wHeld h).frags, g.age = 0 → g = { wFrag with hold := h }) ∧ (wHeld h).frags.Nodup) ∧
    ((wHeld (.wait 0 31 31 31 31)).below 0 31 31 31 31 = true ∧ (wHeld (.counter .l 1)).count .l + 1 ≤ 63 ∧ (wHeld .queue).queued.length < 16) ∧
    (∀ k ∈ [1, 2], (wAt 0 (wHeld (.bar true 1 k))).task? 1 = some (wWith (wHeld (.bar true 1 k))) ∧
      (wWith (wHeld (.bar true 1 k))).coach? 0 = some (wHeld (.bar true 1 k)) ∧ (wWith (wHeld (.bar true 1 k))).stopSince = none ∧
      (wWith (wHeld (.bar true 1 k))).tend = false ∧ (wWith (wHeld (.bar true 1 k))).fate = none ∧ (wHeld (.bar true 1 k)).standsAt 1 = true ∧
      (∀ f ∈ (wHeld (.bar true 1 k)).activeFrags, f.barK 1 = some k) ∧ ((wWith (wHeld (.bar true 1 k))).barrier 1).count = 0) ∧
    ((wAt 0 wWide).task? 1 = some (wWith wWide) ∧ (wWith wWide).coach? 0 = some wWide ∧ (wWith wWide).tend = false ∧ (wWith wWide).halted = false ∧
      (wWith wWide).stopSince = none ∧ ({ wWide with parked := 1 } : Coach).parked ≠ 0 ∧
      wWide.frags = [{ wFrag with hold := .csplit 1 }] ∧ (∀ o ∈ wWide.ops, o.done = true) ∧ 0 < 1 ∧ 1 * (wWide.width / 1) = wWide.width ∧
      wWide.octet0 + wWide.width ≤ 8 ∧ wWide.width / 1 ≤ (wWith wWide).freeNums.length + 1) :=
  ⟨by decide, by decide, by decide, by decide⟩

/-- Fragments of four lanes each at RCVWAIT or at a barrier, both of them or one alone. -/
def wHalves (h : Hold) : Coach :=
  { wCoach with rb := [(1, { off := 32, hdr := 0, mask := 0xFF })]
                frags := [{ wFrag with mask := 0x0F, hold := h }, { wFrag with mask := 0xF0, age := 1, hold := h }] }

def wHalf (h : Hold) : Coach := { wHalves h with frags := [{ wFrag with mask := 0x0F, hold := h }] }

/-- Two siblings of one octet each at CFUSE, or the second of them elsewhere. -/
def wSibling (i : Nat) (off : Word) : Coach :=
  { wCoach with num := i, octet0 := i, live := BitVec.ofNat 64 (0xFF * 256 ^ i), sibs := [{ id := 5, width := 2, octet0 := 0, num := 0 }]
                frags := [{ wFrag with mask := BitVec.ofNat 64 (0xFF * 256 ^ i), off := off, hold := .cfuse }], v := [(64 + 8 * i, 7)] }

def wSet (off : Word) : Task := { wTask with coaches := [wSibling 0 32, wSibling 1 off] }

theorem witness_HoldEvents_fusing :
    (wHalves (.rcv 1)).rbGet 1 = some { off := 32, hdr := 0, mask := 0xFF } ∧ (wHalves (.rcv 1)).parked = 0 ∧
    (∀ f ∈ (wHalves (.rcv 1)).frags, f.hold = .rcv 1 ∧ f.off = 32 ∧ f.ctx.hdr = 0) ∧ OneCourse (wHalves (.rcv 1)).frags ∧
    (∀ f ∈ (wHalf (.rcv 1)).frags, f.mask.getLsbD 4 = false) ∧ (wHalf (.rcv 1)).live.getLsbD 4 = true ∧
    (∀ f ∈ (wHalves (.gen true 1 1)).frags, f.hold = .gen true 1 1) ∧ OneCourse (wHalves (.gen true 1 1)).frags ∧
    (wTask.barrier 1).gen < 1 ∧ (({ wTask with barriers := [(1, { count := 0, k := 1, gen := 1 })] } : Task).barrier 1).gen = 1 := by
  unfold OneCourse; decide

theorem witness_HoldEvents_siblings :
    (∀ t ∈ [wSet 32, wSet 48], (t.members 5).map Coach.num = [0, 1] ∧ (∀ c ∈ t.members 5, c.live ≠ 0 ∧ c.openBatch = [] ∧
      c.ops = [] ∧ c.stopped = false ∧ (c.sibs.head?.map fun y => y.id) = some 5 ∧ (c.frags.map fun f => f.hold) = [.cfuse])) ∧
    ((wSet 48).members 5).map (fun c => c.frags.map fun f => f.off) = [[32], [48]] ∧
    (∀ c ∈ (wSet 32).members 5, twf 0 c.v = true ∧ ∀ e ∈ c.v, c.lanes.getLsbD (e.1 % 64) = true) ∧
    (∀ c ∈ (wSet 32).members 5, ∀ d ∈ (wSet 32).members 5, c.num ≠ d.num → c.lanes &&& d.lanes = 0) := by decide

/-- A coach at CSPLIT behind a fence that nothing acknowledges. -/
theorem witness_HoldEvents_csplit :
    let o : Op := { seq := 0, cls := none, body := .fence 2 0, never := true }
    let co : Coach := { wWide with ops := [o] }
    co.former = none ∧ (∀ o ∈ co.ops, o.done = true ∨ o.cls = none) ∧ 0 < 1 ∧ 1 * (co.width / 1) = co.width ∧
    co.width / 1 ≤ (wWith co).freeNums.length + 1 ∧ (wWith co).stopSince = none := by decide

/-! Tasks, graphs, translation and placement -/

/-- Tenant memory at the bottom of reticle 0: three levels of stage-1 tables that map addresses below 2^34 to themselves and the 2^34
after them to host memory; a launch descriptor at 0x1000 with a function header at 0x2000, and a graph at 0x3040 of one node. -/
def wDram : List Host.Cell :=
  [(0, 1), (1, 2), (512, 1), (513, 4), (1024, 23), (1032, 15)] ++
  [(0x1001, 0x20), (0x1009, 0x20), (0x1010, 1), (0x1014, 1), (0x1018, 1), (0x101C, 1), (0x1031, 0x38)] ++
  [(0x2000, 0x10), (0x2009, 0x10), (0x200C, 4), (0x200F, 0xC7)] ++
  [(0x3040, 0x80), (0x3041, 0x30), (0x3049, 0x31), (0x3050, 1), (0x3081, 0x10), (0x3088, 1)]

def wMapped : Vf := { wVf with ranges := [{ w := true, key := 1, ia := 0, nfr := 16, pa := 0xFFFF000000000000 }] }

def wPartn : Partition := { num := 0, handle := 0x22, vf := 0, rets := [(0, 0xFF)], key := 1, sramSplit := 1 }

def wNode : Node := { desc := 0x1000, count := 2, kind := 0, ns := 1, si := 0 }

def wGraph (nodes : List Node) : Graph := { id := 7, vf := 0, hdr := 0x3040, nodes := nodes, succs := [1], started := true }

def wLaunch : Launch := { id := 5, graph := 7, node := 0, vf := 0, code := 0x2000, codeLen := 1, counter := 1, rets := [0], desc := 0x1000 }

/-- A function with one partition, one graph and one launch, and a task of the launch. -/
def wJobs (nodes : List Node) (t : Task) : State :=
  { State.reset with dram := wDram, vfs := [wMapped], parts := [wPartn], graphs := [wGraph nodes], launches := [wLaunch], tasks := [t] }

def wOver : Task := { wTask with launch := 5, coaches := [{ wCoach with live := 0 }] }

def wSig (spawn : Bool) (val : Dword) : Task :=
  { wTask with launch := 5, pinned := true, signals := [{ coach := 0, seq := 0, spawn := spawn, val := val }] }

theorem witness_TaskEvents :
    (let t : Task := { wTask with stopSince := some 0 }
     let s : State := { State.reset with tasks := [t], clock := 65536 }
     s.task? 1 = some t ∧ t.phase = .running ∧ t.stopDone = false ∧ 0 + 65536 ≤ s.clock) ∧
    ((wJobs [wNode] wOver).task? 1 = some wOver ∧ (wJobs [wNode] wOver).issue = none ∧ wOver.mayEnd = true ∧ wOver.ending = .completed ∧
      (wJobs [wNode] wOver).launch? 5 = some wLaunch ∧ wLaunch.spanned = false ∧
      ((wJobs [wNode] wOver).completeTask 1).task? 1 = none) ∧
    (let t := wSig false 0
     (wJobs [wNode] t).task? 1 = some t ∧ (t.nextSignals.find? fun y => decide (y.spawn = false)) = some { coach := 0, seq := 0, spawn := false, val := 0 } ∧
     (wJobs [wNode] t).graph? 7 = some (wGraph [wNode]) ∧ (wGraph [wNode]).nodes[0]? = some wNode ∧ wNode.state = .waiting ∧ 2 ≤ wNode.count) ∧
    (let t := wSig true 0x1000
     let s := wJobs [wNode] t
     s.task? 1 = some t ∧ t.nextSpawn = some { coach := 0, seq := 0, spawn := true, val := 0x1000 } ∧ s.spawned 0 < 1024 ∧
     (s.tasks.find? fun u => u.ret == t.ret && u.nextSpawn.isSome) = some t ∧ s.part? 0 = some wPartn ∧ s.node 7 0 = some wNode ∧
     wNode.state.final = false ∧ wLaunch.depth < 7) := by decide

theorem witness_TaskEvents_vf : (wJobs [wNode] (wSig true 0x1000)).vf? 0 = some wMapped := rfl

theorem witness_TaskEvents_spawn :
    (match (((wJobs [wNode] (wSig true 0x1000)).releaseL1 0 0).modTask 1 fun u => u.dropSignal { coach := 0, seq := 0, spawn := true, val := 0x1000 }).readLaunch
        wMapped wPartn 0x1000 (some 0) with
      | .ok y => y.counter
      | .error _ => 0) = 1 := by decide +kernel

/-- The records' home at 0x6000 in a sector by row; the last task of a launch whose record goes there, and an entry of the error ring at
0x6000. -/
def wRing : Sector := { ret := 0, base := 0x6000, pc := 0, valid := BitVec.allOnes 32, owner := 1 }

def wRecorded : State :=
  { wJobs [wNode] wOver with launches := [{ wLaunch with recbase := 0x6000 }], sectors := [wRing]
                             vfs := [{ wMapped with policy := { wMapped.policy with errBase := 0x6000 } }] }

def wRingVf : Vf := { wMapped with policy := { wMapped.policy with errBase := 0x6000 } }

theorem witness_TaskEvents_record :
    wRecorded.task? 1 = some wOver ∧ wRecorded.issue = none ∧ wOver.mayEnd = true ∧ wOver.copyOf = none ∧ NoPending wOver ∧ wOver.faults = [] ∧
    wOver.ending = .completed ∧ wRecorded.launch? 5 = some { wLaunch with recbase := 0x6000 } ∧ wRecorded.reqsOf (.record 5 0) = [] ∧
    wRecorded.lines = [] ∧ RowHome wRecorded 0 0x6000 32 := by
  refine ⟨by decide, by decide, by decide, by decide, ?_, by decide, by decide, by decide, by decide, by decide,
    by decide, by decide, wRing, 0, by decide, by decide, by decide⟩
  intro c hc f hf
  have : c = { wCoach with live := 0 } := by simpa [wOver] using hc
  subst this
  have : f = wFrag := by simpa [wCoach] using hf
  subst this
  rfl

theorem witness_TaskEvents_place :
    (wRecorded.vaPlace wRingVf 0x6000 true).map (fun h => (h, wRecorded.globLoc h.1 h.2 0)) = some ((0xFFFF000000006000, 1), .glob 0xFFFF 0 0x6000 1 0) ∧
    (wRecorded.stage2 wRingVf 0x6000 true).map (fun h => wRecorded.globLoc h.1 h.2 0) = some (.glob 0xFFFF 0 0x6000 1 0) ∧
    (∀ i < 64, (wRecorded.resident? 0 ((0x6000 + i) / 32 * 32)).map (·.1) = some wRing) := by decide +kernel

theorem witness_TaskEvents_vfs : wRecorded.vf? 0 = some wRingVf := rfl

/-- A task with a fault record, and a record on another wafer that its home has not acknowledged, and has. -/
def wRecReq (a : Option Answer) : PortReq := { client := .record 5 0, req := wReq (.write 0 []), sent := true, timeout := 1000, answer := a }

theorem witness_TaskEvents_faults :
    (let t : Task := { wOver with faults := [{ code := 9, sev := 2 }] }
     let s : State := { wRecorded with tasks := [t] }
     s.task? 1 = some t ∧ s.issue = none ∧ t.mayEnd = true ∧ t.faults ≠ [] ∧ t.ending = .terminated 9) ∧
    (∀ a ∈ [none, some (Answer.data [])],
      let s : State := { wJobs [wNode] wOver with port := { reqs := [wRecReq a] } }
      s.launch? 5 = some wLaunch ∧ (∀ q ∈ s.reqsOf (.record 5 0), q.answer ≠ some .refused ∧ s.overdue q = false) ∧
      (s.answerOf (.record 5 0)).isSome = a.isSome) := by decide

/-- The graph before it starts. -/
def wFresh : State :=
  { wJobs [] wTask with graphs := [{ wGraph [] with succs := [], started := false }], tasks := [], launches := [] }

def wStored : State := (wFresh.storeVA (wFresh.masterOf 0) wMapped (0x3040 + 24) (List.replicate 8 0)).getD State.reset

def wRan : Node := { wNode with state := .running, kind := 2 }

/-- A copy node from host memory to host memory, and its stand-in task. -/
def wCopyNode : Node := { wNode with kind := 1, state := .running, copy := some (0x40000, 0x40100, 16) }

def wStandIn : Task := { uid := 3, copyOf := some (7, 0), phase := .translated, extents := [{ wHost with perm := 0 }, { wHost with perm := 1 }] }

theorem witness_GraphEvents_start :
    wFresh.graph? 7 = some { wGraph [] with succs := [], started := false } ∧ wFresh.vf? 0 = some wMapped ∧ wFresh.vfRuns 0 = true ∧
    (match wFresh.readGraph wMapped 0x3040 with
      | .ok x => x.1.all fun n => n.count == 1 && n.state == .waiting && x.2.isEmpty
      | .error _ => false) = true ∧
    wStored.graphs = wFresh.graphs ∧ wStored.jobs = [] :=
  ⟨rfl, rfl, by decide, by decide +kernel, by decide +kernel, by decide +kernel⟩

theorem witness_GraphEvents_stored : wFresh.storeVA (wFresh.masterOf 0) wMapped (0x3040 + 24) (List.replicate 8 0) = some wStored :=
  some_getD_of _ _ (by decide +kernel)

theorem witness_GraphEvents :
    (let s := wJobs [wRan, wNode] wTask
     s.graph? 7 = some (wGraph [wRan, wNode]) ∧ s.nodeOver 7 0 = true ∧ (wGraph [wRan, wNode]).succsOf 0 = [1] ∧
     (wGraph [wRan, wNode]).nodes[1]? = some wNode ∧ wNode.state = .waiting ∧ 2 ≤ wNode.count) ∧
    (let s := wJobs [wCopyNode] wStandIn
     s.copyTask 7 0 = some wStandIn ∧ s.node 7 0 = some wCopyNode ∧ wCopyNode.copy = some (0x40000, 0x40100, 16) ∧ wStandIn.phase = .translated ∧
     wStandIn.fate = none ∧ wStandIn.wrote = false ∧ s.reqsOf (.node 3) = [] ∧ wStandIn.extent? .read 0x40000 16 = some { wHost with perm := 0 } ∧
     wStandIn.extent? .write 0x40100 16 = some { wHost with perm := 1 } ∧ wHost.host = true) ∧
    (let c : Chunk := { ret := 0, indices := [0], records := [(0, 0)] }
     let l : Launch := { wLaunch with spanned := true, chunks := [c] }
     let s := { wJobs [wNode] wTask with launches := [l] }
     s.launch? 5 = some l ∧ l.chunks[0]? = some c ∧ c.reported = false ∧ ∀ k ∈ c.indices, ∃ r ∈ c.records, r.1 = k) :=
  ⟨by decide, by decide, by decide⟩

/-- A queued task whose launch has the windows given. -/
def wAsk (ws : List Window) : State :=
  { wJobs [wNode] { wTask with launch := 5, phase := .queued, extents := [] } with launches := [{ wLaunch with windows := ws }] }

def wWin (base : Dword) (perm : Nat) : Window := { base, stride := 0, len := 0x1000, perm, pinned := false, wid := 0 }

/-- The ranges of the task, and whether they go beyond 2^52, clash, fail to translate, or wait for host pages. -/
def wants (ws : List Window) : Bool × Bool × Bool × Bool :=
  let es := { wLaunch with windows := ws }.wants 0
  let x := (wAsk ws).transAll wMapped es
  ((es.findSome? Extent.beyond).isSome, (vaClash es).isSome, x.bad.isSome, !x.waits.isEmpty)

def wWait (key : Nat) : Task :=
  { wTask with phase := .translating, waits := [{ wHost with pa := 0, len := 0x1000, key }, { wHost with va := 0x41000, pa := 0, key }] }

theorem witness_TranslationEvents :
    ((wAsk []).task? 1 = some { wTask with launch := 5, phase := .queued, extents := [] } ∧
      (wAsk []).wantsOf { wTask with launch := 5, phase := .queued, extents := [] } = some (wLaunch.wants 0) ∧
      (wAsk []).mayTranslate { wTask with launch := 5, phase := .queued, extents := [] } = true) ∧
    (let t := wWait 0
     let s : State := { State.reset with tasks := [t] }
     s.task? 1 = some t ∧ t.waitsAt 0x40000 0 = some { wHost with pa := 0, len := 0x1000 } ∧ (∃ x ∈ t.waits, x ≠ { wHost with pa := 0, len := 0x1000 }) ∧
     s.pages.length < 1024 ∧ (s.tasks.filter fun u => decide (u.uid = 1)) = [t] ∧ ∀ u ∈ s.tasks, ∀ x ∈ u.waits, x.key ≠ 2) ∧
    (let t := wWait 1
     let s : State := { State.reset with tasks := [t] }
     s.task? 1 = some t ∧ t.waitsAt 0x40FFF 1 = some { wHost with pa := 0, len := 0x1000, key := 1 }) := by decide

/-- A frame under the range of a window that a MIGRATE is moving, or nothing that moves. -/
theorem witness_TranslationEvents_moving :
    let es := ({ wLaunch with windows := [wWin 0x10000 1] } : Launch).wants 0
    let t : Task := { wTask with launch := 5, phase := .queued, extents := [] }
    let x : Inval := { id := 1, cause := 3, vf := 0, lo := 0x10000, hi := 0x20000, applied := true, move := some (1, 1, 3) }
    let s : State := wAsk [wWin 0x10000 1]
    s.overMoving (s.startTranslation wMapped es t) = false ∧ { s with root := { invals := [x] } }.overMoving (s.startTranslation wMapped es t) = true := by
  decide +kernel

/-- An address that stage 1 maps to an intermediate address in no range. -/
theorem witness_TranslationEvents_miss :
    (match ((wAsk [wWin 0x200000 0]).transAll wMapped ({ wLaunch with windows := [wWin 0x200000 0] }.wants 0)).bad with
      | some (.bad code ..) => code
      | _ => 0) = 0x22 := by decide +kernel

/-- As many page requests as may be out. -/
theorem witness_TranslationEvents_full :
    let t : Task := { wTask with phase := .translating, waits := [{ wHost with key := 0 }] }
    let s : State := { State.reset with tasks := [t], pages := List.replicate 1024 (9, 0) }
    s.task? 1 = some t ∧ t.waitsAt 0x40000 0 = some { wHost with key := 0 } ∧ 1024 ≤ s.pages.length := by
  exact ⟨rfl, by decide, by decide +kernel⟩

theorem witness_TranslationEvents_ranges :
    wants [wWin 0xFFFFFFFFFF000 0, { wWin 0 0 with wid := 1, base := 0x10000000000000 }] = (true, false, true, false) ∧
    wants [wWin 0x10000 1] = (false, false, false, false) ∧ wants [wWin 0x800000000 0] = (false, false, true, false) ∧
    wants [wWin 0x400000000 0] = (false, false, false, true) :=
  ⟨by decide +kernel, by decide +kernel, by decide +kernel, by decide +kernel⟩

/-- A translated task at the head of its queue, its partition in credit; a saved one; two of a cooperative launch; and a head that starves
while a partition out of credit runs. -/
def wQueued (saved : Bool) : Task := { wTask with launch := 5, phase := .translated, saved := saved, coaches := [] }

def wPlace (coop saved : Bool) : State :=
  { wJobs [wNode] (wQueued saved) with
    launches := [{ wLaunch with coop := coop }], rets := [{ ret := 0, credit := [(0, 5)] }] }

def wFull8 : State :=
  { wJobs [wNode] (wQueued false) with
    parts := [{ wPartn with rets := [(0, 1)] }, { wPartn with num := 1, vf := 0, rets := [(0, 1)] }]
    tasks := [{ wTask with uid := 9, part := 1, span := 8 }, { wTask with uid := 10, part := 1, cu := 1, span := 8 },
      { wTask with uid := 11, part := 1, cu := 2, span := 8 }, { wTask with uid := 12, part := 1, cu := 3, span := 8 }, wQueued false]
    rets := [{ ret := 0, credit := [(0, 5), (1, 0)] }] }

theorem witness_PlacementEvents :
    (∀ saved ∈ [false, true],
      (((wPlace false saved).choose 0).any fun c => c.task == wQueued saved && !c.task.coop (wPlace false saved) && c.task.uid == 1 && c.task.ret == 0) = true ∧
      (wPlace false saved).part? 0 = some wPartn ∧ (wPlace false saved).launch? 5 = some wLaunch ∧
      (wPlace false saved).spot wPartn (wQueued saved).shape 0 = some (0, 0, 0) ∧ (wPlace false saved).task? 1 = some (wQueued saved)) ∧
    (((wPlace true false).choose 0).any fun c => c.task.launch == 5) = true ∧
    ((wPlace true false).tasksOf { wLaunch with coop := true }).head? = some (wQueued false) ∧
    (((wPlace true false).placeCoop { wLaunch with coop := true }).isSome = true) ∧
    (((wPlace false false).ret 0).periodAt ≤ 0 ∧ (∃ p ∈ (wPlace false false).parts, p.rets.any (fun x => x.1 == 0) = true)) ∧
    ((wFull8.ret 0).creditOf 1 ≤ 0 ∧ (∃ t ∈ wFull8.tasks, t.placed = true ∧ t.ret = 0 ∧ t.part = 1) ∧
      wFull8.heads 0 = [(0, 0, wQueued false)] ∧ wFull8.starved 0 (0, 0, wQueued false) = true ∧
      wFull8.roomAfter (wQueued false) (wFull8.victims 0 0) [] = some [9] ∧ 9 ∈ wFull8.mustGo (wQueued false) [9] ∧
      10 ∉ wFull8.withMates (wFull8.mustGo (wQueued false) [9])) := by
  and_intros <;> decide +kernel

/-! Invalidation, pre-emption and errors -/

/-- Tasks that stand in an invalidation's way: running, pinned, and translated ahead of placement. -/
def wMet : State :=
  { State.reset with
    vfs := [wMapped]
    tasks := [wTask, { wTask with uid := 2, pinned := true }, { wTask with uid := 3, phase := .translated }, { wTask with uid := 4, extents := [] }] }

def wInval : Inval := { id := 1, cause := 1, vf := 0, lo := 0x40000, hi := 0x41000, applied := true }

def wAborting : Task := { wTask with phase := .aborting, coaches := [], hits := [1] }

/-- Marked tasks with nothing outstanding: one that is saved at a live point, one whose save takes the whole state. -/
def wMarked (whole : Bool) : Task :=
  { wTask with mark := some 0, saveStart := if whole then some 0 else none
               coaches := [{ wCoach with frags := [{ wFrag with hold := .bar true 0 2, lv := true }] }] }

theorem witness_InvalidationAndPreemption :
    wMet.vf? 1 = none ∧
    (wMet.task? 1 = some wTask ∧ wMet.hitBy wInval wTask = some wHost ∧ wTask.beyondInval = false ∧ wTask.phase ≠ .aborting ∧
      wTask.pinned = false ∧ wTask.placed = true) ∧
    (wMet.task? 2 = some { wTask with uid := 2, pinned := true } ∧ (wMet.hitBy wInval { wTask with uid := 2, pinned := true }).isSome = true) ∧
    (wMet.task? 3 = some { wTask with uid := 3, phase := .translated } ∧ ({ wTask with uid := 3, phase := .translated } : Task).placed = false) ∧
    (wMet.task? 4 = some { wTask with uid := 4, extents := [] } ∧ wMet.hitBy wInval { wTask with uid := 4, extents := [] } = none) ∧
    (∀ x ∈ [wInval, { wInval with cause := 2, seq := 3 }],
      ({ State.reset with root := { invals := [x] }, tasks := [wAborting] } : State).invalDone x = true ∧ x.move = none ∧
      wAborting.phase = .aborting ∧ (∀ h ∈ wAborting.hits, h = 1) ∧ wAborting.fate = none) ∧
    (∀ w ∈ [false, true], (wMarked w).saveReady = true ∧ (wMarked w).atLive = true ∧
      (({ State.reset with tasks := [wMarked w], parts := [{ wPartn with pool := [0x20000, 0x30000] }] } : State).saveMates (wMarked w)).isSome = true) ∧
    (let t : Task := { wTask with mark := some 0 }
     let s : State := { State.reset with tasks := [t], clock := 3200000 }
     s.task? 1 = some t ∧ t.phase = .running ∧ t.saveStart = none ∧ t.stopSince = none ∧ 0 + 3200000 ≤ s.clock ∧ t.coop s = false ∧ t.atLive = false) ∧
    (let t : Task := { wRun [wLd wHostLane] with saveStart := some 0 }
     t.drained = false ∧ t.stopSince = none ∧ t.fate = none) := by decide

theorem witness_InvalidationAndPreemption_vf : wMet.vf? 0 = some wMapped := rfl

/-- Two invalidations of one command, one of another, and a task that has reached TEND. -/
theorem witness_InvalidationAndPreemption_rest :
    (let x : Inval := { wInval with cause := 2, seq := 3 }
     let y : Inval := { wInval with id := 2, cause := 2, seq := 3 }
     (∃ z ∈ [x, y], z.id ≠ 1 ∧ z.seq = x.seq) ∧ ∀ z ∈ [x, { y with seq := 4 }], z.id ≠ 1 → z.seq ≠ x.seq) ∧
    ({ State.reset with tasks := [{ wTask with tend := true }] } : State).task? 1 = some { wTask with tend := true } := by decide

/-- Reticle 17 of the journal's two fenced; a clean line, a clean row of a sector; and counts of fills that ask for a move. -/
def wFenced : State := { State.reset with rets := [{ ret := 17, fenced := true }] }

def wOneFrame : Vf := { wVf with ranges := [{ w := true, key := 1, ia := 0x50000, nfr := 1, pa := 0xFFFF000000050000 }] }

def wFills : State :=
  { State.reset with vfs := [wOneFrame], parts := [wPartn], root := { fills := [(5 * 64, 10), (5 * 64 + 1, 4096)], cands := [(0, 5, 1)] } }

theorem witness_ErrorsAndMigration :
    (State.reset.live 24 = false ∧ State.reset.live 0 = true ∧ State.reset.launches = [] ∧ State.reset.graphs = []) ∧
    ((wRunning []).task? 1 = some (wRun []) ∧ (wRun []).ret = 0 ∧ (wRun []).placed = true ∧ (wRun []).fate = none) ∧
    (wFenced.root.fenced = false ∧ wFenced.live 17 = false ∧ 17 ∈ wFenced.root.journalAt ∧
      ((List.range 49).find? fun r => wFenced.live r && !wFenced.root.journalAt.contains r && !wFenced.root.workAt.contains r) = some 0) ∧
    (let s : State := { State.reset with lines := [wLine], sectors := [wSector] }
     s.rowLine? 0 0 0x10000 = some wLine ∧ wLine.dirty = 0 ∧ s.resident? 0 0x10000 = some (wSector, 0) ∧ wSector.dirty.getLsbD 0 = false) ∧
    (0x10000 / 65536 * 65536 ∉ State.reset.root.retired ∧ State.reset.homePart (0x10000 / 2 ^ 42) = none) ∧
    ((wTask.placed || wTask.saved) = true ∧ (wTask.allExtents.find? fun e => !e.host && State.reset.isHere (field e.pa 48 16) &&
      Machine.meets (field e.pa 0 48) e.len 0x10000 65536) = some wDev) ∧
    ((wFills.ret 0).fillAt ≤ wFills.clock) ∧
    ((wFills.root.cands.find? fun c => decide (c.1 = 0) && decide (c.2.1 = 5)) = some (0, 5, 1) ∧
      wFills.frameAt wOneFrame 5 = some (0x50000, 1) ∧ wFills.root.fenced = false ∧ wFills.frameHeld 0x50000 = false ∧
      wFills.mayMove 0 5 = true) ∧
    (let m : Moved := { vf := 0, frame := 5, times := [1, 2], settleTill := 9 }
     let s : State := { State.reset with root := { moved := [m] }, clock := 9 }
     (s.root.moved.find? fun m => decide (m.vf = 0) && decide (m.frame = 5)) = some m ∧ m.settleTill ≠ 0 ∧ m.settleTill ≤ s.clock) :=
  ⟨by decide, by decide, by decide +kernel, by decide, by decide, by decide, by decide, by decide +kernel, by decide⟩

/-- A frame that a partition holds is lost, with a spare in its place; and a fenced root. -/
theorem witness_ErrorsAndMigration_dram :
    wFills.root.fenced = false ∧ (wFills.homePart 0).isSome = true ∧ (wFills.homePart 0).map (·.vf) = some 0 ∧
    wOneFrame.frameOf 0x50000 = some 5 ∧ (wOneFrame.overrides.filter fun o => decide (o.frame ≠ 5)).length < 256 ∧
    tget 0 wFills.root.spares 0 < 20972 ∧ (∀ x ∈ wFills.root.spareOf, x.1 ≠ 0x50000) ∧
    ({ State.reset with root := { fenced := true } } : State).root.fenced = true ∧ wTask.fate = none ∧ wTask.phase ≠ .ended := by decide

theorem witness_ErrorsAndMigration_vf : wFills.vf? 0 = some wOneFrame := rfl

theorem witness_ErrorsAndMigration_move :
    (({ wFills with root := { wFills.root with cands := wFills.root.cands.filter fun x => decide (x ≠ (0, 5, 1)) } } : State).moveFrame 0 5 1).isSome = true := by
  decide +kernel

/-! Links -/

/-- A flit of a write's kind for reticle 0 of this wafer, and what a mesh link brings. -/
def wFlit (kind lseq : Nat) : Flit :=
  { kind, lseq, lack := 2, bytes := 4, dest := 0xFFFF000000010000, srcNode := 0xFFFF, srcRet := 3, tid := 1, payload := [1, 2, 3, 4] }

def wBits (kind lseq : Nat) : BitVec 768 := (wFlit kind lseq).word

def wLink : Link := { site := 0, port := 1, expect := 5, replay := [wFlit 2 1, wFlit 2 2, wFlit 2 3] }

def wLinks (l : Link) : State := { State.reset with links := [l] }

/-- The layout of R382: fields at their bits, and a CRC over all that precedes it. -/
theorem test_flit_layout :
    field (wBits 2 5) 20 4 = 2 ∧ field (wBits 2 5) 24 10 = 5 ∧ field (wBits 2 5) 34 10 = 2 ∧ field (wBits 2 5) 45 7 = 4 ∧
    field (wBits 2 5) 64 64 = 0xFFFF000000010000 ∧ field (wBits 2 5) 144 6 = 3 ∧ field (wBits 2 5) 150 10 = 1 ∧
    field (wBits 2 5) 160 32 = 0x04030201 := by decide +kernel

/-- The check value of CRC-32 over the nine characters 1 to 9, which every description of it gives. -/
theorem test_crc32 : crc32 9 (leNat [0x31, 0x32, 0x33, 0x34, 0x35, 0x36, 0x37, 0x38, 0x39]) = 0xCBF43926 := by decide +kernel

/-- A flipped bit is found. -/
theorem test_crc_finds_a_flip : flitBad (wBits 2 5) = false ∧ flitBad (wBits 2 5 ^^^ 0x100#768) = true := by decide +kernel

theorem witness_LinkEvents_bits :
    (∀ x ∈ [(2, 5), (11, 5), (1, 5), (2, 6), (15, 0)],
      (wLinks wLink).portUp 0 1 = true ∧ (wLinks wLink).switchOn 0 = true ∧ flitBad (wBits x.1 x.2) = false ∧ (wBits x.1 x.2).getLsbD 44 = false ∧
      (flitOf 0 (wBits x.1 x.2)).kind = x.1 ∧ (flitOf 0 (wBits x.1 x.2)).lseq = x.2) ∧
    flitBad 1 = true ∧ (flitOf 0 1).kind ≠ 15 ∧ (flitOf 0 1).lseq = ((wLinks { wLink with expect := 0 }).link 0 1).expect := by
  decide +kernel

/-- An optical port with a key under phase 0, in both directions; what depends on a site's wavelengths rests on `Config.siteTable`, and
what authentication finds on `Config.gcmOpen`, which have no value here. -/
def wOpt : Link := { site := 0, port := 4, key0 := some (1, 1), count := 2 ^ 34 }

def wKeyed : Link := { wOpt with rkey0 := some (1, 1), expect := 5 }

theorem auth_opens (l : Link) (f : Flit) (k : Nat × Nat) (n : Nat) (bs : List Byte) (hk : l.rxKey f.kp = some k) (hn : l.rxCounts f = [n])
    (h : Config.gcmOpen k.1 (flitIv k.2 n) f.aad f.payload f.mac = some bs) : l.auth f = some bs := by
  simp [Link.auth, hk, hn, h]

theorem witness_LinkEvents_optical :
    ((wLinks wOpt).portUp 0 4 = true ∧ (wLinks wOpt).switchOn 0 = true ∧ isOptical 4 = true ∧ wOpt.auth (flitOf 0 (wBits 2 5)) = none) ∧
    (∀ bs, Config.gcmOpen 1 (flitIv 1 0) (flitOf 0 (wBits 2 5)).aad (flitOf 0 (wBits 2 5)).payload (flitOf 0 (wBits 2 5)).mac = some bs →
      wKeyed.auth (flitOf 0 (wBits 2 5)) = some bs) ∧
    ((wLinks wKeyed).optRoom 0 = true ∧
      ({ wLinks wKeyed with switches := [{ site := 0, optical := List.replicate 256 (wFlit 2 0) }] } : State).optRoom 0 = false) ∧
    (flitOf 0 (wBits 2 5)).nak = false ∧ (flitRequest (flitOf 0 (wBits 2 5))).isSome = true ∧
    (wLinks wKeyed).isHere (field (flitOf 0 (wBits 2 5)).dest 48 16) = true ∧ field (flitOf 0 (wBits 2 5)).dest 42 6 = 0 := by
  exact ⟨by decide +kernel, fun bs h => auth_opens _ _ (1, 1) 0 bs (by decide +kernel) (by decide +kernel) h, by decide +kernel, by decide +kernel,
    by decide +kernel, by decide +kernel, by decide +kernel⟩

/-- An optical port that accepts none, the second and the third discarded resend of the number expected, and an optical end in service
whose far end retrains. -/
theorem witness_LinkEvents_discards :
    ({ wLinks wKeyed with switches := [{ site := 0, optical := List.replicate 256 (wFlit 2 0) }] } : State).accepts 0 4 = false ∧
    (wLinks wLink).accepts 0 1 = true ∧ flitBad (wBits 2 5 ^^^ 0x100#768) = true ∧ (flitOf 0 (wBits 2 5 ^^^ 0x100#768)).lseq = wLink.expect ∧
    (∀ d ∈ [1, 2], let l := { wLink with nakSent := true, discards := d }
      ((wLinks l).link 0 1).nakSent = true ∧ ((wLinks l).link 0 1).discards = d ∧ ((wLinks l).link 0 1).level < 6) ∧
    ((wLinks wOpt).link 0 4).retraining = false ∧ (wLinks wOpt).optUp 0 4 = true ∧ (wLinks { wOpt with level := 6 }).optUp 0 4 = true ∧
    wKeyed.mayTx = true := by
  decide +kernel

theorem witness_LinkEvents :
    (let s : State := { State.reset with port := { out := [linkKey 0 1] } }
     s.portUp 0 1 = false ∧ (wLinks wLink).portUp 0 1 = true ∧ ((wLinks wLink).link 0 1).discards < 3) ∧
    (((wLinks wLink).link 0 1).nakAt = none ∧ (let l := { wLink with nakAt := some 2, resends := 3 }
      ((wLinks l).link 0 1).nakAt = some 2 ∧ 3 ≤ ((wLinks l).link 0 1).resends ∧ ((wLinks l).link 0 1).level < 6) ∧
      (let l := { wLink with nakAt := some 2, resends := 3, level := 6 }
       6 ≤ ((wLinks l).link 0 1).level ∧ (wLinks l).root.fenced = false)) ∧
    ((State.reset.freePorts false 0 0).find? (State.reset.nearer 0 8)).isSome = true ∧
    (let s : State := { State.reset with switches := [{ site := 0, used := [(0, 1)] }] }
     (s.freePorts false 0 0).find? (s.nearer 0 1) = none ∧ s.freePorts false 0 0 = [(2, 7)]) ∧
    (let s : State := { State.reset with switches := [{ site := 0, reinject := [(0, { wFlit 2 0 with age := 255, ch := 2 })] }], clock := 158 }
     s.waitsLong (s.switch 0) 2 = true ∧ 2 ∉ (s.switch 0).drains) ∧
    (let l := { wLink with retraining := true, level := 1 }
     ((wLinks l).link 0 1).retraining = true ∧ 0 < ((wLinks l).link 0 1).level ∧ ((wLinks l).link 0 1).levelAt + 1440000000000 ≤ 1440000000000) :=
  ⟨by decide, by decide, by decide +kernel, by decide +kernel, by decide, by decide⟩

def wUet : State :=
  { State.reset with uet := [{ ret := 0, peer := 2, sent := [{ psn := 3, flit := wFlit 2 0, timer := 10, since := 0 }], got := [1] }], clock := 10 }

/-- A scale-out pair whose key under phase 0 is used up, with a packet sent under it and one that waits; and a pair with packets that wait
for a key. -/
def wPair : State :=
  { wUet with
    uet := [{ ret := 0, peer := 2, sent := [{ psn := 3, flit := wFlit 2 0, timer := 10, since := 0 },
                { psn := 4, flit := wFlit 2 0, timer := 10, since := 0, unsent := true }]
              keys := { site := 0, port := 19, key0 := some (1, 1), count := 2 ^ 36 } }] }

def wWaits : Uet := { ret := 0, peer := 2, sent := [{ psn := 0, flit := wFlit 2 0, timer := 10, since := 0, unsent := true }] }

/-- A flit for endpoint 2 of this wafer's number in the pair's name. -/
def wFar : Flit := { wFlit 2 0 with dest := 0, tc := 1 }

theorem witness_LasersKeysAndTransport :
    (State.reset.live 0 = true ∧ 7 < 8 ∧ 0 * 8 + 7 ∉ State.reset.port.lasers ∧ 3 < 4) ∧
    (((wLinks wOpt).keyHolder 0 4).mayRotate = true ∧ (wLinks wOpt).root.fenced = false ∧ 2 ^ 34 ≤ ((wLinks wOpt).keyHolder 0 4).count ∧
      ((wLinks { wOpt with count := 2 ^ 36 }).keyHolder 0 4).mayRotate = true ∧ 2 ^ 36 ≤ ((wLinks { wOpt with count := 2 ^ 36 }).keyHolder 0 4).count ∧
      (wPair.keyHolder 0 22).mayRotate = true ∧ 2 ^ 36 ≤ (wPair.keyHolder 0 22).count) ∧
    (isOptical 4 = true ∧ (wLinks wOpt).linkUp 0 4 = true ∧ ((wLinks wOpt).link 0 4).retired = false ∧ ((wLinks wOpt).link 0 4).retraining = false ∧
      4 < 20 ∧ wOpt.rkey0 = none ∧ wKeyed.rkey0 ≠ none ∧ wOpt.rkey1 = none ∧ ({ wOpt with key0 := none } : Link).txKey false = none ∧
      wOpt.txKey wOpt.phase ≠ none ∧ wOpt.txKey (!wOpt.phase) = none ∧ (∃ f ∈ ({ wOpt with replay := [wFlit 2 0] } : Link).replay, f.kp = wOpt.phase)) ∧
    (wPair.root.fenced = false ∧ wPair.optUp 0 (optPort 15) = true ∧ (State.reset.uet? 0 2).keys.txKey (State.reset.uet? 0 2).keys.phase = none ∧
      wWaits.keys.txKey wWaits.keys.phase = none ∧ wWaits.keys.replay = [] ∧ (∀ p ∈ wWaits.sent, p.unsent = true) ∧ wWaits.sent.head?.isSome = true ∧
      (wPair.uet? 0 2).keys.txKey (wPair.uet? 0 2).keys.phase ≠ none ∧
      (wPair.uet? 0 2).keys.txKey (!(wPair.uet? 0 2).keys.phase) = none ∧
      (∃ p ∈ (wPair.uet? 0 2).sent, p.unsent = false ∧ p.kp = (wPair.uet? 0 2).keys.phase)) ∧
    ((State.reset.uet? 0 0).keys.mayTx = false ∧
      (let s : State := { State.reset with uet := [{ ret := 0, peer := 0, keys := { site := 0, port := 19, key0 := some (1, 1) } }] }
       field wFar.dest 48 16 * 64 + 0 = 0 ∧ (s.uet? 0 0).keys.mayTx = true ∧ (s.uet? 0 0).sent = [])) ∧
    (wUet.optUp 0 (optPort 15) = true ∧ wUet.optRoom 0 = true ∧ 2 ∉ (wUet.uet? 0 2).got ∧ 1 ∈ (wUet.uet? 0 2).got ∧
      (flitRequest (wFlit 2 0)).isSome = true ∧
      ∃ p ∈ (wUet.uet? 0 2).sent, p.unsent = false ∧ p.psn = 3 ∧ p.since + p.timer ≤ wUet.clock) ∧
    (let s : State := { State.reset with port := { node := 1, nodes := [{ node := 7, kind := 1, slot := 1 }] } }
     7 ∈ s.podNodes ∧ s.root.fenced = false ∧ 0 < 2 ^ 16) :=
  ⟨by decide, by decide, by decide, by decide, by decide, by decide, by decide⟩

/-- A packet that a pair's key opens, where the tag verifies, and one without a key; and the probes that are due. -/
theorem witness_LasersKeysAndTransport_opens (f : Flit) (bs : List Byte) (hf : f.kp = false)
    (h : Config.gcmOpen 1 (flitIv 1 3) f.aad f.payload f.mac = some bs) :
    wKeyed.openPacket 3 f = some bs ∧ (({ site := 0, port := 19 } : Link).openPacket 3 f = none) := by
  simp [Link.openPacket, Link.rxKey, wKeyed, wOpt, hf, h]

theorem witness_LasersKeysAndTransport_probes :
    (5 < 784 ∧ ({ State.reset with port := { probeDue := [5] } } : State).live (5 / 16) = true ∧ 5 ∈ [5]) ∧
    field (tget 0 State.reset.port.probes 5) 32 32 < ({ State.reset with clock := 1600000000 } : State).clock / 1600000000 := by decide

/-! Mailboxes and commands -/

/-- A physical mailbox with rings of 16, one CREATE_VF entry with an empty body at 0x1000 waiting in it. -/
def wBox : Mailbox := { mbctl := 0x441, sqbase := 0x1000, cqbase := 0x2000, sqtail := 1, ready := true, phase := true }

def wMail (code : Byte) (journal : List JEntry) : State :=
  { State.reset with root := { mailbox := wBox, journal := journal, nextSeq := journal.length + 1 }, host := [(0x1000, 9), (0x1008, code)] }

def wEntry (state : Nat) : JEntry := { seq := 1, handle := 0, kind := 1, state := state, origin := 1, ctag := 9 }

def wCmd : Cmd := { fn := none, seq := 1, ctag := 9, handle := 0, body := [] }

theorem witness_MailboxesAndCompletions :
    State.reset.mailbox? none = some {} ∧
    (({} : Mailbox).en = false ∧ wBox.en = true ∧ (0x441#32).getLsbD 0 = true ∧ (0x440#32).getLsbD 0 = false ∧
      decide (4 ≤ field (0x441#32) 4 4 ∧ field (0x441#32) 4 4 ≤ 12 ∧ 4 ≤ field (0x441#32) 8 4 ∧ field (0x441#32) 8 4 ≤ 12) = true ∧
      decide (4 ≤ field (0xD31#32) 4 4 ∧ field (0xD31#32) 4 4 ≤ 12 ∧ 4 ≤ field (0xD31#32) 8 4 ∧ field (0xD31#32) 8 4 ≤ 12) = false) ∧
    State.reset.nextTurn = none ∧
    ((wMail 1 []).nextTurn = some 0 ∧ (wMail 1 []).mailbox? none = some wBox ∧ wBox.ready = true ∧ (wMail 1 []).root.fenced = false ∧
      (wMail 1 []).root.romOk = true) ∧
    ((wMail 1 []).sameCommand none 9 = none ∧ (wMail 1 [wEntry 2]).sameCommand none 9 = some (wEntry 2) ∧ (wMail 1 []).root.journal.length < 65536 ∧
      (∀ e ∈ (wMail 1 [wEntry 2]).root.journal, e.seq < (wMail 1 [wEntry 2]).root.nextSeq)) ∧
    (let e (s : State) : BitVec 512 := BitVec.ofNat 512 (leNat (Memory.readN s.host 0x1000 64))
     let s := wMail 1 []
     let t := wMail 0xEE []
     let u := wMail 0x40 []
     s.refusal none (s.openEntry none (e s)) = none ∧ t.refusal none (t.openEntry none (e t)) = some 0x86 ∧
     u.refusal none (u.openEntry none (e u)) = some 0x86 ∧
     (let r := wMail 0x09 []
      r.refusal none (r.openEntry none (e r)) = none ∧ (r.openEntry none (e r)).kind ∈ [0x07, 0x08, 0x09, 0x0A])) ∧
    (let v : Vf := { wVf with waiting := [.pause { wCmd with seq := 4 }, .resume { wCmd with seq := 5 }] }
     let s : State := { State.reset with vfs := [v] }
     v.waiting = [.pause { wCmd with seq := 4 }, .resume { wCmd with seq := 5 }] ∧ cmdSeq (.pause { wCmd with seq := 4 }) = some 4 ∧
     (s.vf? 0).isSome = true) :=
  ⟨rfl, by decide, by decide, ⟨by decide +kernel, rfl, by decide, by decide, by decide⟩, ⟨by decide, by decide, by decide, by decide⟩, by decide +kernel, ⟨rfl, rfl, by decide⟩⟩

/-- A state whose journal holds command 1 as accepted, and no more than its functions and partitions. -/
def wCmds (vfs : List Vf) (parts : List Partition) : State := { State.reset with vfs := vfs, parts := parts, root := { journal := [wEntry 0], nextSeq := 2 } }

def wFnCmd (h : Word) (body : List Byte) : Cmd := { wCmd with handle := h, body := body }

/-- A LOAD_POLICY body: version 1, one reticle, one partition and one of each bound, class timeouts of 1, a key and a signature of
zeros. Whether it is signed rests on `Config.sha3` and `Config.mlDsaVerify`, which have no value here. -/
def wPolicyHead : List Byte :=
  [0x01, 0x4C, 0x50, 0x79, 0x83, 0x1C, 0, 0, 1, 0, 0, 0, 0, 0, 0, 0] ++ [1, 0, 0, 0, 0, 0, 0, 0, 1, 0, 1, 0, 0, 1, 1, 0] ++
  [0, 0, 7, 0, 0, 0, 0, 0, 1, 0, 0, 0, 1, 0, 0, 0] ++ [1, 0, 0, 0, 1, 0, 0, 0, 0, 0, 0, 0, 8, 0, 0, 0] ++ List.replicate 16 0

def wPolicyBody : List Byte := wPolicyHead ++ List.replicate 7219 0

/-- An ASSIGN body of a top-level partition on reticle 0, and of a child on all bays of it. -/
def wAssign (child : Bool) : List Byte :=
  [1, 0, 0, 0, 0, 0, 0, 0, 0, 4, 0, 4, 1, 0, if child then 1 else 0, 0, 0, 0, 0, 0, 0, 0, 0, 0] ++ (if child then [255] else [])

def wBound : Vf := { wVf with policy := { wVf.policy with retmask := 1, maxPart := 4, budgetMax := 1024, bwshare := 1024, queues := 4 } }

theorem witness_FunctionsPoliciesAndPartitions :
    (State.reset.accepted wCmd = false ∧ (wCmds [] []).accepted wCmd = true ∧ (wFnCmd 0 []).body.length ≠ 64 ∧
      (wFnCmd 0 (List.replicate 64 0)).body.length = 64) ∧
    ((wCmds [wVf] []).vf? 1 = none ∧ (∀ k, k < 1 → ((wCmds [wVf] []).vf? k).isSome = true)) ∧
    (∀ n < 3, (((wCmds ((List.range 384).map fun i => { wVf with num := i }) []).vf? n).isSome) = true) ∧
    ((wCmds [] []).vfByHandle 0x11 = none ∧ (wCmds [wVf] []).vfByHandle 0x11 = some wVf ∧ wVf.state = .ready ∧
      ({ wVf with state := .paused } : Vf).state ≠ .created ∧ (Policy.parse 0xFFFF []).isNone = true) ∧
    ((AssignBody.parse []).isNone = true ∧
      (AssignBody.parse (wAssign false)).any (fun b => !b.child && wFills.live 0 && (wCmds [wBound] []).assignPlaces wBound none b &&
        (wCmds [wBound] []).assignBounds wBound none b && (wCmds [wBound] []).assignRoom none b) = true ∧
      (AssignBody.parse (wAssign true)).any (fun b => b.child && (wCmds [wBound] [wPartn]).assignPlaces wBound (some wPartn) b &&
        (wCmds [wBound] [wPartn]).assignBounds wBound (some wPartn) b && (wCmds [wBound] [wPartn]).assignRoom (some wPartn) b) = true ∧
      (wCmds [wBound] []).freeSlot = some 1 ∧ (wCmds [wBound] [wPartn]).partByHandle 0x22 = some wPartn ∧ wPartn.parent = none) :=
  ⟨by decide, ⟨by decide +kernel, by decide +kernel⟩, by decide +kernel, ⟨by decide +kernel, rfl, by decide, by decide, by decide⟩,
    by decide +kernel⟩

/-- What each later check of ASSIGN refuses: a reticle the policy does not grant, queues beyond the bound, a reticle that a partition holds. -/
theorem witness_FunctionsPoliciesAndPartitions_refusals :
    (AssignBody.parse (wAssign false)).any (fun b =>
      !(wCmds [wVf] []).assignPlaces wVf none b && !(wCmds [wBound] []).assignBounds { wBound with policy := { wBound.policy with queues := 0 } } none b &&
      !(wCmds [wBound] [wPartn]).assignRoom none b) = true := by decide +kernel

/-- A resent command that has created an object. -/
theorem witness_MailboxesAndCompletions_made :
    (wMail 1 [{ wEntry 2 with made := true, handle := 0x33 }]).sameCommand none 9 = some { wEntry 2 with made := true, handle := 0x33 } := by decide

theorem witness_FunctionsPoliciesAndPartitions_policy :
    ((Policy.parse 0xFFFF wPolicyBody).map fun x => (x.1.version, x.1.retmask, x.1.rights)) = some (1, 1, 7) := by decide +kernel

theorem drawAux_only (n : Nat) (s : State) : ∃ d, (State.drawAux n s).1 = { s with root := { s.root with draws := d } } := by
  induction n generalizing s with
  | zero => exact ⟨_, rfl⟩
  | succ n ih =>
    simp only [State.drawAux]
    split
    · obtain ⟨d, hd⟩ := ih { s with root := { s.root with draws := s.root.draws + 1 } }
      exact ⟨d, by rw [hd]⟩
    · exact ⟨_, rfl⟩

theorem witness_FunctionsPoliciesAndPartitions_assign :
    ((AssignBody.parse (wAssign false)).bind fun b => ((wCmds [wBound] []).drawHandle.1.createPart wBound none b 0x33 1)).isSome = true := by
  obtain ⟨d, hd⟩ := drawAux_only 8 (wCmds [wBound] [])
  simp only [State.drawHandle, hd]
  rfl

/-- Functions in each state that a command asks for, with every right of the policy or none. -/
def wIs (st : VfState) (rights : BitVec 3) : Vf := { wVf with state := st, policy := { wVf.policy with rights := rights } }

/-- An image of function 0 whose function is evicted, at address 0 of host memory and with the function's count of evictions, or with
another count. -/
def wImage (count : Nat) : Image :=
  { handle := 0x77, vf := 0, count := count, addr := 0, parts := [], policy := {}, tasks := [], launches := [], graphs := [], jobs := []
    ranges := [], overrides := [], frames := [], segs := [], counters := [], pins := [], colls := [], ix := 0 }

def wEvicted (count : Nat) (host : List Host.Cell) : State :=
  { State.reset with
    vfs := [wIs .evicted 7], host := host
    root := { journal := [wEntry 0], nextSeq := 2, images := [wImage count] } }

def wEvictCmd : Cmd := { wCmd with fn := none, seq := 1, body := List.replicate 8 0 }

def wEvicting : Vf := { wIs .evicted 7 with waiting := [.evict wEvictCmd] }

theorem witness_PauseEvictionAndReset :
    ((wCmds [] []).accepted (wFnCmd 0x11 []) = true ∧ (wCmds [] []).vfByHandle 0x11 = none ∧ (wCmds [] []).imageByHandle 0x11 = none) ∧
    (∀ st ∈ [VfState.created, .ready, .paused, .evicted], ∀ r ∈ [0, 7],
      (wCmds [wIs st r] []).vfByHandle 0x11 = some (wIs st r) ∧ (wCmds [wIs st r] []).vf? 0 = some (wIs st r)) ∧
    ((wIs .ready 0).policy.rights.getLsbD 0 = false ∧ (wIs .ready 7).policy.rights.getLsbD 0 = true ∧ (wIs .ready 0).policy.rights.getLsbD 1 = false ∧
      (wIs .ready 7).policy.rights.getLsbD 1 = true ∧ (wFnCmd 0x11 []).body.length ≠ 8 ∧ (wFnCmd 0x11 (List.replicate 8 0)).body.length = 8) ∧
    ((wEvicted 1 []).accepted (wFnCmd 0x77 []) = true ∧ (wEvicted 1 []).vfByHandle 0x77 = none ∧
      ((wEvicted 1 []).imageByHandle 0x77).any (fun x => x.count == 1 && x.vf == 0) = true ∧ (wEvicted 1 []).vf? 0 = some (wIs .evicted 7) ∧
      (wEvicted 1 []).evictions 0 = 0) ∧
    ((wCmds [] []).vf? 0 = none) ∧
    (let v : Vf := { wIs .paused 7 with policy := { wVf.policy with pauseMax := 2 } }
     let s : State := { State.reset with vfs := [v], clock := 3200000 }
     s.vf? 0 = some v ∧ v.state = .paused ∧ v.policy.pauseMax ≠ 0 ∧ v.pausedAt + v.policy.pauseMax * 1600000 ≤ s.clock ∧
     s.root.journal.length < 65536) := by
  exact ⟨by decide +kernel, by decide +kernel, by decide +kernel, by decide +kernel, by decide +kernel, by decide +kernel⟩

/-- An image whose count is not the function's is not good, whatever its bytes; the image that host memory holds unchanged is. -/
theorem witness_PauseEvictionAndReset_image :
    (wEvicted 1 []).imageGood (wImage 1) = false ∧
    (wEvicted 0 (Memory.writeN [] 0 (imageBytes 0))).imageGood (wImage 0) = true := by
  constructor
  · rw [State.imageGood, show (wImage 1).count = 1 from rfl, show (wEvicted 1 []).evictions (wImage 1).vf = 0 from rfl]
    exact Bool.and_false _
  · rw [State.imageGood, show (wImage 0).addr = 0 from rfl, show (wImage 0).ix = 0 from rfl, show (wImage 0).count = 0 from rfl,
      show (wEvicted 0 (Memory.writeN [] 0 (imageBytes 0))).host = Memory.writeN [] 0 (imageBytes 0) from rfl, Laws.readN_writeN]
    exact Bool.and_eq_true_iff.2 ⟨beq_self_eq_true _, rfl⟩

theorem witness_PauseEvictionAndReset_restore : ((wEvicted 0 []).restoreImage (wIs .evicted 7) (wImage 0)).isSome = true := by decide +kernel

theorem witness_PauseEvictionAndReset_evicting :
    (let s : State := { State.reset with vfs := [wEvicting], root := { journal := [wEntry 1] } }
     (s.evicting wEvicting) = some wEvictCmd) := by rfl

/-- A node table that POD_FORM would overfill. -/
theorem witness_QueriesAndPodCommands_full :
    1024 < (((List.range 1025).map fun i => ({ node := i + 2, kind := 2, slot := 0 } : NodeEntry)).filter fun e => decide (e.kind = 2 ∧ e.node ∉ [1])).length := by
  decide +kernel

/-- Bodies with one field at its last good value and at its first bad one. -/
theorem witness_QueriesAndPodCommands :
    (let b (n : Byte) (m : Byte) : List Byte := List.replicate 8 0 ++ [n, m, 0, 0, 0, 0, 0, 0] ++ List.replicate 8 0
     (b 0 16).length = 24 ∧ bytesAt (b 0 16) 8 4 = 4096 ∧ bytesAt (b 1 16) 8 4 = 4097 ∧ bytesAt (b 0 0) 8 4 = 0 ∧ (wFnCmd 0 (b 0 16)).handle = 0) ∧
    (bytesAt [2, 0, 0, 0] 0 1 = 2 ∧ bytesAt [3, 0, 0, 0] 0 1 = 3 ∧ bytesAt [3, 0, 0, 0] 3 1 = 0 ∧ bytesAt [3, 0, 0, 1] 3 1 ≠ 0 ∧ bytesAt [4, 0, 0, 0] 0 1 = 4 ∧ ([2, 0, 0, 0] : List Byte).length = 4) ∧
    (bytesAt [48, 19] 0 1 = 48 ∧ bytesAt [48, 19] 1 1 = 19 ∧ (meshPeer 0 0 = none ∨ meshPeer 0 1 = none ∨ meshPeer 0 2 = none ∨ meshPeer 0 3 = none) ∧
      (State.reset.link 0 4).retired = false ∧ ((wLinks { wOpt with retired := true }).link 0 4).retired = true) ∧
    (let body : List Byte := [1, 0, 15, 0] ++ List.replicate 30 0xFF
     let peers := ((List.range 15).map fun i => (if i < 15 then i else i + 1, bytesAt body (4 + 2 * i) 2)).filter fun x => decide (x.2 ≠ 0xFFFF)
     body.length = 34 ∧ bytesAt body 0 2 = 1 ∧ bytesAt body 2 1 = 15 ∧ peers = [] ∧ State.reset.parts = [] ∧ (wCmds [] [wPartn]).parts ≠ [] ∧
     (peers.all fun x => Config.spdmAccepts (1024 + x.2) 0 body) = true) ∧
    (let body : List Byte := [9, 0, 1, 0]
     body.length % 4 = 0 ∧ body.length ≠ 0 ∧ bytesAt body 0 2 = 9 ∧ bytesAt body 2 1 = 1 ∧ State.reset.port.node ≠ 9 ∧ State.reset.port.nodes = []) :=
  ⟨by decide, by decide, by decide, by decide, by decide⟩

/-- A retired optical link with a wavelength left and with none, and a link of a disabled site. -/
theorem witness_QueriesAndPodCommands_links :
    ((wLinks { wOpt with retired := true, lost := 3 }).link 0 4).lost < 4 ∧ 4 ≤ ((wLinks { wOpt with retired := true, lost := 4 }).link 0 4).lost ∧
    (linkKey 0 1 ∉ State.reset.ident.noLinks) ∧ (∃ n ∈ meshNeighbours 3, linkKey 3 n.1 ∈ ({ absent := [3, 24] } : Ident).noLinks) := by decide

/-- A tenant's command on its own mailbox, and a job of two phases of its function. -/
def wOwn (h : Word) (body : List Byte) : Cmd := { wFnCmd h body with fn := some 0 }

def wJob : Job := { handle := 0x44, vf := 0, part := 0, phases := [(0x3000, 1), (0x3000, 2)], phase := 1 }

def wTenant : State := { wCmds [wMapped] [wPartn] with jobs := [wJob], dram := wDram ++ [(0x4000, 1), (0x5002, 1)] }

theorem witness_TenantCommandsAndKeys :
    ((wCmds [] []).accepted (wOwn 0x22 []) = true ∧ (wCmds [] []).tenant (wOwn 0x22 []) = none) ∧
    (wTenant.partByHandle 0x22 = some wPartn ∧ wPartn.vf = 0 ∧ wTenant.accepted (wOwn 0x22 []) = true ∧
      (let b : List Byte := [0, 0x40] ++ List.replicate 14 0
       b.length = 16 ∧ bytesAt b 0 8 = 0x4000 ∧ bytesAt b 0 8 % 16 = 0 ∧ bytesAt b 8 8 = 0)) ∧
    ((match wTenant.readJob wMapped 0x4000 with
        | .ok ps => ps.length == 1
        | .error _ => false) = true ∧
      (match wTenant.readJob wMapped 0x5000 with
        | .ok _ => 0
        | .error k => k) = 0x86 ∧
      (match wTenant.readJob wMapped 0x800000000 with
        | .ok _ => 0
        | .error k => k) = 0x24) ∧
    ((wTenant.jobs.find? fun j => decide (j.handle = (0x44#32).toNat)) = some wJob ∧
      (CancelBody.parse (2 :: List.replicate 15 0)).any (fun x => x.level == 2 && wTenant.cancelNames wJob x && wJob.when x == 0) = true ∧
      (CancelBody.parse ([1, 0, 0, 0, 1, 0, 1, 0] ++ List.replicate 8 0)).any (fun x => wTenant.cancelNames wJob x && wJob.when x == 2) = true ∧
      (CancelBody.parse ([1, 0, 0, 0, 1, 0, 2, 0] ++ List.replicate 8 0)).any (fun x => !wTenant.cancelNames wJob x) = true ∧
      (CancelBody.parse (4 :: List.replicate 15 0)).isNone = true) ∧
    ((wOwn 0x11 []).handle = wMapped.handle ∧ bytesAt ([0, 2, 0, 0, 0, 0, 0, 0] : List Byte) 0 8 % 512 = 0 ∧
      (let b : List Byte := List.replicate 8 0 ++ [0, 0, 0, 0, 0, 0, 16, 0]
       b.length = 16 ∧ bytesAt b 0 8 + bytesAt b 8 8 = 2 ^ 52)) ∧
    (wTenant.mayConfigure (some 0) 0 (some 0) 0 = true ∧ wTenant.mayConfigure (some 0) 1 none 0 = false ∧ eventListed 1 = true ∧ eventListed 0 = false ∧
      eventListed 0x300 = true ∧ 1 % 1024 < 0x300 ∧ 0x300 ≤ (20 * 2 ^ 32 + 0x300) % 1024 ∧ 20 ≤ (20 * 2 ^ 32 + 0x300) / 2 ^ 32 % 32 ∧
      (19 * 2 ^ 32 + 0x300) / 2 ^ 32 % 32 < 20) ∧
    (wTenant.freeSlot = some 2 ∧ 0 ∈ wTenant.retsOf 0 ∧ wTenant.live 0 = true ∧ (wTenant.frameAt wMapped 15).isSome = true ∧
      (wTenant.frameAt wMapped 16).isNone = true) ∧
    (let s : State := { State.reset with root := { slots := [{ slot := 3, state := .zeroising, key := 1, rets := [0, 1] }] } }
     ∃ k ∈ s.root.slots, k.slot = 3 ∧ k.state = .zeroising ∧ 1 ∈ k.rets) ∧
    (∀ pinned ∈ [false, true],
      let r : Rekeying := { part := 0, rets := [0], old := 1, new := 2, seq := 1, next := 1, deferred := [] }
      let s : State := { State.reset with parts := [wPartn], tasks := [{ wTask with pinned := pinned }], root := { rekeys := [r] } }
      (s.root.rekeys.find? fun x => decide (x.part = r.part)) = some r ∧ s.part? r.part = some wPartn ∧ 1 < rekeyFrames r ∧
      s.deferred { id := 0, cause := 4, vf := 0, lo := rekeyAddr r 1, hi := rekeyAddr r 1 + 65536 } = pinned) ∧
    (let r : Rekeying := { part := 0, rets := [0], old := 1, new := 2, seq := 1, next := framesOfRet - 1, deferred := [] }
     let s : State := { State.reset with parts := [wPartn], root := { rekeys := [r] } }
     r.next + 1 = rekeyFrames r ∧ (s.rekeyRest r 0).frames = [] ∧ (∀ l ∈ s.lines, l.dirty = 0) ∧
     s.deferred { id := 0, cause := 4, vf := 0, lo := rekeyAddr r r.next, hi := rekeyAddr r r.next + 65536 } = false) ∧
    ((wRunning []).task? 1 = some (wRun []) ∧ (wRun []).placed = true ∧ (wRun []).fate = none ∧ wPartn.num = (wRun []).part ∧ wPartn.key = 1) :=
  ⟨by decide, ⟨by decide +kernel, by decide, by decide +kernel, by decide⟩, ⟨by decide +kernel, by decide +kernel, by decide +kernel⟩, by decide +kernel, by decide, by decide +kernel,
    by decide +kernel, by decide, by decide +kernel, by decide, by decide⟩

/-- A re-encryption past its frames: with an invalidation open, with frames outside its reticles, and past those; and a queued task of its
partition. -/
def wRekey (next : Nat) : Rekeying := { part := 0, rets := [0], old := 1, new := 2, seq := 1, next, deferred := [] }

def wAwayVf : Vf := { wMapped with overrides := [{ frame := 3, pa := 0xFFFF0C0000000000, key := 1 }] }

def wRekeys (next : Nat) (v : Vf) : State := { State.reset with vfs := [v], parts := [wPartn], root := { rekeys := [wRekey next] } }

theorem witness_TenantCommandsAndKeys_rekey :
    (∀ v ∈ [wMapped, wAwayVf], ∀ n ∈ [framesOfRet, framesOfRet + 1],
      ((wRekeys n v).root.rekeys.find? fun x => decide (x.part = 0)) = some (wRekey n) ∧ (wRekeys n v).part? 0 = some wPartn ∧
      (wRekeys n v).root.fenced = false ∧ rekeyFrames (wRekey n) ≤ framesOfRet ∧ (wRekey n).deferred = [] ∧ (wRekey n).new ≠ (wRekey n).old) ∧
    ((wRekeys framesOfRet wMapped).rekeyRest (wRekey framesOfRet) 0).frames = [] ∧
    ((wRekeys framesOfRet wAwayVf).rekeyRest (wRekey framesOfRet) 0).frames ≠ [] ∧
    (wRekeys framesOfRet wAwayVf).deferred ((wRekeys framesOfRet wAwayVf).rekeyRest (wRekey framesOfRet) 0) = false ∧
    rekeyFrames (wRekey 0) < framesOfRet + 1 ∧
    (({ State.reset with root := { invals := [{ wInval with cause := 4 }] } } : State).root.invals.any fun x => decide (x.cause = 4 ∧ x.vf = 0)) = true ∧
    (let t : Task := { wTask with phase := .queued }
     t.phase ≠ .ended ∧ t.copyOf = none ∧ t.fate = none ∧ wPartn.num = t.part) := by decide +kernel

theorem witness_TenantCommandsAndKeys_tenant : wTenant.tenant (wOwn 0x22 []) = some wMapped := rfl

/-- What is accepted or refused within the session rests on `Config.spdmAccepts`, which has no value here. -/
theorem witness_SecureMessages :
    (State.reset.responds none = true ∧ (wCmds [wVf] []).responds (some 0) = true) ∧ (wCmds [wVf] []).vf? 0 = some wVf ∧
    ({ wVf with ide := true, tdi := .run } : Vf).reached = true :=
  ⟨by decide, rfl, by decide⟩

theorem witness_ResetPowerAndFence :
    (State.reset.root.heartbeat + 160000000 ≤ ({ State.reset with clock := 160000000 } : State).clock ∧
      ({ State.reset with clock := 159999999 } : State).clock < State.reset.root.heartbeat + 160000000) ∧
    ({ State.reset with root := { fenced := true } } : State).root.fenced = true ∧ ((wLinks { wOpt with retired := true }).link 0 4).retired = true ∧
    ({ State.reset with off := true } : State).off = true ∧ State.reset.off = false ∧
    (∀ x rest, ({ State.reset with off := true } : State).inputs = x :: rest → x.ev ≠ .powerUp) :=
  ⟨by decide, rfl, by decide, rfl, rfl, by intro x rest h; simp [State.reset] at h⟩

/-- Operands at the ends of their ranges, in one word and in two. -/
theorem witness_DecodeAndEncodeAgree :
    Instr.wf 256 (.iadd false 127 0 127) = true ∧ encode (.iadd false 127 0 127) = some (0x2000_0000 ||| 0x001F_C07F, none) ∧
    (encode (.atoms 4 10 0 12 0 { plainAtom with scope := 1 })).isSome = true ∧ Instr.wf 256 (.atoms 4 10 0 12 0 { plainAtom with scope := 1 }) = true ∧
    (match decodeSlot 128 0x62650100 0 with
      | .ok i => i == .voteCount 20 2
      | .error _ => false) = true := by decide

/-- A latch with a slot, one at its end, one held, one whose word is no instruction; events from outside, from within, and none. -/
def wLatch (w : Word) : State := State.reset.withFetchWord 32 w.toNat

theorem witness_StepRunsWhatIsDecoded :
    ((wLatch 0).off = false ∧ ((wLatch 0).issue.any fun is => decide (is.blocked = .none) && !is.items.isEmpty && (match decodeSlot 128 0 0 with
      | .ok i => i == .nop
      | .error _ => false)) = true) ∧
    ((wState wIssue).issue = some wIssue ∧ wIssue.blocked = .none ∧ wIssue.items = []) ∧
    ((match decodeSlot 128 0x7E000000 0 with
      | .ok _ => false
      | .error _ => true) = true) ∧
    (State.reset.issue = none ∧ State.reset.inputs = [] ∧ State.reset.off = false) ∧
    (decodeTableWord 32 0 = some .nop) ∧
    (([{ cls := some .l, key := 64, old := 1, new := 2, shown := 2 }] : List Fresh).map (·.key)).Nodup := by
  exact ⟨by decide, by decide, by decide, by decide, by decide, by decide⟩

/-- A bundle that no input disturbs, and one within which an input writes a doorbell. -/
theorem witness_StepRunsWhatIsDecoded_undisturbed : Undisturbed (wState wIssue) wIssue := by
  intro x rest h
  cases h

theorem witness_StepRunsWhatIsDecoded_within :
    let x : Input := { dt := 0, ev := .sqtailDoorbell none 1, within := true }
    let s : State := { wState wIssue with inputs := [x] }
    s.issue = some wIssue ∧ s.off = false ∧
    (match exec x.ev (((s.showIssue wIssue).takeInput x []).tick 0) with
      | .next t => (t.settleStep.task? 1).any (fun tk => (tk.coach? 0).isSome && tk.phase == .running && tk.saveStart.isNone) &&
          t.settleStep.issue.isSome && t.settleStep.root.mailbox.sqtail == 0
      | _ => false) = true := by decide +kernel

/-- The invariant holds at reset and in a state whose memories list bytes. -/
theorem witness_MemoryStaysCanonical :
    Memory.wf State.reset.dram = true ∧ Memory.wf wDram = true ∧ Memory.wf [(0, 0)] = false ∧ Memory.wf [(1, 1), (0, 1)] = false := by decide

/-! ### Results of single steps; expected values are the spec's worked examples, or worked by hand from the rule named -/

/-- A WAIT 0 shows the loaded value of a register that showed the old one; a register that a slot has written keeps its value (R7, R46). -/
theorem test_wait_observes_a_load :
    (let x : Fresh := { cls := some .l, key := 64, old := 1, new := 2, shown := 1 }
     let c (v : Word) : Coach := { wCoach with v := [(64, v)], fresh := [x] }
     ((c 1).observe 1 0 31 31 31 31).vget 1 0 = 2 ∧ ((c 1).observe 1 31 31 31 31 31).vget 1 0 = 1 ∧
     ((c 5).observe 1 0 31 31 31 31).vget 1 0 = 5 ∧ ((c 1).observe 1 1 31 31 31 31).vget 1 0 = 1) := by decide

/-- A latch whose coach of one octet has lane 0's v1, v2, v3 and v4 as given, g1 = 7 and generator `x` in lane 0. -/
def tIssue (v1 v2 v3 v4 x : Word) : Issue :=
  let c : Coach := { wCoach with v := [(64, v1), (128, v2), (192, v3), (256, v4)], g := [(1, 7)], sr := [(0, x)], p := [(1, 1)] }
  { wIssue with coach := c, snap := c, task := { wTask with coaches := [c] } }

/-- The coach in the latch after an instruction. -/
def after (i : Instr) (is : Issue) : Option Coach :=
  match exec i (wState is) with
  | .next t => t.issue.map (·.coach)
  | _ => none

/-- Lane 0's register, and the flags of GMODE. -/
def lane0 (i : Instr) (is : Issue) (r : Nat) : Option Word := (after i is).map fun c => c.vget r 0

def flags (i : Instr) (is : Issue) : Option Nat := (after i is).map fun c => field c.gmode 8 5

/-- R65, R161: a sum wraps, a saturating one does not; a product's high half keeps its sign. -/
theorem test_iadd_wraps : lane0 (.iadd false 5 1 2) (tIssue 0x7FFFFFFF 1 0 0 0) 5 = some 0x80000000 := by decide

theorem test_iadds_saturates : lane0 (.iadds false 5 1 2) (tIssue 0x7FFFFFFF 1 0 0 0) 5 = some 0x7FFFFFFF := by decide

theorem test_imulh_signed : lane0 (.imulh false 5 1 2) (tIssue 0xFFFFFFFF 2 0 0 0) 5 = some 0xFFFFFFFF := by decide

/-- R161: a count of 32 shifts everything out; an arithmetic shift keeps the sign. -/
theorem test_shl_by_width : lane0 (.shl false 5 1 2) (tIssue 0xFFFFFFFF 32 0 0 0) 5 = some 0 := by decide

theorem test_sar_by_width : lane0 (.sar false 5 1 2) (tIssue 0x80000000 32 0 0 0) 5 = some 0xFFFFFFFF := by decide

/-- The example of R162. -/
theorem test_bshuf_example : lane0 (.bshuf false 3 1 2) (tIssue 0x44332211 0x005E0103 0x88776655 0 0) 3 = some 0xFF885544 := by decide

/-- R162: a field of length 8 at bit 28 has 4 bits, and is sign-extended. -/
theorem test_bfe_clips : lane0 (.bfe false 5 1 2) (tIssue 0xA0000000 0x081C 0 0 0) 5 = some 0xFFFFFFFA := by decide

/-- R163: signed and unsigned order differ; the destination is the predicate, lane by lane. -/
theorem test_icmp_orders :
    ((after (.icmp false 2 0 1 2) (tIssue 0xFFFFFFFF 1 0 0 0)).map fun c => (c.pget 0).getLsbD 0) = some true ∧
    ((after (.icmp false 6 0 1 2) (tIssue 0xFFFFFFFF 1 0 0 0)).map fun c => (c.pget 0).getLsbD 0) = some false := by decide

/-- R168: the carry of a 64-bit sum. -/
theorem test_iadd_co_carries :
    ((after (.iaddCo false 5 1 2) (tIssue 0xFFFFFFFF 1 0 0 0)).map fun c => (c.vget 5 0, c.cy.getLsbD 0)) = some (0, true) := by decide

/-- A source that is also the destination is read before the write (R44, R166). -/
theorem test_movih_keeps_low_half : lane0 (.moviH false 1 0x3F80) (tIssue 0x12345678 0 0 0 0) 1 = some 0x3F805678 := by decide

/-- A write to a disabled lane is dropped: p1 holds in lane 0 only (R42). -/
theorem test_disabled_lane :
    ((after (.movi false 5 9) { tIssue 1 2 3 4 0 with cur := { lanes := 0xFF, pred := 1 } }).map fun c => (c.vget 5 0, c.vget 5 1)) = some (9, 0) := by decide

/-- The examples of R173, with their flags (NX is bit 0 of the field; only lane 0 is enabled there). -/
theorem test_rsq_of_four : lane0 (.rsq false 0 2 1) (tIssue 0x40800000 0 0 0 0) 2 = some 0x3F000000 ∧
    flags (.rsq false 0 2 1) { tIssue 0x40800000 0 0 0 0 with cur := { lanes := 0xFF, pred := 1 } } = some 0 ∧
    lane0 (.rsq false 0 2 1) (tIssue 0x40400000 0 0 0 0) 2 = some 0x3F13CD3A ∧
    flags (.rsq false 0 2 1) { tIssue 0x40400000 0 0 0 0 with cur := { lanes := 0xFF, pred := 1 } } = some 1 := by decide +kernel

/-- R170: an overflow under RNE gives infinity with OF and NX. -/
theorem test_fmul_overflows : lane0 (.fmul false 1 5 1 2) (tIssue 0x7F000000 0x40000000 0 0 0) 5 = some 0x7F800000 := by decide +kernel

/-- The examples of R174 and R175. -/
theorem test_cvt_e2m1 : lane0 (.cvt false 0 3 2 4) (tIssue 0 0x40300000 0 0 0) 3 = some 5 := by decide +kernel

theorem test_badd2_example : lane0 (.badd2 0 4 2 3) (tIssue 0 0x40003F80 0x3F803B80 0 0) 4 = some 0x40403F80 := by decide +kernel

/-- The example of R79: conversions to BF16 under SR. -/
theorem test_cvt_sr_up : lane0 (.cvt false 6 3 1 0) (tIssue 0x3F80C000 0 0 0 0x00000001) 3 = some 0x3F81 := by decide +kernel

theorem test_cvt_sr_down : lane0 (.cvt false 6 3 1 0) (tIssue 0x3F800100 0 0 0 0x00042021) 3 = some 0x3F80 := by decide +kernel

/-- The example of R176. -/
theorem test_rand_example : lane0 (.rand 5) (tIssue 0 0 0 0 0x04080601) 5 = some 0x9DCCA8C5 := by decide

theorem test_randf_example : lane0 (.randf 5) (tIssue 0 0 0 0 0x04080601) 5 = some 0x3F1DCCA8 := by decide +kernel

/-- The example of R181 and R182: 2^24 in lane 0 and 1.0 in the others. -/
def tSum : Issue :=
  let c : Coach := { wCoach with v := (256, 0x4B800000) :: (List.range 7).map fun i => (257 + i, 0x3F800000) }
  { wIssue with coach := c, snap := c }

theorem test_rdc_fadd_example : ((after (.rdc 1 4 4) tSum).map fun c => c.gget 4) = some 0x4B800003 := by decide +kernel

theorem test_prfx_example :
    ((after (.prfx 2 5 4) tSum).map fun c => (c.vget 5 0, c.vget 5 7)) = some (0x4B800000, 0x4B800000) ∧
    ((after (.prfx 3 6 4) tSum).map fun c => (c.vget 6 0, c.vget 6 7)) = some (0x80000000, 0x4B800000) := ⟨by decide +kernel, by decide +kernel⟩

/-- R180: a ballot of lanes 0 and 1, and a vote over the lanes in which a predicate holds. -/
theorem test_vote_ballot : ((after (.voteBallot 6 0) wIssue).map fun c => (c.gget 6, c.gget 7)) = some (3, 0) := by decide

/-- The expansion example of R83 (RB8, G = 6), and the summation example of R84. -/
def tBlock : RbBlock × Bool :=
  formBlock 2 6 none ([0x40400000, 0xBF400000, 0x3DD00000, 0x3BC00000, 0x40220000, 0x407E0000].map (fun w => fFP32.decode w) ++
    List.replicate 26 (fFP32.decode 0))

theorem test_block_example : tBlock.1.e0 = 128 ∧ tBlock.1.e1 = 119 ∧ tBlock.2 = true ∧
    (tBlock.1.bytes 2).take 8 = [0x80, 0x77, 0x30, 0x8C, 0x02, 0x70, 0x28, 0x3F] := by decide +kernel

theorem test_summation_example :
    mmaElem 6 6 0 [tBlock.1] [RbBlock.ofBytes 2 ([0x7F, 0x7F] ++ List.replicate 32 0x20)] = 0x410D1800 := by decide +kernel

/-- R52, R129: LANE by lane, CLOCK into a pair. -/
theorem test_srd_lane : ((after (.srd false 5 0) wIssue).map fun c => (c.vget 5 0, c.vget 5 7)) = some (0, 7) := by decide

theorem test_srd_clock :
    (match exec (.srd true 6 12) { wState wIssue with clock := 0x500000003 } with
      | .next t => t.issue.map fun is => (is.coach.gget 6, is.coach.gget 7)
      | _ => none) = some (3, 5) := by decide

/-- R74: SWR of a rounding mode of 7 raises ILLEGAL_FIELD (0x02) and leaves GMODE. -/
theorem test_swr_bad_mode :
    (match exec (.swr 1 9) (wState (tIssue 0 0 0 0 0)) with
      | .next t => t.issue.map fun is => (is.coach.gmode, is.cfault.map (·.code))
      | _ => none) = some (1, some cILLEGAL_FIELD) := by decide

/-- R130: three bundles back from offset 48. -/
theorem test_bra_target :
    (match exec (.bra (-3)) (wState { wIssue with frag := { wFrag with off := 48 } }) with
      | .next t => t.issue.map (·.next)
      | _ => none) = some (.jump 0) := by decide

/-- A step runs a placed instruction from reset: NOP leaves the latch at its bundle's end, and FADD its result. -/
theorem test_step_from_reset :
    (match step (State.reset.withFetchWord 32 0) with
      | .next t => t.issue.any fun is => is.items.isEmpty
      | _ => false) = true := by decide

theorem test_step_movi :
    (match step (State.reset.withFetchWord 32 0b0_010111_0_0000101_0_0000000000001001) with
      | .next t => (t.issue.map fun is => is.coach.vget 5 7) == some 9
      | _ => false) = true := by decide

end Sys2Proof.Tests
end

section
/-! SUPPORT. Coach control (R130 to R139, R147 to R155, R317): transfers, reconvergence registers, planes, loops and the requests that
a task makes, each settled from one law for every operation that these slots share. -/

namespace Sys2Proof.CoachControl

open Sys2Proof.Machine Sys2Proof.Claim Sys2Proof.Laws

/-! ### Slots that act on the issue latch -/

/-- A slot that changes the bundle in issue alone leaves what its change makes of the bundle. -/
theorem leaves_of_onIssue {i : Instr} {s : State} {is : Issue} {f : Issue → Issue} (h : s.issue = some is)
    (he : exec i s = .next (s.onIssue f)) : Leaves i s (f is) := by
  rw [Leaves, he, onIssue_some h]

/-- A group-predicated slot acts as its change does, once the change that the model makes is known to be `f`. -/
theorem acts_of_onIssue {i : Instr} {f : State → Issue → Issue} {g : State → Issue → Issue}
    (he : ∀ s, exec i s = .next (s.onIssue fun is => if is.qon then g s is else is)) (hg : ∀ s is, g s is = f s is) : Acts i f := by
  intro s is h
  have hl := leaves_of_onIssue h (he s)
  simpa only [hg] using hl

theorem transfer_eq_taking (is : Issue) (n : Next) : is.transfer n = taking is n := rfl

/-- A coach fault raised at a slot: the fault that stands in the bundle stays exactly when a plane at or below raised it (R118). -/
theorem raise_eq_raising (is : Issue) (code : Nat) (addr : Dword) : is.raise code addr = raising is code addr := by
  unfold Issue.raise raising
  cases hf : is.cfault with
  | none => rfl
  | some g =>
    by_cases hp : g.plane ≤ is.cur.plane
    · simp only [hp, if_true, ← hf]
    · simp only [hp, if_false]

/-! ### Targets (R48, R50, R130, R132) -/

/-- A displacement counts bundles of 16 bytes, in either direction. -/
theorem add_signExtend_shift {w n : Nat} (base : Nat) (disp : BitVec n) :
    BitVec.ofNat w base + (disp.signExtend w <<< 4) = BitVec.ofInt w (base + 16 * disp.toInt) := by
  have h16 : BitVec.twoPow w 4 = BitVec.ofInt w 16 := BitVec.eq_of_toNat_eq (by simp [BitVec.toNat_twoPow])
  rw [BitVec.shiftLeft_eq_mul_twoPow, BitVec.signExtend, BitVec.ofInt_add, BitVec.ofInt_mul, BitVec.ofInt_natCast, h16,
    BitVec.mul_comm]

theorem target_eq_targetOf (is : Issue) (disp : BitVec 23) : is.target disp = targetOf is disp := by
  rw [Issue.target, targetOf, ← add_signExtend_shift, BitVec.ofNat_toNat, BitVec.setWidth_eq]

/-- The header that CALL names: its address counts from the function's base and the bundle's offset (R132). -/
theorem callee_header_eq (base : Dword) (off : Word) (disp : BitVec 23) :
    base + off.zeroExtend 64 + (disp.signExtend 64 <<< 4) = BitVec.ofInt 64 (base.toNat + off.toNat + 16 * disp.toInt) := by
  rw [← Int.natCast_add, ← add_signExtend_shift, BitVec.ofNat_add, BitVec.ofNat_toNat, BitVec.ofNat_toNat, BitVec.setWidth_eq]

/-- The target that BRXU reads: an offset and an index in units of 16 bytes (R134). -/
theorem indexed_target_eq (x y : Word) : x + (y <<< 4) = BitVec.ofNat 32 (x.toNat + 16 * y.toNat) := by
  apply BitVec.eq_of_toNat_eq
  simp only [BitVec.toNat_add, BitVec.toNat_shiftLeft, BitVec.toNat_ofNat, Nat.shiftLeft_eq]
  omega

/-- A register pair read as a number: the second register is its high half (R50). -/
theorem gpair_eq_ofNat (c : Coach) (r : Nat) :
    c.gpair r = BitVec.ofNat 64 ((c.gget r).toNat + 2 ^ 32 * (c.gget (r + 1)).toNat) := by
  apply BitVec.eq_of_toNat_eq
  have hlo := (c.gget r).isLt
  have hhi := (c.gget (r + 1)).isLt
  rw [Coach.gpair, pair, BitVec.toNat_append, ← Nat.shiftLeft_add_eq_or_of_lt hlo, Nat.shiftLeft_eq, BitVec.toNat_ofNat]
  omega

theorem callTo_eq_calling (s : State) (is : Issue) (hdr : Dword) : is.callTo s hdr = calling s is hdr := by
  unfold Issue.callTo calling
  by_cases ha : hdr.toNat % 16 ≠ 0
  · rw [if_pos ha, if_pos ha, raise_eq_raising]
  · rw [if_neg ha, if_neg ha]
    cases s.readHeader is.task hdr with
    | none => exact raise_eq_raising ..
    | some ctx =>
      by_cases hd : is.frag.calls.length < 16
      · simp only [hd, Nat.not_le.mpr hd, if_true, if_false, transfer_eq_taking]
      · simp only [hd, Nat.not_lt.mp hd, if_true, if_false, raise_eq_raising]

/-! ### Branches, calls, returns and ends -/

/-- BRD: none, all or some of the active lanes branch; some need room for one more fragment (R131). -/
theorem execBrd_leaves {s : State} {is : Issue} (h : s.issue = some is) (disp : BitVec 23) :
    let t := is.active &&& is.snap.penable is.cur.pred
    Leaves (.brd disp) s
      (if t = 0 then is
       else if t = is.active then taking is (.jump (targetOf is disp))
       else if is.coach.entries < 8 then taking is (.split t (targetOf is disp))
       else raising is cSPLIT_OVERFLOW 0) := by
  intro t
  have hl := leaves_of_onIssue h (exec_brd (disp := disp) s)
  simp only [target_eq_targetOf, transfer_eq_taking, raise_eq_raising] at hl
  by_cases hroom : is.coach.entries < 8
  · simpa only [hroom, Nat.not_le.mpr hroom, if_true, if_false] using hl
  · simpa only [hroom, Nat.not_lt.mp hroom, if_true, if_false] using hl

/-- Settles O20: each transfer is the model's own, its target and its header rewritten as numbers; the split is the one case by lanes. -/
theorem controlTransfers : Obligations.ControlTransfers := by
  unfold Obligations.ControlTransfers
  refine ⟨fun disp => ?bra, fun disp => ?bru, fun disp s is h => execBrd_leaves h disp, fun k => ?brxu, fun disp => ?call,
    fun k => ?calli, acts_of_onIssue exec_ret fun _ _ => rfl, acts_of_onIssue exec_exit fun _ _ => rfl,
    acts_of_onIssue exec_tend fun _ _ => rfl⟩
  case bra => exact acts_of_onIssue (fun s => exec_bra s) fun _ is => by rw [transfer_eq_taking, target_eq_targetOf]
  case bru => exact acts_of_onIssue (fun s => exec_bru s) fun _ is => by rw [transfer_eq_taking, target_eq_targetOf]
  case brxu => exact acts_of_onIssue (fun s => exec_brxu s) fun _ is => by rw [transfer_eq_taking, indexed_target_eq]
  case call => exact acts_of_onIssue (fun s => exec_call s) fun s is => by rw [callTo_eq_calling, callee_header_eq]
  case calli => exact acts_of_onIssue (fun s => exec_calli s) fun s is => by rw [callTo_eq_calling, gpair_eq_ofNat]

/-! ### Reconvergence registers (R136, R137) -/

theorem rbGet_rbPut_ne (c : Coach) {j k : BitVec 2} (hj : j ≠ k) (r : Option Rcv) : (c.rbPut k r).rbGet j = c.rbGet j := by
  have hput : ((r.map fun x => (k, x)).toList.find? fun x => decide (x.1 = j)) = none := by
    cases r <;> simp [Ne.symm hj]
  have hfilter : (fun x : BitVec 2 × Rcv => decide ((x.1 != k) = true ∧ decide (x.1 = j) = true)) = fun x => decide (x.1 = j) := by
    funext x
    by_cases hx : x.1 = j <;> simp [hx, hj]
  simp only [Coach.rbGet, Coach.rbPut, List.find?_append, List.find?_filter, hput, Option.or_none, hfilter]

theorem rbGet_rbPut_same (c : Coach) (k : BitVec 2) (r : Option Rcv) : (c.rbPut k r).rbGet k = r := by
  have hgone : ((c.rb.filter fun x => x.1 != k).find? fun x => decide (x.1 = k)) = none := by
    simp [List.find?_eq_none]
  simp only [Coach.rbGet, Coach.rbPut, List.find?_append, hgone, Option.none_or]
  cases r <;> simp

theorem rbGet_release (c : Coach) (now n : Nat) (fuse : Bool) (sel : Frag → Bool) (k : BitVec 2) :
    (c.release now n fuse sel).rbGet k = c.rbGet k := rfl

/-- A release leaves alone every fragment that it does not pick. -/
theorem mem_release_of_not_picked {c : Coach} {sel : Frag → Bool} {f : Frag} (hf : f ∈ c.frags) (hsel : sel f = false)
    (now n : Nat) (fuse : Bool) : f ∈ (c.release now n fuse sel).frags :=
  List.mem_append_left _ (List.mem_filter.mpr ⟨hf, by simp [hsel]⟩)

/-- A fragment released without fusing goes on by itself, at once. -/
theorem mem_release_unfused {c : Coach} {sel : Frag → Bool} {f : Frag} (hf : f ∈ c.frags) (hsel : sel f = true) (now : Nat) :
    { f with hold := .none, readySince := now, stall := none } ∈ (c.release now 0 false sel).frags :=
  List.mem_append_right _ (List.mem_map.mpr ⟨f, List.mem_filter.mpr ⟨hf, hsel⟩, rfl⟩)

/-- Where no fragment is held at RCVWAIT rbk, nothing changes. -/
theorem settleRcv_of_none_held {c : Coach} {k : BitVec 2} (h : ∀ f ∈ c.frags, f.hold ≠ .rcv k) (now : Nat) :
    c.settleRcv now k = c := by
  have hany : (c.frags.any fun f => f.hold == .rcv k) = false := by simpa [List.any_eq_false] using h
  simp [Coach.settleRcv, hany]

/-- The other registers keep their contents. -/
theorem rbGet_settleRcv_ne (c : Coach) (now : Nat) {j k : BitVec 2} (hj : j ≠ k) : (c.settleRcv now k).rbGet j = c.rbGet j := by
  simp only [Coach.settleRcv]
  split
  · split
    · exact rbGet_release ..
    · split <;> split <;> simp only [rbGet_rbPut_ne _ hj, rbGet_release]
  · rfl

/-- A fragment that rbk does not name is released by itself; that the others may then fuse does not touch it. -/
theorem settleRcv_releases_mismatched {c : Coach} {k : BitVec 2} {r : Rcv} {f : Frag} (hr : c.rbGet k = some r)
    (hf : f ∈ c.frags) (hheld : f.hold = .rcv k) (hat : f.atRcv r = false) (now : Nat) :
    ∃ g ∈ (c.settleRcv now k).frags, g.age = f.age ∧ g.hold = .none ∧ g.mask = f.mask := by
  have hany : (c.frags.any fun f => f.hold == .rcv k) = true := List.any_eq_true.mpr ⟨f, hf, by simp [hheld]⟩
  have hpick : (f.hold == .rcv k && !f.atRcv r) = true := by simp [hheld, hat]
  have hmis : (c.frags.any fun f => f.hold == .rcv k && !f.atRcv r) = true := List.any_eq_true.mpr ⟨f, hf, hpick⟩
  refine ⟨{ f with hold := .none, readySince := now, stall := none }, ?_, rfl, rfl, rfl⟩
  have hfree := mem_release_unfused (sel := fun f => f.hold == .rcv k && !f.atRcv r) hf hpick now
  simp only [Coach.settleRcv, hany, hr, hmis, if_true]
  split
  · exact mem_release_of_not_picked hfree rfl now 0 true
  · exact hfree

/-- The coach as RCVSET leaves it: rbk written, and the fragments held at RCVWAIT rbk measured against it unless the task ends. -/
def rcvsetCoach (now : Nat) (is : Issue) (k : BitVec 2) (r : Rcv) : Coach :=
  let c := is.coach.rbPut k (some r)
  if is.task.stopSince.isSome || is.task.tend then c else c.settleRcv now k

theorem rcvset_leaves {s : State} {is : Issue} (h : s.issue = some is) (k : BitVec 2) (disp : BitVec 23) :
    Leaves (.rcvset k disp) s (if is.qon then
      { is with coach := rcvsetCoach s.clock is k { off := targetOf is disp, hdr := is.frag.ctx.hdr, mask := is.frag.mask } }
      else is) := by
  have hl := leaves_of_onIssue h (exec_rcvset (k := k) (disp := disp) s)
  rw [target_eq_targetOf] at hl
  exact hl

theorem rbGet_rcvsetCoach_ne (now : Nat) (is : Issue) {j k : BitVec 2} (hj : j ≠ k) (r : Rcv) :
    (rcvsetCoach now is k r).rbGet j = is.coach.rbGet j := by
  unfold rcvsetCoach
  dsimp only
  split
  · exact rbGet_rbPut_ne _ hj _
  · rw [rbGet_settleRcv_ne _ _ hj, rbGet_rbPut_ne _ hj]

/-- With nobody held at RCVWAIT rbk, RCVSET writes the register and does no more. -/
theorem rcvsetCoach_of_none_held {is : Issue} {k : BitVec 2} (h : ∀ f ∈ is.coach.frags, f.hold ≠ .rcv k) (now : Nat) (r : Rcv) :
    rcvsetCoach now is k r = is.coach.rbPut k (some r) := by
  have hs : (is.coach.rbPut k (some r)).settleRcv now k = is.coach.rbPut k (some r) :=
    settleRcv_of_none_held (c := is.coach.rbPut k (some r)) h now
  simp only [rcvsetCoach, hs, ite_self]

/-- In a task that goes on, RCVSET releases a fragment held at RCVWAIT rbk that the new contents do not name. -/
theorem rcvsetCoach_releases_mismatched {is : Issue} {k : BitVec 2} {r : Rcv} {f : Frag} (hstop : is.task.stopSince = none)
    (htend : is.task.tend = false) (hf : f ∈ is.coach.frags) (hheld : f.hold = .rcv k) (hat : f.off ≠ r.off ∨ f.ctx.hdr ≠ r.hdr)
    (now : Nat) : ∃ g ∈ (rcvsetCoach now is k r).frags, g.age = f.age ∧ g.hold = .none ∧ g.mask = f.mask := by
  have hno : f.atRcv r = false := by
    simpa only [Frag.atRcv, Bool.and_eq_false_iff, beq_eq_false_iff_ne] using hat
  have hgo : rcvsetCoach now is k r = (is.coach.rbPut k (some r)).settleRcv now k := by simp [rcvsetCoach, hstop, htend]
  exact hgo ▸ settleRcv_releases_mismatched (c := is.coach.rbPut k (some r)) (rbGet_rbPut_same ..) hf hheld hno now

/-- RCVWAIT asks for its hold where rbk names the bundle in issue (R137). -/
theorem rcvwait_leaves {s : State} {is : Issue} (h : s.issue = some is) (k : BitVec 2) :
    Leaves (.rcvwait k) s
      (if is.qon = true ∧ ∃ r, is.coach.rbGet k = some r ∧ r.off = is.frag.off ∧ r.hdr = is.frag.ctx.hdr
       then { is with hold := .rcv k } else is) := by
  have hl := leaves_of_onIssue h (exec_rcvwait (k := k) s)
  simpa only [Bool.and_eq_true, Option.any_eq_true, Frag.atRcv, beq_iff_eq, eq_comm (a := is.frag.off),
    eq_comm (a := is.frag.ctx.hdr)] using hl

/-! ### Planes (R139) -/

/-- A table after writes at a list of keys: each of them holds its new value, every other key what it held. -/
theorem tget_foldl_tput {β : Type} [DecidableEq β] (d : β) (x : Nat → β) (ls : List Nat) (t : Table β) (k : Nat) :
    tget d (ls.foldl (fun t l => tput d t l (x l)) t) k = if k ∈ ls then x k else tget d t k := by
  induction ls generalizing t with
  | nil => simp
  | cons l rest ih =>
    rw [List.foldl_cons, ih, tget_tput]
    by_cases hrest : k ∈ rest
    · simp [hrest]
    · by_cases hl : k = l
      · subst hl; simp [hrest]
      · simp [hrest, hl]

/-- The planes of the lanes once those of a mask have been set. -/
theorem piget_set_lanes (c : Coach) (m : Lanes) (x : Nat → BitVec 3) {l : Nat} (hl : l < 64) :
    ({ c with pi := (laneList m).foldl (fun t l => tput 0 t l (x l)) c.pi } : Coach).piget l
      = if m.getLsbD l = true then x l else c.piget l := by
  simp only [Coach.piget, tget_foldl_tput, mem_laneList, hl, true_and]

/-- Settles O22: a release adds the mismatched fragments unfused, and a later fusion does not pick them; planes change lane by lane. -/
theorem reconvergenceAndPlanes : Obligations.ReconvergenceAndPlanes := by
  unfold Obligations.ReconvergenceAndPlanes
  refine ⟨fun k disp s is h => ?rcvset, fun k s is h => ?rcvwait, fun n s is h => ?plset, fun src s is h => ?plsetr⟩
  case rcvset =>
    refine ⟨_, rcvset_leaves h k disp, ?_⟩
    cases hq : is.qon with
    | false => exact ⟨rfl, fun _ => rfl, fun _ _ => rfl, fun hon => absurd hon (by decide)⟩
    | true =>
      refine ⟨rfl, fun hoff => absurd hoff (by decide), fun j hj => rbGet_rcvsetCoach_ne _ _ hj _, fun _ => ⟨fun hnone => ?_, ?_⟩⟩
      · simp only [if_true, rcvsetCoach_of_none_held hnone]
        exact ⟨_, rfl, rbGet_rbPut_same ..⟩
      · exact fun hstop htend _ f hf hheld hat => rcvsetCoach_releases_mismatched hstop htend hf hheld hat _
  case rcvwait =>
    have hl := rcvwait_leaves h k
    cases hr : is.coach.rbGet k with
    | none =>
      rw [if_neg fun hon => by obtain ⟨-, r, hsome, -⟩ := hon; cases hr.symm.trans hsome] at hl
      simpa only [hr, ite_self] using hl
    | some r =>
      cases hq : is.qon with
      | false => simpa only [hq, Bool.false_eq_true, false_and, if_false] using hl
      | true => simpa only [hq, hr, Option.some.injEq, exists_eq_left', true_and, if_true] using hl
  case plset => exact ⟨_, _, leaves_of_onIssue h (exec_plset s), rfl, fun l hl => piget_set_lanes _ _ _ hl⟩
  case plsetr => exact ⟨_, _, leaves_of_onIssue h (exec_plsetr s), rfl, fun l hl => piget_set_lanes _ _ _ hl⟩

/-! ### Loops, TSPAWN and TSIG (R149, R155, R317) -/

/-- The lowest lane of a mask is the first that a search from lane 0 meets. -/
theorem lowLane_eq_find (m : Lanes) : lowLane m = ((List.range 64).find? m.getLsbD).getD 0 := by
  rw [lowLane, laneList, ← List.head?_filter, List.headD_eq_head?_getD]

/-- Settles O25: LOOP by whether an outer loop is open, TSPAWN and TSIG by rewriting the lane and the values that they name. -/
theorem loopsAndTaskRequests : Obligations.LoopsAndTaskRequests := by
  unfold Obligations.LoopsAndTaskRequests
  refine ⟨fun b t ns => ?loop, fun k => ?tspawn, fun g => ?tsig⟩
  case loop =>
    refine acts_of_onIssue (fun s => exec_loop s) fun _ is => ?_
    dsimp only
    rw [raise_eq_raising]
    cases hloops : is.frag.loops with
    | nil => simp
    | cons e rest => simp [or_assoc]
  case tspawn =>
    refine acts_of_onIssue (fun s => exec_tspawn s) fun s is => ?_
    simp only [gpair_eq_ofNat, lowLane_eq_find, Option.isNone_iff_eq_none]
  case tsig =>
    refine acts_of_onIssue (fun s => exec_tsig s) fun s is => ?_
    rw [BitVec.ofNat_toNat]

end Sys2Proof.CoachControl
end
